-- ==== Sys2Proof/Word.lean ====
section
/-! DEFINITION. The machine's plain words: bytes, 64-bit registers, 16-byte granules and the small enumerations that the
instruction syntax needs (memory ports, queue levels, boot and link outcomes). R2, R3, R95, R165, R166. -/

namespace Sys2Proof

/-- One byte of memory (R3). -/
abbrev Byte := BitVec 8
/-- A Pacer X register, a cursor or a system register (R95). -/
abbrev Word := BitVec 64
/-- An instruction word (R203). -/
abbrev IWord := BitVec 32
/-- The number of an X register (R205). -/
abbrev XReg := BitVec 5
/-- The number of a C register (R205). -/
abbrev CReg := BitVec 4

/-- A memory port: an SRAM bank group with its DRU (region and bank group), a CHU, or the place outside the device that
answers for HOST, PEER and RWIN addresses (R146, R165). -/
inductive Port where
  | bank (region group : Nat)
  | chu (n : Nat)
  | host
  | peer (rank : Nat)
  | rwin (window : Nat)
  | aperture
deriving DecidableEq, Repr, Inhabited

/-- A level of the ordering machine from which PASS moves a request on (R165, R167). -/
inductive Level where
  | cq | rq | dq
deriving DecidableEq, Repr, Inhabited

/-- The scopes of R166, by code 0 to 4. -/
inductive Scope where
  | cfg | rgn | die | dev | sys
deriving DecidableEq, Repr, Inhabited

/-- The scope a 3-bit code names, if it names one (R166). -/
def Scope.ofCode (c : Nat) : Option Scope :=
  match c with
  | 0 => some .cfg
  | 1 => some .rgn
  | 2 => some .die
  | 3 => some .dev
  | 4 => some .sys
  | _ => none

def Scope.code : Scope → Nat
  | .cfg => 0
  | .rgn => 1
  | .die => 2
  | .dev => 3
  | .sys => 4

/-- How LOAD ends (R27). -/
inductive LoadEnd where
  | ok | cannotInstall
deriving DecidableEq, Repr, Inhabited

/-- How INIT ends (R26, R27); a thermal stop names the die whose junction reached its limit and its temperature (R13, R32). -/
inductive InitEnd where
  | ok | trainingFailed | thermalStop (die : Nat) (temp : BitVec 32) | fuseFailed
deriving DecidableEq, Repr, Inhabited

/-- The host's view of device memory: an aperture of a virtual device, or the supervisor aperture (R15). -/
inductive Aperture where
  | vd (n : Nat)
  | sup
deriving DecidableEq, Repr, Inhabited

/-- A host's write with completion: the thread, where it writes, and the bytes (R14). -/
structure HostWrite where
  thread : Nat
  ap : Aperture
  addr : Nat
  bytes : List Byte
deriving DecidableEq, Repr, Inhabited

/-- The operations of an AMO (R274). -/
inductive AmoOp where
  | add | and | or | xor | min | max | swap | cas
deriving DecidableEq, Repr, Inhabited

/-- The operations of a reduction at memory (R275). -/
inductive RedOp where
  | fadd | fmax | fmin | iadd
deriving DecidableEq, Repr, Inhabited

/-- What a peer asks of this device over the Celcen fabric (R20, R274, R275, R277): a read of n bytes, a write, an atomic on an 8-byte word, a
reduction (with its rank and group size where it is ordered), or a contribution to a reduction window. -/
inductive PeerOp where
  | read (n : Nat)
  | write (bytes : List Byte)
  | amo (op : AmoOp) (v cmp : Word)
  | red (op : RedOp) (size : Nat) (rmode : BitVec 3) (v : Word) (ord : Option (Nat × Nat))
  | wred (rank e : Nat) (v : Word)
deriving DecidableEq, Repr, Inhabited

/-- The four links of class 11 and the log (R32, R122). -/
inductive Link where
  | isaud | celcen0 | celcen1 | die
deriving DecidableEq, Repr, Inhabited

/-- One window that COMMUNICATOR_FORMATION opens (R277). -/
structure WindowSpec where
  window : Nat
  n : Nat
  ranks : List ((Nat × Nat) × Nat)
  op : Nat
  fmt : Nat
  rmode : BitVec 3
  elems : Nat
  home : Nat
  completion : Nat
deriving DecidableEq, Repr, Inhabited

/-- Where a soft error strikes the Field (R127, class 5). -/
inductive SoftErrorSite where
  | token | state
deriving DecidableEq, Repr, Inhabited

end Sys2Proof
end

