-- ==== Sys2Proof/Machine/Numbers.lean ====
section
/-! DEFINITION. Number formats, conversions and the order of sums (R182 to R202), and the functions of the FX elements (R313). A value
is exact until a named helper rounds it: a finite value is a signed quotient of naturals times a power of two, so that a quotient, a
root with its sticky bit and a function's approximation are all rounded by the one function roundMag. -/

namespace Sys2Proof.Machine

open Sys2Proof

/-- An exact value: NaN (NaR among them), an infinity, or ± num / den × 2^e; zero keeps its sign (R189). den is never 0. -/
inductive Ext where
  | nan
  | inf (neg : Bool)
  | fin (neg : Bool) (num den : Nat) (e : Int)
deriving DecidableEq, Repr, Inhabited

/-- A binary floating-point format (R183): fraction bits, bias, whole width, largest finite magnitude code, whether it has infinities,
and the canonical NaN code (formats without NaN give +0, R190). -/
structure FloatFmt where
  width : Nat
  fbits : Nat
  bias : Nat
  maxMag : Nat
  hasInf : Bool
  nanCode : Nat
  hasNan : Bool
deriving DecidableEq, Repr

def fp64 : FloatFmt := { width := 64, fbits := 52, bias := 1023, maxMag := 0x7FEFFFFFFFFFFFFF, hasInf := true, nanCode := 0x7FF8000000000000, hasNan := true }
def fp32 : FloatFmt := { width := 32, fbits := 23, bias := 127, maxMag := 0x7F7FFFFF, hasInf := true, nanCode := 0x7FC00000, hasNan := true }
def bf16 : FloatFmt := { width := 16, fbits := 7, bias := 127, maxMag := 0x7F7F, hasInf := true, nanCode := 0x7FC0, hasNan := true }
def fp16 : FloatFmt := { width := 16, fbits := 10, bias := 15, maxMag := 0x7BFF, hasInf := true, nanCode := 0x7E00, hasNan := true }
def e5m2 : FloatFmt := { width := 8, fbits := 2, bias := 15, maxMag := 0x7B, hasInf := true, nanCode := 0x7E, hasNan := true }
def e4m3 : FloatFmt := { width := 8, fbits := 3, bias := 7, maxMag := 0x7E, hasInf := false, nanCode := 0x7F, hasNan := true }
def e3m2 : FloatFmt := { width := 6, fbits := 2, bias := 3, maxMag := 0x1F, hasInf := false, nanCode := 0, hasNan := false }
def e2m3 : FloatFmt := { width := 6, fbits := 3, bias := 1, maxMag := 0x1F, hasInf := false, nanCode := 0, hasNan := false }
def e2m1 : FloatFmt := { width := 4, fbits := 1, bias := 1, maxMag := 0x7, hasInf := false, nanCode := 0, hasNan := false }

/-! ### Exact arithmetic -/

def Ext.isNan : Ext → Bool
  | .nan => true
  | _ => false

def Ext.isZero : Ext → Bool
  | .fin _ n _ _ => n == 0
  | _ => false

def Ext.isNeg : Ext → Bool
  | .nan => false
  | .inf n => n
  | .fin n _ _ _ => n

def Ext.neg : Ext → Ext
  | .nan => .nan
  | .inf n => .inf (!n)
  | .fin n a d e => .fin (!n) a d e

def Ext.ofNat (n : Nat) : Ext := .fin false n 1 0
def Ext.ofInt (i : Int) : Ext := .fin (decide (i < 0)) i.natAbs 1 0

/-- 2^k as a natural, 1 for a negative k. -/
def pow2 (k : Int) : Nat := 2 ^ k.toNat

/-- a × b in extended-real arithmetic: 0 × ∞ is NaN (R192). -/
def Ext.mul : Ext → Ext → Ext
  | .nan, _ => .nan
  | _, .nan => .nan
  | .inf s, .inf t => .inf (s != t)
  | .inf s, .fin t n _ _ => if n == 0 then .nan else .inf (s != t)
  | .fin s n _ _, .inf t => if n == 0 then .nan else .inf (s != t)
  | .fin s n d e, .fin t m c f => .fin (s != t) (n * m) (d * c) (e + f)

/-- a / b: 0 / 0 and ∞ / ∞ are NaN, and a finite value over 0 is an infinity (R226). -/
def Ext.div : Ext → Ext → Ext
  | .nan, _ => .nan
  | _, .nan => .nan
  | .inf _, .inf _ => .nan
  | .inf s, .fin t _ _ _ => .inf (s != t)
  | .fin s _ _ _, .inf t => .fin (s != t) 0 1 0
  | .fin s n d e, .fin t m c f =>
    if m == 0 then (if n == 0 then .nan else .inf (s != t)) else .fin (s != t) (n * c) (d * m) (e - f)

/-- a + b; down says that an exact zero of opposite signs is −0 (R189). -/
def Ext.add (down : Bool) : Ext → Ext → Ext
  | .nan, _ => .nan
  | _, .nan => .nan
  | .inf s, .inf t => if s == t then .inf s else .nan
  | .inf s, .fin .. => .inf s
  | .fin .., .inf t => .inf t
  | .fin s n d e, .fin t m c f =>
    let g := min e f
    let a : Int := (if s then -1 else 1) * ((n * pow2 (e - g) * c : Nat) : Int)
    let b : Int := (if t then -1 else 1) * ((m * pow2 (f - g) * d : Nat) : Int)
    let r := a + b
    if r == 0 then .fin (if n == 0 && m == 0 && s == t then s else down) 0 1 0
    else .fin (decide (r < 0)) r.natAbs (d * c) g

/-- The order of the values with −0 below +0; NaN compares with nothing (R158, R200, R227). -/
def Ext.lt : Ext → Ext → Bool
  | .nan, _ => false
  | _, .nan => false
  | .inf s, .inf t => s && !t
  | .inf s, .fin .. => s
  | .fin .., .inf t => !t
  | .fin s n d e, .fin t m c f =>
    let g := min e f
    let a := n * pow2 (e - g) * c
    let b := m * pow2 (f - g) * d
    match s, t with
    | true, false => true
    | false, true => false
    | false, false => decide (a < b)
    | true, true => decide (b < a)

/-- The numeric order, in which −0 equals +0 (R228). -/
def Ext.numLt (a b : Ext) : Bool := !(a.isZero && b.isZero) && a.lt b
def Ext.numEq (a b : Ext) : Bool := !a.isNan && !b.isNan && !a.numLt b && !b.numLt a

/-- ⌊log2 (num / den)⌋ for num, den > 0. -/
def floorLog2 (num den : Nat) : Int :=
  let e : Int := (Nat.log2 num : Int) - (Nat.log2 den : Int)
  if num * pow2 (-e) ≥ den * pow2 e then e else e - 1

/-- The greatest r below 2^k with r² ≤ n. -/
def isqrt : Nat → Nat → Nat → Nat
  | 0, _, r => r
  | k + 1, n, r => isqrt k n (if (r + 2 ^ k) * (r + 2 ^ k) ≤ n then r + 2 ^ k else r)

/-- The square root of a finite non-negative value, exact or with a sticky bit far below any rounding place (R226). -/
def Ext.sqrt : Ext → Ext
  | .nan => .nan
  | .inf n => if n then .nan else .inf false
  | .fin s n d e =>
    if n == 0 then .fin s 0 1 0
    else if s then .nan
    else
      let k : Int := 160
      let up := if (e % 2) == 0 then 2 * k else 2 * k + 1
      let x := n * pow2 up / d
      let r := isqrt (Nat.log2 x / 2 + 2) x 0
      if r * r == x && n * pow2 up % d == 0 then .fin false r 1 ((e - up) / 2)
      else .fin false (2 * r + 1) 1 ((e - up) / 2 - 1)

/-! ### Rounding (R189) -/

/-- n + rest / den rounded in direction rm (0 nearest even, 1 toward zero, 2 toward +∞, 3 toward −∞). -/
def roundUp (neg : Bool) (rm n rest den : Nat) : Nat :=
  match rm with
  | 0 => if 2 * rest > den || (2 * rest == den && n % 2 == 1) then n + 1 else n
  | 1 => n
  | 2 => if !neg && rest != 0 then n + 1 else n
  | _ => if neg && rest != 0 then n + 1 else n

/-- num / den × 2^e rounded to a multiple of 2^q: the multiple, and whether it is inexact. -/
def roundTo (neg : Bool) (rm : Nat) (num den : Nat) (e q : Int) : Nat × Bool :=
  let a := num * pow2 (e - q)
  let b := den * pow2 (q - e)
  (roundUp neg rm (a / b) (a % b) b, a % b != 0)

/-- A rounded result with the exceptions it raises (R197). -/
structure Rounded where
  code : Nat
  of : Bool
  uf : Bool
  nx : Bool
deriving DecidableEq, Repr

def FloatFmt.sign (f : FloatFmt) (neg : Bool) (mag : Nat) : Nat := if neg then 2 ^ (f.width - 1) + mag else mag

/-- RoundFloat of an exact value that is not NaN, with the exceptions (R189, R197). -/
def roundFloat (f : FloatFmt) (rm : Nat) (sat ftz : Bool) (x : Ext) : Rounded :=
  match x with
  | .nan => { code := f.nanCode, of := false, uf := false, nx := false }
  | .inf s => { code := f.sign s (if f.hasInf then f.maxMag + 1 else f.maxMag), of := false, uf := false, nx := false }
  | .fin s n d e =>
    if n == 0 then { code := f.sign s 0, of := false, uf := false, nx := false }
    else
      let top := floorLog2 n d + e
      let emin : Int := 1 - (f.bias : Int)
      let fb : Int := f.fbits
      let (unb, _) := roundTo s rm n d e (top - fb)
      let tiny := decide (top < emin) && !(top + 1 == emin && unb == 2 ^ (f.fbits + 1))
      if tiny && ftz then { code := f.sign s 0, of := false, uf := true, nx := true }
      else
        let at_ := max top emin
        let (m, nx) := roundTo s rm n d e (at_ - fb)
        let mag := pow2 fb * (at_ - emin).toNat + m
        if mag > f.maxMag then
          let clip := sat || !f.hasInf || rm == 1 || (rm == 2 && s) || (rm == 3 && !s)
          { code := f.sign s (if clip then f.maxMag else f.maxMag + 1), of := true, uf := false, nx := true }
        else { code := f.sign s mag, of := false, uf := tiny && nx, nx := nx }

/-- RoundFp32 (R189). -/
def roundFp32 (x : Ext) : Nat := (roundFloat fp32 0 false false x).code

/-- The exact value of a code of a floating-point format (R183). -/
def FloatFmt.value (f : FloatFmt) (c : Nat) : Ext :=
  let half := 2 ^ (f.width - 1)
  let s := decide (c % (2 * half) ≥ half)
  let mag := c % half
  if mag > f.maxMag then (if f.hasInf && mag == f.maxMag + 1 then .inf s else .nan)
  else
    let ef := mag / 2 ^ f.fbits
    let fr := mag % 2 ^ f.fbits
    if ef == 0 then .fin s fr 1 (1 - (f.bias : Int) - f.fbits)
    else .fin s (2 ^ f.fbits + fr) 1 ((ef : Int) - f.bias - f.fbits)

/-- The code is a subnormal (R183). -/
def FloatFmt.subnormal (f : FloatFmt) (c : Nat) : Bool :=
  let mag := c % 2 ^ (f.width - 1)
  mag != 0 && decide (mag < 2 ^ f.fbits)

/-- A subnormal becomes zero of its sign (R196, R198, R304). -/
def FloatFmt.flush (f : FloatFmt) (ftz : Bool) (c : Nat) : Nat :=
  if ftz && f.subnormal c then f.sign (decide (c ≥ 2 ^ (f.width - 1))) 0 else c

def FloatFmt.isNan (f : FloatFmt) (c : Nat) : Bool := (f.value c).isNan
/-- The NaN with its top fraction bit set (R197). -/
def FloatFmt.quiet (f : FloatFmt) (c : Nat) : Nat := c ||| 2 ^ (f.fbits - 1)

/-! ### RG8 and RG6 (R186 to R188) -/

/-- The run of bits equal to bit i of c, from bit i down, at most fuel bits. -/
def runLength (c : Nat) (v : Bool) : Nat → Nat
  | 0 => 0
  | k + 1 => if c.testBit k == v then 1 + runLength c v k else 0

/-- DecodeRg for a positive code of n bits (R186). -/
def decodeRgPos (c n : Nat) : Ext :=
  let lead := c.testBit (n - 2)
  let m := runLength c lead (n - 1)
  let k : Int := if lead then (m : Int) - 1 else -(m : Int)
  let left := n - 1 - m - 1
  let e := if left == 0 then 0 else c / 2 ^ (left - 1) % 2
  let w := left - 1
  let f := c % 2 ^ w
  .fin false (2 ^ w + f) 1 (2 * k + (e : Int) - w)

/-- DecodeRg (R186). -/
def decodeRg (c n : Nat) : Ext :=
  if c == 0 then .fin false 0 1 0
  else if c == 2 ^ (n - 1) then .nan
  else if c ≥ 2 ^ (n - 1) then (decodeRgPos (2 ^ n - c) n).neg
  else decodeRgPos c n

/-- EncodeRg (R188): the magnitude's unbounded bit string rounded to nearest even. -/
def encodeRg (x : Ext) (n : Nat) : Nat :=
  match x with
  | .nan => 2 ^ (n - 1)
  | .inf _ => 2 ^ (n - 1)
  | .fin s num d e =>
    if num == 0 then 0
    else
      let top := floorLog2 num d + e
      let lim : Int := 2 * ((n : Int) - 2)
      let k := top / 2
      let t :=
        if top ≥ lim then 2 ^ (n - 1) - 1
        else if top < -lim || (top == -lim && num * pow2 (e - top) == d * pow2 (top - e)) then 1
        else
          let len : Int := if k ≥ 0 then k + 2 else 1 - k
          let pre : Nat := if k ≥ 0 then pow2 (k + 2) - 2 else 1
          let bit : Nat := (top % 2).toNat
          -- (pre, bit, fraction) as a number: pre × 2 + bit + (x / 2^top − 1), scaled by 2^(n − 2 − len)
          let a := num * pow2 (e - top)
          let b := d * pow2 (top - e)
          let v := (2 * pre + bit) * b + (a - b)
          let sc : Int := (n : Int) - 2 - len
          (roundTo false 0 v b 0 (-sc)).1
      if s then 2 ^ n - t else t

/-! ### Format codes of links and memory (R268) -/

/-- The float format of a format code. -/
def floatOf (c : Nat) : Option FloatFmt :=
  match c with
  | 1 => some fp32
  | 2 => some bf16
  | 3 => some fp16
  | 4 => some e4m3
  | 5 => some e5m2
  | 6 => some e2m3
  | 7 => some e3m2
  | 8 => some e2m1
  | _ => none

/-- The bits of one value of a format in memory or on a link (R99, R182): 6-bit formats take a byte. -/
def fmtBits (c : Nat) : Nat :=
  match c with
  | 2 => 16
  | 3 => 16
  | 12 => 16
  | 4 => 8
  | 5 => 8
  | 6 => 8
  | 7 => 8
  | 9 => 8
  | 10 => 8
  | 13 => 8
  | 15 => 8
  | 8 => 4
  | 14 => 4
  | 16 => 1
  | _ => 32

/-- Values per token (R99). -/
def fmtCount (c : Nat) : Nat := 2048 / fmtBits c

/-- The bits of a code: 6 for the 6-bit formats. -/
def fmtWidth (c : Nat) : Nat := if c == 6 || c == 7 || c == 10 then 6 else fmtBits c

def isIntFmt (c : Nat) : Bool := c == 11 || c == 12 || c == 13 || c == 14
def isFloatFmt (c : Nat) : Bool := 1 ≤ c && c ≤ 10

/-- Two's complement of w bits. -/
def toInt (w c : Nat) : Int := if c % 2 ^ w ≥ 2 ^ (w - 1) then (c % 2 ^ w : Nat) - (2 ^ w : Nat) else (c % 2 ^ w : Nat)
def ofInt (w : Nat) (i : Int) : Nat := (i % (2 ^ w : Nat)).toNat
/-- i saturated to w bits (R190). -/
def satInt (w : Nat) (i : Int) : Nat :=
  let hi : Int := (2 ^ (w - 1) : Nat) - 1
  ofInt w (if i > hi then hi else if i < -hi - 1 then -hi - 1 else i)

/-- UE8M0 (R184). -/
def ue8m0 (c : Nat) : Ext := if c % 256 == 255 then .nan else .fin false 1 1 ((c % 256 : Nat) - 127)

/-- The exact value of a code; formats that no unit converts read as unsigned. -/
def fmtValue (f c : Nat) : Ext :=
  match floatOf f with
  | some g => g.value c
  | none =>
    match f with
    | 9 => decodeRg (c % 256) 8
    | 10 => decodeRg (c % 64) 6
    | 11 => .ofInt (toInt 32 c)
    | 12 => .ofInt (toInt 16 c)
    | 13 => .ofInt (toInt 8 c)
    | 14 => .ofInt (toInt 4 c)
    | 15 => ue8m0 c
    | _ => .ofNat c

/-- An exact value rounded to an integer in direction rm; infinities give none. -/
def roundInt (rm : Nat) (neg : Bool) (n d : Nat) (e : Int) : Int × Bool :=
  let (m, nx) := roundTo neg rm n d e 0
  (if neg then -(m : Int) else m, nx)

/-- ConvertValue (R190). -/
def convertValue (x : Ext) (f : Nat) : Nat :=
  match floatOf f with
  | some g => (roundFloat g 0 false false x).code
  | none =>
    match f with
    | 9 => encodeRg x 8
    | 10 => encodeRg x 6
    | _ =>
      let w := fmtWidth f
      match x with
      | .nan => 0
      | .inf s => if s then 2 ^ (w - 1) else 2 ^ (w - 1) - 1
      | .fin s n d e => satInt w (roundInt 0 s n d e).1

/-! ### Sums of the MX elements (R192 to R195) -/

/-- ⌊log2 |p|⌋ of a non-zero finite value; none otherwise. -/
def Ext.log2 : Ext → Option Int
  | .fin _ n d e => if n == 0 then none else some (floorLog2 n d + e)
  | _ => none

/-- The largest of the exponents. -/
def maxLog (ps : List Ext) : Option Int :=
  ps.foldl (fun m p => match m, p.log2 with
    | some a, some b => some (max a b)
    | none, b => b
    | a, none => a) none

/-- One term of a group sum, truncated toward zero in units of 2^u. -/
def groupTerm (u : Int) : Ext → Int
  | .fin s n d e =>
    let m := n * pow2 (e - u) / (d * pow2 (u - e))
    if s then -(m : Int) else m
  | _ => 0

/-- GroupSum (R193), as an FP32 code. -/
def groupSum (ps : List Ext) : Nat :=
  if ps.any Ext.isNan || (ps.contains (.inf false) && ps.contains (.inf true)) then 0x7FC00000
  else if ps.contains (.inf false) then 0x7F800000
  else if ps.contains (.inf true) then 0xFF800000
  else
    match maxLog ps with
    | none => 0
    | some l =>
      let u := l - 38
      let t := (ps.map (groupTerm u)).foldl (· + ·) 0
      if t == 0 then 0 else roundFp32 (.fin (decide (t < 0)) t.natAbs 1 u)

/-- Fp32Add (R194, R195). -/
def fp32Add (a b : Nat) : Nat := roundFp32 (Ext.add false (fp32.value a) (fp32.value b))

/-- Lists of at most n values. -/
def chunksOf {α : Type} (n : Nat) : Nat → List α → List (List α)
  | 0, _ => []
  | fuel + 1, xs => if xs.isEmpty then [] else xs.take n :: chunksOf n fuel (xs.drop n)

/-- MxOutput from +0 over products in ascending K, in groups of 16; ts is the product of the tensor scales, if there are any (R194). -/
def mxOutput (ps : List Ext) (ts : Option Ext) : Nat :=
  let acc := (chunksOf 16 (ps.length + 1) ps).foldl (fun a g => fp32Add a (groupSum g)) 0
  match ts with
  | none => acc
  | some t => roundFp32 ((fp32.value acc).mul t)

/-! ### Steps of the reductions at memory (R198 to R201) -/

/-- A NaN result: canonical under CAN, else the first NaN operand, quieted (R197, R198, R305). -/
def pickNan (f : FloatFmt) (can : Bool) (ops : List Nat) : Nat :=
  if can then f.nanCode
  else match ops.find? f.isNan with
    | some c => f.quiet c
    | none => f.nanCode

/-- w ⊕ c of RED.FADD (R198). -/
def redAdd (f : FloatFmt) (sat can ftz : Bool) (w c : Nat) : Nat :=
  let a := f.flush ftz w
  let b := f.flush ftz c
  let x := Ext.add false (f.value a) (f.value b)
  if x.isNan then pickNan f can [a, b] else (roundFloat f 0 sat ftz x).code

/-- The greater or lesser of RED.FMAX and RED.FMIN (R200). -/
def redExt (f : FloatFmt) (big can ftz : Bool) (w c : Nat) : Nat :=
  let a := f.flush ftz w
  let b := f.flush ftz c
  if f.isNan a || f.isNan b then pickNan f can [a, b]
  else if (f.value a).lt (f.value b) == big then b else a

/-! ### The functions of the FX elements (R313) -/

/-- Fixed point with this many fraction bits. -/
def fxBits : Nat := 720

/-- z + z³/3·σ + z⁵/5 + …: the sum over odd powers with signs alternating when alt is set, in fixed point. -/
def oddSeries (alt : Bool) (z2 : Nat) : Nat → Nat → Nat → Bool → Int → Int
  | 0, _, _, _, acc => acc
  | fuel + 1, p, k, neg, acc =>
    let t : Int := (p / k : Nat)
    oddSeries alt z2 fuel (p * z2 / 2 ^ fxBits) (k + 2) (if alt then !neg else false) (if neg then acc - t else acc + t)

/-- atanh of a fixed-point value below 1/2. -/
def fixAtanh (z : Nat) : Int := oddSeries false (z * z / 2 ^ fxBits) 260 z 1 false 0
/-- atan 1/n. -/
def fixAtanInv (n : Nat) : Int :=
  let z := 2 ^ fxBits / n
  oddSeries true (2 ^ fxBits / (n * n)) 170 z 1 false 0
/-- ln 2 = 2 atanh 1/3. -/
def fixLn2 : Nat := (2 * fixAtanh (2 ^ fxBits / 3)).toNat
/-- π by Machin's formula. -/
def fixPi : Nat := (16 * fixAtanInv 5 - 4 * fixAtanInv 239).toNat

/-- y + y²/2 + y³/6 + …, that is e^y − 1, in fixed point. -/
def expSeries (y : Nat) : Nat → Nat → Nat → Nat → Nat
  | 0, _, _, acc => acc
  | fuel + 1, t, k, acc =>
    let t' := t * y / 2 ^ fxBits / k
    expSeries y fuel t' (k + 1) (acc + t')

/-- y − y³/6 + y⁵/120 − … in fixed point. -/
def sinSeries (y2 : Nat) : Nat → Nat → Nat → Bool → Int → Int
  | 0, _, _, _, acc => acc
  | fuel + 1, t, k, neg, acc =>
    sinSeries y2 fuel (t * y2 / 2 ^ fxBits / ((k + 1) * (k + 2))) (k + 2) (!neg) (if neg then acc - (t : Int) else acc + t)

/-- num / den × 2^e in fixed point, truncated. -/
def toFix (n d : Nat) (e : Int) : Nat := n * pow2 (e + fxBits) / (d * pow2 (-(e + fxBits)))

/-- 2^x for a finite x (R313): exact at integers. -/
def exp2Fin (s : Bool) (n d : Nat) (e : Int) : Ext :=
  -- |x| ≥ 512 overflows or underflows whatever its fraction
  if n * pow2 e ≥ 512 * (d * pow2 (-e)) then .fin false 1 1 (if s then -512 else 512)
  else
    let f := toFix n d e
    let v : Int := if s then -(f : Int) else f
    let q := v / (2 ^ fxBits : Nat)
    let r := (v % (2 ^ fxBits : Nat)).toNat
    if r == 0 && n * pow2 e % (d * pow2 (-e)) == 0 then .fin false 1 1 q
    else .fin false (2 * (2 ^ fxBits + expSeries (r * fixLn2 / 2 ^ fxBits) 140 (2 ^ fxBits) 1 0) + 1) 1 (q - fxBits - 1)

/-- log2 of a positive finite value (R313). -/
def log2Fin (n d : Nat) (e : Int) : Ext :=
  let top := floorLog2 n d + e
  let m := toFix n d (e - top)
  let lnm := 2 * fixAtanh ((m - 2 ^ fxBits) * 2 ^ fxBits / (m + 2 ^ fxBits))
  if m == 2 ^ fxBits then .ofInt top
  else
    let v : Int := top * (2 ^ fxBits : Nat) + lnm * (2 ^ fxBits : Nat) / (fixLn2 : Int)
    .fin (decide (v < 0)) (2 * v.natAbs + 1) 1 (-(fxBits : Int) - 1)

/-- sin πx for a finite x (R313). -/
def sinPiFin (s : Bool) (n d : Nat) (e : Int) : Ext :=
  let a := n * pow2 e
  let b := d * pow2 (-e)
  let r := a % (2 * b)                      -- |x| mod 2, in units of 1 / b
  if r % b == 0 then .fin s 0 1 0
  else
    let neg := s != decide (r > b)
    let h := r % b                          -- in (0, 1)
    let g := if 2 * h > b then b - h else h -- in (0, 1/2]
    let y := toFix g b 0 * fixPi / 2 ^ fxBits
    .fin neg (2 * (sinSeries (y * y / 2 ^ fxBits) 90 y 1 false 0).toNat + 1) 1 (-(fxBits : Int) - 1)

/-- tanh of a finite non-zero value (R313). -/
def tanhFin (s : Bool) (n d : Nat) (e : Int) : Ext :=
  if n * pow2 e ≥ 64 * (d * pow2 (-e)) then .fin s (2 ^ 200 - 1) 1 (-200)
  else
    let y := toFix (2 * n) d e
    let t := expSeries y 560 (2 ^ fxBits) 1 0
    .fin s (2 * t + 1) (2 * (t + 2 * 2 ^ fxBits)) 0

/-- The FX functions EXP2, LOG2, RCP, RSQRT, SIN, TANH by OP, on FP32 codes (R313). -/
def fxFun (op c : Nat) : Nat :=
  let x := fp32.value c
  let r : Ext :=
    match op, x with
    | _, .nan => .nan
    | 0, .inf s => if s then .fin false 0 1 0 else .inf false
    | 0, .fin s n d e => exp2Fin s n d e
    | 1, .inf s => if s then .nan else .inf false
    | 1, .fin s n d e => if n == 0 then .inf true else if s then .nan else log2Fin n d e
    | 2, x => Ext.div (.ofNat 1) x
    | 3, .inf s => if s then .nan else .fin false 0 1 0
    | 3, .fin s n d e => if n == 0 then .inf s else if s then .nan else Ext.sqrt (Ext.div (.ofNat 1) (.fin false n d e))
    | 4, .inf _ => .nan
    | 4, .fin s n d e => if n == 0 then .fin s 0 1 0 else sinPiFin s n d e
    | _, .inf s => .fin s 1 1 0
    | _, .fin s n d e => if n == 0 then .fin s 0 1 0 else tanhFin s n d e
  roundFp32 r

end Sys2Proof.Machine
end

