-- ==== Sys2Proof/Syntax.lean ====
section
/-! DEFINITION. The instruction syntax: one constructor for every row of spec/opcode_table.json. The rows fall in three groups.
Pacer instructions carry the operand fields of their word (R204 to R210, and R218 to R291). Operations of Field elements carry
the index of the element that fires (an AG operation: its stream engine, and whether it fetches a token of its round or passes one
between its entry queue and the Field). The steps of the module's other units (MGC, host, Marshal, Podium, BTEs, memory ports,
Starter, controller) carry what the unit or the outside world chooses. A Pacer instruction, an element and every unit of a region
act on the region whose turn it is (State.cur). -/

namespace Sys2Proof

/-- The steps of the machine, one constructor per row of the opcode table. -/
inductive Instr where
  /-- R29. Mailbox command that checks ARG0 as LENGTH, clears ERR and enters VERIFY. -/
  | imageGo (tag : Byte)
  /-- R27. The MGC installs and measures the four sections, then enters INIT, or returns to WAIT_IMAGE with ERR 0x0A. -/
  | mgcLoad (e : LoadEnd)
  /-- R26. HBM training, scrub and CHU microcode start run, the fuses are advanced where required, and the MGC enters READY or HALTED. -/
  | mgcInit (e : InitEnd)
  /-- R29. Mailbox command that sets the host log ring and returns the next sequence number. -/
  | logRing (tag : Byte)
  /-- R33. Mailbox command that writes a signed 320-byte attestation quote over a host nonce. -/
  | quote (tag : Byte)
  /-- R30. Mailbox command that returns the value of the numbered sensor. -/
  | sensor (tag : Byte)
  /-- R34. Mailbox command that writes the 128-byte identity record to host memory. -/
  | identity (tag : Byte)
  /-- R29. Mailbox command that discards all device state and restarts the MGC at POWER; it is accepted even while BUSY. -/
  | moduleReset (tag : Byte)
  /-- R38. A queue consumer, notified of WIDX changes, consumes the next slot once its PHASE is current, checks the packet and writes the ACCEPT entry. -/
  | packetConsume (qid : Nat)
  /-- R40. The slot awaited at r shows no current PHASE for STALL fc; the queue becomes STALLED and a STALL entry is written or held. -/
  | queueStall (qid : Nat)
  /-- R57. A held STALL entry is written once journal room appears. -/
  | stallEntryWrite (qid : Nat)
  /-- R45. Task packet that assigns a task id, applies the launch checks and enters the TCB into the Marshal's graph. -/
  | launch (qid : Nat)
  /-- R45. Task packet that cancels a task of the same virtual device through the arbiter. -/
  | cancel (qid : Nat)
  /-- R45. Task packet that stores VALUE with release at SYS scope once every earlier packet of the queue has its outcome. -/
  | notify (qid : Nat)
  /-- R47. Copy packet that moves LENGTH bytes in 512-byte chunks and sets completion bits. -/
  | copy (qid : Nat)
  /-- R47. Copy packet that moves ROWS rows with source and destination strides. -/
  | strided (qid : Nat)
  /-- R47. Copy packet that fills the destination with a repeated 8-byte VALUE. -/
  | fill (qid : Nat)
  /-- R48. A BTE moves one chunk, which lands and sets its completion bit, or fails and records its cause; the last chunk writes the command's outcome. -/
  | bteChunk (bte chunk : Nat)
  /-- R88. Once the heat has left OPEN and every sibling is final, the Podium writes the sibling entries, the header and STATE with DONE. -/
  | heatAccountingWrite (heat : Nat)
  /-- R167. The head of a FIFO for a port moves to the next level of the ordering machine. -/
  | pass (l : Level) (unit : Nat) (p : Port)
  /-- R167. The head of an inbound host or peer FIFO moves into the port queue once its earlier requests are applied. -/
  | admitReq (fromPeer : Bool) (n : Nat)
  /-- R167. A port whose slot table serves its class applies the head request as one transaction and queues maintenance. -/
  | apply (p : Port)
  /-- R167. A response reaches its issuer. -/
  | ret (n : Nat)
  /-- R167. A MAINT slot serves the head maintenance entry or rescan of a declaration. -/
  | serve (p : Port) (g : Nat)
  /-- R180. The switches combine a reduction window's contributions by the fixed tree, and the home port applies the result and increments the completion word. -/
  | combine (w e : Nat)
  /-- R114. An element takes its new configuration word behind the old configuration's last token and passes the wave on. -/
  | reconfigurationWave (e : Nat)
  /-- R112. A waiting token for a non-resident slot makes the cache refetch and check the block from its configuration store. -/
  | configRefetch (slot : Nat)
  /-- R115. A stream engine starts the next round from its round register, applying queued parameters and checking its limits. -/
  | roundStart (se : Nat)
  /-- R111. The last tile's tokens have passed and every store has reached its port; the arm is released. -/
  | armBoundary (slot : Nat)
  /-- R103. A converting link's router moves a finished link token from its buffer into the link. -/
  | routerMove (link : Nat)
  /-- R135. A split marker reaches an element, which records its state or logs tokens and passes markers on; the last completes the snapshot. -/
  | splitMarker (e port : Nat)
  /-- R218. X(XD) := X(XA) + X(XB). -/
  | add (d a b : XReg)
  /-- R218. X(XD) := X(XA) − X(XB). -/
  | sub (d a b : XReg)
  /-- R218. Bitwise AND of two registers. -/
  | and (d a b : XReg)
  /-- R218. Bitwise OR of two registers. -/
  | or (d a b : XReg)
  /-- R218. Bitwise XOR of two registers. -/
  | xor (d a b : XReg)
  /-- R218. X(XA) AND NOT X(XB). -/
  | andn (d a b : XReg)
  /-- R218. Logical shift left by X(XB)[5:0]. -/
  | sll (d a b : XReg)
  /-- R218. Logical shift right by X(XB)[5:0]. -/
  | srl (d a b : XReg)
  /-- R218. Arithmetic shift right by X(XB)[5:0]. -/
  | sra (d a b : XReg)
  /-- R218. Sets 1 if X(XA) < X(XB) as signed values, else 0. -/
  | slt (d a b : XReg)
  /-- R218. Sets 1 if X(XA) < X(XB) as unsigned values, else 0. -/
  | sltu (d a b : XReg)
  /-- R218. Signed lesser of two registers. -/
  | min (d a b : XReg)
  /-- R218. Signed greater of two registers. -/
  | max (d a b : XReg)
  /-- R218. Unsigned lesser of two registers. -/
  | minu (d a b : XReg)
  /-- R218. Unsigned greater of two registers. -/
  | maxu (d a b : XReg)
  /-- R219. Low 64 bits of the product. -/
  | mul (d a b : XReg)
  /-- R219. High 64 bits of the signed product. -/
  | mulh (d a b : XReg)
  /-- R219. High 64 bits of the unsigned product. -/
  | mulhu (d a b : XReg)
  /-- R219. Signed quotient truncated toward zero; faults with 0x08 on a zero divisor. -/
  | div (d a b : XReg)
  /-- R219. Unsigned quotient; faults with 0x08 on a zero divisor. -/
  | divu (d a b : XReg)
  /-- R219. Signed remainder; faults with 0x08 on a zero divisor. -/
  | rem (d a b : XReg)
  /-- R219. Unsigned remainder; faults with 0x08 on a zero divisor. -/
  | remu (d a b : XReg)
  /-- R220. Counts the leading zero bits. -/
  | clz (d a : XReg)
  /-- R220. Counts the trailing zero bits. -/
  | ctz (d a : XReg)
  /-- R220. Counts the 1 bits. -/
  | popc (d a : XReg)
  /-- R221. Extracts the bit field described by X(XB). -/
  | bext (d a b : XReg)
  /-- R221. Inserts a bit field into X(XD). -/
  | bins (d a b : XReg)
  /-- R222. Selects X(XA) or X(XB) by whether X(QUAL) is non-zero. -/
  | sel (d a b q : XReg)
  /-- R223. Adds a sign-extended immediate. -/
  | addi (d a : XReg) (imm : BitVec 16)
  /-- R223. ANDs with a zero-extended immediate. -/
  | andi (d a : XReg) (imm : BitVec 16)
  /-- R223. ORs with a zero-extended immediate. -/
  | ori (d a : XReg) (imm : BitVec 16)
  /-- R223. XORs with a zero-extended immediate. -/
  | xori (d a : XReg) (imm : BitVec 16)
  /-- R223. Shifts left by an immediate. -/
  | slli (d a : XReg) (sh : BitVec 6)
  /-- R223. Shifts right logically by an immediate. -/
  | srli (d a : XReg) (sh : BitVec 6)
  /-- R223. Shifts right arithmetically by an immediate. -/
  | srai (d a : XReg) (sh : BitVec 6)
  /-- R223. Sets 1 if X(XA) is less than a signed immediate. -/
  | slti (d a : XReg) (imm : BitVec 16)
  /-- R223. Loads a sign-extended immediate shifted left by 16. -/
  | lui (d : XReg) (imm : BitVec 16)
  /-- R223. Adds a shifted immediate to PC. -/
  | auipc (d : XReg) (imm : BitVec 16)
  /-- R224. Two-word instruction that loads a sign-extended 32-bit immediate. -/
  | limm (d : XReg) (imm : BitVec 32)
  /-- R226. Floating-point add, rounded once under FPMODE. -/
  | fadd (d a b : XReg) (dbl : BitVec 1)
  /-- R226. Floating-point subtract. -/
  | fsub (d a b : XReg) (dbl : BitVec 1)
  /-- R226. Floating-point multiply. -/
  | fmul (d a b : XReg) (dbl : BitVec 1)
  /-- R226. Fused multiply-add with X(XD) as the addend and one rounding. -/
  | ffma (d a b : XReg) (dbl : BitVec 1)
  /-- R226. Floating-point divide. -/
  | fdiv (d a b : XReg) (dbl : BitVec 1)
  /-- R226. Floating-point square root. -/
  | fsqrt (d a : XReg) (dbl : BitVec 1)
  /-- R227. Floating-point lesser, with −0 below +0. -/
  | fmin (d a b : XReg) (dbl : BitVec 1)
  /-- R227. Floating-point greater, with −0 below +0. -/
  | fmax (d a b : XReg) (dbl : BitVec 1)
  /-- R228. Floating-point compare under a condition, giving 1 or 0. -/
  | fcmp (d a b : XReg) (cond : BitVec 4) (dbl : BitVec 1)
  /-- R229. Conversion between float and integer formats. -/
  | fcvt (d a : XReg) (conv : BitVec 4)
  /-- R230. Sets the one bit of X(XD) that gives the operand's class. -/
  | fclass (d a : XReg) (dbl : BitVec 1)
  /-- R231. Branches if the two registers are equal. -/
  | beq (a b : XReg) (off : BitVec 16)
  /-- R231. Branches if the two registers are not equal. -/
  | bne (a b : XReg) (off : BitVec 16)
  /-- R231. Branches if X(XA) is less than X(XB), signed. -/
  | blt (a b : XReg) (off : BitVec 16)
  /-- R231. Branches if X(XA) is greater than or equal to X(XB), signed. -/
  | bge (a b : XReg) (off : BitVec 16)
  /-- R231. Branches if X(XA) is less than X(XB), unsigned. -/
  | bltu (a b : XReg) (off : BitVec 16)
  /-- R231. Branches if X(XA) is greater than or equal to X(XB), unsigned. -/
  | bgeu (a b : XReg) (off : BitVec 16)
  /-- R232. Decrements X(XA) and branches while it is non-zero. -/
  | loop (a : XReg) (off : BitVec 16)
  /-- R233. Jumps by a PC-relative displacement and links. -/
  | jal (d : XReg) (off : BitVec 21)
  /-- R233. Jumps to a register plus an immediate and links. -/
  | jalr (d a : XReg) (imm : BitVec 16)
  /-- R237. Loads 1 to 8 bytes, extended into X(XD). -/
  | ld (d : XReg) (cb : CReg) (xi : XReg) (off : BitVec 8) (u : BitVec 1) (sz : BitVec 2)
  /-- R237. Stores 1 to 8 bytes; completes at RQ. -/
  | st (d : XReg) (cb : CReg) (xi : XReg) (off : BitVec 8) (sz : BitVec 2)
  /-- R238. Loads 16 bytes into an even register pair. -/
  | ldq (d : XReg) (cb : CReg) (xi : XReg) (off : BitVec 8)
  /-- R238. Stores 16 bytes from an even register pair. -/
  | stq (d : XReg) (cb : CReg) (xi : XReg) (off : BitVec 8)
  /-- R239. Waits for the full/empty bit to be full and loads, leaving it full. -/
  | ldfeWait (d : XReg) (cb : CReg) (xi : XReg) (off : BitVec 8) (sz : BitVec 2)
  /-- R239. Waits for full, loads, and sets the granule empty in the same transaction. -/
  | ldfeTake (d : XReg) (cb : CReg) (xi : XReg) (off : BitVec 8) (sz : BitVec 2)
  /-- R239. Releases at DEV scope, stores, and sets FE full or empty. -/
  | stfe (d : XReg) (cb : CReg) (xi : XReg) (off : BitVec 8) (full : BitVec 1) (sz : BitVec 2)
  /-- R240. Loads a 16-byte capability, with its tag where TGLOAD allows. -/
  | cld (cd : CReg) (cb : CReg) (xi : XReg) (off : BitVec 8)
  /-- R240. Stores a 16-byte capability and sets the granule's tag. -/
  | cst (cd : CReg) (cb : CReg) (xi : XReg) (off : BitVec 8)
  /-- R243. Moves a capability's cursor, keeping the tag only within its Window. -/
  | cinc (cd ca : CReg) (b : XReg)
  /-- R244. Narrows a capability's bounds to [cursor, cursor + length). -/
  | csetb (cd ca : CReg) (b : XReg)
  /-- R245. ANDs a capability's permissions with a mask. -/
  | candp (cd ca : CReg) (b : XReg)
  /-- R246. Reads a field of a capability. -/
  | cget (d : XReg) (ca : CReg) (field : BitVec 5)
  /-- R247. Reads a capability's tag. -/
  | ctag (d : XReg) (ca : CReg)
  /-- R247. Copies a capability with its tag cleared. -/
  | cclr (cd ca : CReg)
  /-- R247. Difference of two cursors. -/
  | csub (d : XReg) (ca cb : CReg)
  /-- R248. Reads a system register. -/
  | gets (d : XReg) (num : BitVec 12)
  /-- R248. Writes a system register's writable fields. -/
  | sets (a : XReg) (num : BitVec 12)
  /-- R249. Always faults with 0x0A, carrying a 12-bit code. -/
  | trap (code : BitVec 12)
  /-- R251. Waits for the acquire, release or sequentially consistent condition at a scope. -/
  | fence (scope : BitVec 3) (kind : BitVec 2)
  /-- R252. Waits for an event bit or a timeout and returns EV. -/
  | wfe (d a : XReg)
  /-- R257. Loads and checks a configuration block into a cache slot. -/
  | cfgLoad (ca : CReg) (slot : BitVec 5)
  /-- R258. Makes a slot's block non-resident. -/
  | cfgEvict (slot : BitVec 5)
  /-- R259. Arms a slot with a tile count and parameters, or records it as a controller child. -/
  | cfgArm (d a : XReg) (slot : BitVec 5)
  /-- R260. Releases a slot's arm and returns the tiles done. -/
  | cfgDisarm (d : XReg) (slot : BitVec 5)
  /-- R261. Returns a slot's status word. -/
  | cfgQuery (d : XReg) (slot : BitVec 5)
  /-- R262. Opens a SEQ controller node. -/
  | ctlSeq (a : XReg)
  /-- R262. Opens a PIPE controller node of depth d. -/
  | ctlPipe (a : XReg) (depth : BitVec 5)
  /-- R262. Opens a STRM controller node. -/
  | ctlStrm (a : XReg)
  /-- R263. Appends a round command for an engine and slot. -/
  | strmGo (se : BitVec 5) (a : XReg) (slot : BitVec 5)
  /-- R264. Appends a parameter value to an engine's parameter queue. -/
  | strmParm (a b : XReg)
  /-- R265. Sends a value to a slot's control port. -/
  | inj (port : BitVec 5) (a : XReg) (slot : BitVec 5)
  /-- R265. Waits for a sink register to be valid, copies it and clears valid. -/
  | getk (d : XReg) (k : BitVec 3)
  /-- R265. Waits until a slot has no arm and no tokens, then acquires. -/
  | drain (slot : BitVec 5)
  /-- R266. Starts split markers for a slot into a buffer. -/
  | snapMark (ca : CReg) (slot : BitVec 5)
  /-- R267. Waits for the snapshot to finish, or for a time limit, and reports its status. -/
  | snapWait (d a : XReg) (slot : BitVec 5)
  /-- R271. Hands a block-transfer descriptor to a BTE's direct queue. -/
  | btePut (d : XReg) (ca : CReg) (b : XReg) (sc : BitVec 3) (ok : BitVec 2)
  /-- R272. Waits until the masked completion bits are set or a chunk fails, then acquires. -/
  | waitc (d : XReg) (ca : CReg) (b : XReg)
  /-- R272. Reads one completion bit. -/
  | testc (d : XReg) (ca : CReg) (b : XReg)
  /-- R273. Starts the bank half of a split matrix-vector product at the CHUs. -/
  | bankMv (ca : CReg) (sc : BitVec 3) (ok : BitVec 2)
  /-- R274. Atomic add on an 8-byte word. -/
  | amoAdd (d : XReg) (ca : CReg) (b : XReg) (sc : BitVec 3) (ok : BitVec 2)
  /-- R274. Atomic AND. -/
  | amoAnd (d : XReg) (ca : CReg) (b : XReg) (sc : BitVec 3) (ok : BitVec 2)
  /-- R274. Atomic OR. -/
  | amoOr (d : XReg) (ca : CReg) (b : XReg) (sc : BitVec 3) (ok : BitVec 2)
  /-- R274. Atomic XOR. -/
  | amoXor (d : XReg) (ca : CReg) (b : XReg) (sc : BitVec 3) (ok : BitVec 2)
  /-- R274. Atomic signed minimum. -/
  | amoMin (d : XReg) (ca : CReg) (b : XReg) (sc : BitVec 3) (ok : BitVec 2)
  /-- R274. Atomic signed maximum. -/
  | amoMax (d : XReg) (ca : CReg) (b : XReg) (sc : BitVec 3) (ok : BitVec 2)
  /-- R274. Atomic swap. -/
  | amoSwap (d : XReg) (ca : CReg) (b : XReg) (sc : BitVec 3) (ok : BitVec 2)
  /-- R274. Atomic compare-and-swap against X(XD). -/
  | amoCas (d : XReg) (ca : CReg) (b : XReg) (sc : BitVec 3) (ok : BitVec 2)
  /-- R275. Floating-point add reduction at memory, in .ord or .any mode. -/
  | redFadd (mode : BitVec 5) (ca : CReg) (b : XReg) (sc : BitVec 3) (ok : BitVec 2)
  /-- R275. Floating-point maximum reduction at memory. -/
  | redFmax (mode : BitVec 5) (ca : CReg) (b : XReg) (sc : BitVec 3) (ok : BitVec 2)
  /-- R275. Floating-point minimum reduction at memory. -/
  | redFmin (mode : BitVec 5) (ca : CReg) (b : XReg) (sc : BitVec 3) (ok : BitVec 2)
  /-- R275. Integer add reduction at memory. -/
  | redIadd (mode : BitVec 5) (ca : CReg) (b : XReg) (sc : BitVec 3) (ok : BitVec 2)
  /-- R277. Contributes to a switch reduction window. -/
  | wred (mode : BitVec 3) (ca : CReg) (b : XReg) (sc : BitVec 3) (ok : BitVec 2)
  /-- R281. Makes a port baton in a granule, or returns NOSLOT. -/
  | batonAlloc (d : XReg) (ca : CReg) (sc : BitVec 3)
  /-- R281. Acquires a baton, queueing or monitoring while it is held. -/
  | batonAcq (ca : CReg)
  /-- R281. Releases a held baton at its scope and grants the next waiter. -/
  | batonRel (ca : CReg)
  /-- R281. Tears down a port baton and frees its slot. -/
  | batonFree (ca : CReg)
  /-- R279. Makes a barrier with a count. -/
  | barInit (ca : CReg) (b : XReg)
  /-- R279. Arrives at a barrier, returning GEN and completing the phase when the count is reached. -/
  | barArrive (d : XReg) (ca : CReg) (b : XReg) (sc : BitVec 3) (ok : BitVec 2)
  /-- R279. Waits until GEN differs from the operand, then acquires. -/
  | barWait (d : XReg) (ca : CReg) (b : XReg)
  /-- R279. One participant leaves a barrier; a count of zero tears it down. -/
  | barDrop (ca : CReg) (sc : BitVec 3) (ok : BitVec 2)
  /-- R282. Waits until a word differs from a value, then acquires. -/
  | waitv (d : XReg) (ca : CReg) (b : XReg)
  /-- R154. Declares a derived region over a base and scans it at every port. -/
  | drgnDecl (cd ca cb : CReg)
  /-- R283. Reads one derived value. -/
  | drgnRead (d : XReg) (ca : CReg)
  /-- R175. Waits until every port has served all maintenance queued for a base. -/
  | drgnSync (ca : CReg)
  /-- R161. Ends a declaration at every port. -/
  | drgnDrop (ca : CReg)
  /-- R284. Claims a task-queue slot and writes a LAUNCH packet into it. -/
  | taskSpawn (d : XReg) (ca cb : CReg)
  /-- R285. Cancels a task by id through the arbiter. -/
  | taskCancel (d a : XReg)
  /-- R286. Creates a trigger or binds it to a TCB, accepting latched posts. -/
  | trigBind (cd ca : CReg) (b : XReg)
  /-- R286. Removes a trigger's binding, keeping or tearing down the trigger. -/
  | trigUnbind (ca : CReg) (keep : BitVec 5)
  /-- R78. Opens a heat and returns its id or NOHEAT. -/
  | heatOpen (d : XReg) (ca : CReg) (b : XReg)
  /-- R89. Frees a DONE heat, or abandons an OPEN heat. -/
  | heatClose (a : XReg)
  /-- R80. Releases at SYS scope and posts a sibling's answer hash to the Podium. -/
  | ballotPost (d a : XReg)
  /-- R287. Returns a heat's STATE, WIN and the caller's slot, or acts as the cancellation point of a cancelled sibling. -/
  | ballotPoll (d a : XReg)
  /-- R91. Matches the longest cached prefix in the Prefix Index and fills the SQD. -/
  | seqAdmit (d : XReg) (ca cb : CReg)
  /-- R92. Publishes blocks to the Index and releases the sequence's references. -/
  | seqRelease (d : XReg) (ca cb : CReg)
  /-- R94. Maps a logical position to a block and slot. -/
  | kvSlot (d : XReg) (ca : CReg) (b : XReg)
  /-- R289. Invalidates cached translations for a range in every agent. -/
  | tlbi (a b : XReg)
  /-- R290. Fetches and clears dirty bits into a bitmap. -/
  | vdDirty (cd : CReg) (a b : XReg)
  /-- R290. Stops a virtual device as VD.STOP does. -/
  | vdStop (a : XReg)
  /-- R290. Restarts a stopped virtual device. -/
  | vdStart (a : XReg)
  /-- R291. Captures a stopped region's context into a save area. -/
  | fcap (a b : XReg)
  /-- R291. Restores a save area onto an idle region. -/
  | frst (a b : XReg)
  /-- R300. MX firing that accumulates a tile of matrix products. -/
  | mxMma (e : Nat)
  /-- R301. MX firing with block scales. -/
  | mxMmaBs (e : Nat)
  /-- R302. MX firing of a linear recurrence across tiles. -/
  | mxMmaRc (e : Nat)
  /-- R303. MX emits a tile of zeros per trigger token. -/
  | mxMzero (e : Nat)
  /-- R300. MX firing whose tile ends at END. -/
  | mxMdrn (e : Nat)
  /-- R305. Vector add firing. -/
  | vxAdd (e : Nat)
  /-- R305. Vector subtract firing. -/
  | vxSub (e : Nat)
  /-- R305. Vector multiply firing. -/
  | vxMul (e : Nat)
  /-- R305. Vector fused multiply-add firing. -/
  | vxFma (e : Nat)
  /-- R305. Vector minimum firing. -/
  | vxMin (e : Nat)
  /-- R305. Vector maximum firing. -/
  | vxMax (e : Nat)
  /-- R305. Vector absolute-value firing. -/
  | vxAbs (e : Nat)
  /-- R305. Vector negate firing. -/
  | vxNeg (e : Nat)
  /-- R306. Vector compare firing. -/
  | vxCmp (e : Nat)
  /-- R305. Vector bitwise AND firing. -/
  | vxAnd (e : Nat)
  /-- R305. Vector bitwise OR firing. -/
  | vxOr (e : Nat)
  /-- R305. Vector bitwise XOR firing. -/
  | vxXor (e : Nat)
  /-- R305. Vector shift-left firing. -/
  | vxShl (e : Nat)
  /-- R305. Vector shift-right firing. -/
  | vxShr (e : Nat)
  /-- R307. Vector conversion firing between FP32 and INT32. -/
  | vxCvt (e : Nat)
  /-- R308. Segmented accumulate firing. -/
  | vxAcc (e : Nat)
  /-- R308. Segmented prefix-sum firing. -/
  | vxScan (e : Nat)
  /-- R311. Exact segment sum firing. -/
  | rxRsum (e : Nat)
  /-- R311. Segment maximum firing. -/
  | rxRmax (e : Nat)
  /-- R311. Segment minimum firing. -/
  | rxRmin (e : Nat)
  /-- R311. Segment maximum and index firing. -/
  | rxRargmax (e : Nat)
  /-- R311. Exact segment sum of squares firing. -/
  | rxRsumsq (e : Nat)
  /-- R313. Correctly rounded 2^x firing. -/
  | fxExp2 (e : Nat)
  /-- R313. Correctly rounded log2 firing. -/
  | fxLog2 (e : Nat)
  /-- R313. Reciprocal firing. -/
  | fxRcp (e : Nat)
  /-- R313. Reciprocal square-root firing. -/
  | fxRsqrt (e : Nat)
  /-- R313. sin(πx) firing. -/
  | fxSin (e : Nat)
  /-- R313. tanh firing. -/
  | fxTanh (e : Nat)
  /-- R314. Table lookup firing, with the table loaded from port 1. -/
  | fxLut (e : Nat)
  /-- R318. Address-generator read emitting tokens from memory. -/
  | agRd (se : Nat) (fetch : Bool)
  /-- R318. Address-generator write storing the live values of tokens. -/
  | agWr (se : Nat) (fetch : Bool)
  /-- R318. Read that waits on full/empty bits, optionally taking them. -/
  | agRdfe (se : Nat) (fetch : Bool)
  /-- R320. Indexed gather read. -/
  | agGather (se : Nat) (fetch : Bool)
  /-- R319. Ring-buffer read or write with optional full/empty waits. -/
  | agRing (se : Nat) (fetch : Bool)
  /-- R321. Read or write through a survivor map of KV blocks. -/
  | agSurv (se : Nat) (fetch : Bool)
  /-- R323. Quantisation firing with derived or supplied block scales. -/
  | qxQuant (e : Nat)
  /-- R324. Dequantisation firing. -/
  | qxDeq (e : Nat)
  /-- R323. Block-scale derivation firing. -/
  | qxBscale (e : Nat)
  /-- R325. Rounding firing, nearest or stochastic. -/
  | qxRound (e : Nat)
  /-- R326. Delay-line firing. -/
  | dlDelay (e : Nat)
  /-- R326. Primed delay firing that injects PCOUNT tokens per round. -/
  | dlPrime (e : Nat)
  /-- R328. Transpose firing. -/
  | pmTrans (e : Nat)
  /-- R328. Broadcast firing. -/
  | pmBcast (e : Nat)
  /-- R328. Shuffle firing. -/
  | pmShuf (e : Nat)
  /-- R328. Pack firing. -/
  | pmPack (e : Nat)
  /-- R328. Unpack firing. -/
  | pmUnpack (e : Nat)
  /-- R329. Per-value select firing. -/
  | smSel (e : Nat)
  /-- R330. Control-driven merge firing. -/
  | smMerge (e : Nat)
  /-- R330. Control-driven split firing. -/
  | smSplit (e : Nat)
  /-- R331. Live-value compaction firing. -/
  | smFilter (e : Nat)
  /-- R331. Constant-token firing per trigger. -/
  | smConst (e : Nat)
  /-- R333. Counter-based random bits firing. -/
  | rnRngBits (e : Nat)
  /-- R333. Counter-based Bernoulli firing. -/
  | rnRngBern (e : Nat)
  /-- R335. Opens a baton-guarded section. -/
  | gtEntry (e : Nat)
  /-- R335. Closes a section and releases its baton. -/
  | gtExit (e : Nat)
  /-- R172. Passes a token once the producer scope's stores reach the wider scope. -/
  | gtBound (e : Nat)
  /-- R334. Opens a section after its signal token, as an acquire. -/
  | gtAcq (e : Nat)
  /-- R337. Emits a token per control value sent by INJ. -/
  | ptCtlin (e : Nat)
  /-- R337. Writes a value to a sink register while it is not valid. -/
  | ptSink (e : Nat)
  /-- R338. Issues an engine memory request from a token. -/
  | ptEreq (e : Nat)
  /-- R338. Emits an engine response token in request order, as an acquire. -/
  | ptErsp (e : Nat)
  /-- R339. Posts to a trigger granule once earlier stores reach DEV level. -/
  | ptTrig (e : Nat)
  /-- R207. A fetched word fails a fetch check (alignment, capability, translation, uncorrectable data) or a decode check (all-zero, all-ones, unassigned major or FN, meaningless qualifier, non-zero must-be-zero field, privileged in task mode) and traps. -/
  | fetchAndDecodeFault (cause : Byte) (tval : Word)
  /-- R23. Power is applied and the MGC starts the boot sequence at POWER with self-test, fuse read and sensor start, then moves on to LINK. -/
  | powerUp
  /-- R25. The MGC runs the six image checks in order and either enters LOAD or returns to WAIT_IMAGE with ERR set. -/
  | verify
  /-- R215. A write to a register that has no row of its own, such as a mailbox argument, which updates only its defined fields. -/
  | registerWrite (off : Nat) (v : Word)
  /-- R30. Timed sampling of coolant inlet temperature and flow, at least once per 940,000 fc; a value out of limits lowers the governor budgets and is logged. -/
  | sensorSample (inlet flow : BitVec 32)
  /-- R13. A die junction reaches 115 °C; the MGC stops the module, logs the event and enters HALTED. -/
  | thermalStop (die : Nat) (temp : BitVec 32)
  /-- R56. A host write to JNL_CFG that sets LOG2J, or sets EN to enable the journal. -/
  | jnlCfgWrite (v : Word)
  /-- R56. A host write to JNL_RD that advances the host read position, within its limits. -/
  | jnlRdWrite (v : Word)
  /-- R14. An Isaud non-posted read of 1 to 256 bytes that returns a completion. -/
  | hostRead (thread : Nat) (ap : Aperture) (addr n : Nat)
  /-- R14. An Isaud posted write of 1 to 256 bytes, applied in issue order with no completion. -/
  | postedWrite (thread : Nat) (ap : Aperture) (addr : Nat) (bytes : List Byte)
  /-- R14. An Isaud 4-byte integer fetch-and-add that returns the old value. -/
  | fadd32 (thread : Nat) (ap : Aperture) (addr : Nat) (v : BitVec 32)
  /-- R14. An Isaud 8-byte integer fetch-and-add that returns the old value. -/
  | fadd64 (thread : Nat) (ap : Aperture) (addr : Nat) (v : Word)
  /-- R14. An Isaud 8-byte swap that returns the old value. -/
  | swap64 (thread : Nat) (ap : Aperture) (addr : Nat) (v : Word)
  /-- R14. An Isaud 8-byte compare-and-swap that returns the old value. -/
  | cas64 (thread : Nat) (ap : Aperture) (addr : Nat) (cmp v : Word)
  /-- R14, R15. A non-posted write, which completes once the write is visible at the target: the one that the host offers, or, where it offers none,
  the device's write at the head of the host port's queue. -/
  | writeWithCompletion
  /-- R18. The host link goes down: outstanding HOST requests fault with class 11 and no further host packets are accepted. -/
  | isaudLinkDown
  /-- R22. One Celcen port fails, and its paths move to the other port once the requests in flight have been applied or faulted. -/
  | celcenPortFail (second : Bool)
  /-- R22. Both Celcen ports fail: outstanding PEER and RWIN requests fault with class 11 and chunks that have not landed keep their bits clear. -/
  | celcenBothPortsDown
  /-- R122. A peer device of the communicator is reset, and requests to it fault with 0xBF. -/
  | peerDeviceReset (rank : Nat)
  /-- R122. A die-to-die link that cannot recover faults the requests that use it with 0xBD. -/
  | dieLinkFailure (die : Nat)
  /-- R122. A link request has no completion within 2^22 fc of the issuer's CYC and faults with a class-11 cause. -/
  | completionTimeout (p : Port)
  /-- R49. Control packet that creates a queue, zeroing its ring and capability table. -/
  | qCreate
  /-- R49. Control packet that stops a queue's consumer and, on a stopped virtual device, ends its unfinished tasks and copies. -/
  | qDestroy
  /-- R40. Control packet that makes a queue stalled at SEQ treat that slot as consumed and journal SKIP. -/
  | qSkip
  /-- R43. Control packet that writes one capability-table entry derived from firmware roots. -/
  | captSet
  /-- R51. Control packet that creates a virtual device, scrubs its groups and sets their slot tables and host window. -/
  | vdCreatePacket
  /-- R49. Control packet that destroys a stopped virtual device with no queue and frees its groups. -/
  | vdDestroy
  /-- R54. Control packet that stops a virtual device's consumers, dispatch, regions and copies. -/
  | vdStopPacket
  /-- R49. Control packet that restarts a stopped virtual device. -/
  | vdStartPacket
  /-- R53. Control packet that fetches and clears the dirty bits of a range of pages into host memory. -/
  | vdDirtyPacket
  /-- R55. Control packet that writes a record of a stopped virtual device's queues and stopped copies. -/
  | vdExport
  /-- R358. Control packet that brings the listed queues into service with the record's WIDX and RIDX. -/
  | vdImport
  /-- R49. Control packet that writes the quote body with a zero nonce and no signature. -/
  | fwInfo
  /-- R68. The Marshal's per-fc choice of a ready task of one virtual device, binding it or a gang to idle regions, or placing a gang hold. -/
  | dispatchDecision
  /-- R70. A head task that cannot be dispatched makes the Marshal request the pre-emption of a lower-priority task that has run for MINRUN. -/
  | preemptionRequest
  /-- R131. A requested stop brings the Pacer to a boundary and freezes the Field within 94 fc, and the hardware captures the context. -/
  | stop
  /-- R72. A running cancel reaches no cancellation point within 16,384 fc, and the Marshal forces a freeze. -/
  | forcedFreeze
  /-- R84. A cancelled heat sibling passes its heat's GRACE without a cancellation point, and its region freezes it. -/
  | graceFreeze
  /-- R127. A pending Field, engine or deferred store fault is taken at the Pacer's next instruction boundary. -/
  | pendingFaultDelivery
  /-- R164. Once every bank row is written or one has failed, the BANK.MV bank half sets its completion bit and arrives at the joining barrier. -/
  | bankHalfComplete
  /-- R113. The Starter chooses among armed, resident configurations with waiting tokens at tile-count expiry, at starvation, or when the Field is idle. -/
  | starterDecision
  /-- R112. The cache detects a soft error in a slot, which makes its block non-resident. -/
  | cacheSoftError (slot : Nat)
  /-- R262. The controller starts a node iteration, re-arming each child slot and starting its engines. -/
  | controllerIteration
  /-- R252. The WFE time limit expires, setting EV bit 2 and ending the wait. -/
  | wfeTimeout
  /-- R267. The SNAP.WAIT time limit expires while the snapshot is still pending. -/
  | snapWaitTimeout
  /-- R250. Returns from a trap through EPCC and EPC. -/
  | eret
  /-- R253. Stops fetch until a dispatch or FRST. -/
  | halt
  /-- R254. Stops the task as pre-emption does and places it at the tail of its ready list. -/
  | yield
  /-- R262. Closes the innermost node and starts the tree when it is the outermost. -/
  | ctlEnd
  /-- R66. Ends the task, releases its successors and journals the outcome. -/
  | taskRetire
  /-- R289. Waits until no request uses an invalidated entry and empties the instruction cache. -/
  | tlbsync
  /-- R20. A read, write or atomic from a peer device arrives over the Celcen fabric and enters the inbound queue for its issuer and destination. -/
  | peerRequestArrival (peer : Nat) (addr : Nat) (op : PeerOp)
  /-- R277. A communicator is formed, fixing each pair's port and path and opening its reduction windows with rank map, operation, format, RMODE and home. -/
  | communicatorFormation (rank n : Nat) (paths : List (Nat × Bool)) (windows : List WindowSpec)
  /-- R122. A communicator's reduction tree is dissolved, and requests that need it fault with 0xBE. -/
  | reductionTreeDissolved
  /-- R18. The Isaud link comes back after going down and a host driver reconnects to the intact queues and journal. -/
  | isaudLinkReconnect
  /-- R56. Power is removed from the module and all device state is lost, so the next power-up needs the image again and a new epoch. -/
  | powerLoss
  /-- R124. The MGC raises a request to supervisor firmware on a region, trapping with 0xAB, which is logged before the task resumes. -/
  | mgcRequest (code : Word)
  /-- R127. An uncorrectable soft error appears in a token on a link or in an entry queue (0x5C), or in element state (0x5D), and freezes the Field with a pending fault. -/
  | fieldSoftError (site : SoftErrorSite) (e : Nat)
  /-- R124. An uncorrectable soft error appears in the Pacer's registers and raises 0xAC, ending the task FAULTED. -/
  | pacerRegisterSoftError (reg : Nat)
deriving DecidableEq, Repr, Inhabited

end Sys2Proof
end

