-- ==== Sys2Proof/WellFormed.lean ====
section
/-! DEFINITION. Which instructions are well formed: the qualifier values have a meaning (R206, R209, R210, R255), and the operands of
the other units' steps lie in the ranges that their rules give. -/

namespace Sys2Proof

/-- Whether scope sc and kind ok mean something where every kind is allowed (R206, R255). -/
def qualAny (sc ok : Nat) : Bool := sc < 5 && (ok != 0 || sc == 0)
/-- Whether they mean something where only release is allowed. -/
def qualRel (sc ok : Nat) : Bool := sc < 5 && (ok == 2 || (ok == 0 && sc == 0))

/-- The instruction's operands lie in their ranges. -/
def Instr.wf (i : Instr) : Bool :=
  match i with
  | .powerUp => true
  | .imageGo _ => true
  | .verify => true
  | .mgcLoad _ => true
  | .mgcInit (.thermalStop die temp) => decide (die < 10 ∧ 1840 ≤ temp.toNat)
  | .mgcInit _ => true
  | .logRing _ => true
  | .quote _ => true
  | .sensor _ => true
  | .identity _ => true
  | .moduleReset _ => true
  | .registerWrite _ _ => true
  | .sensorSample _ _ => true
  | .thermalStop die temp => decide (die < 10 ∧ 1840 ≤ temp.toNat)
  | .jnlCfgWrite _ => true
  | .jnlRdWrite _ => true
  | .hostRead _ _ addr n => decide (0 < n ∧ n ≤ 256 ∧ addr % 256 + n ≤ 256)
  | .postedWrite _ _ addr bs => decide (0 < bs.length ∧ bs.length ≤ 256 ∧ addr % 256 + bs.length ≤ 256)
  | .fadd32 _ _ _ _ => true
  | .fadd64 _ _ _ _ => true
  | .swap64 _ _ _ _ => true
  | .cas64 _ _ _ _ _ => true
  | .writeWithCompletion => true
  | .isaudLinkDown => true
  | .celcenPortFail _ => true
  | .celcenBothPortsDown => true
  | .peerDeviceReset _ => true
  | .dieLinkFailure die => decide (die < 8)
  | .completionTimeout _ => true
  | .packetConsume qid => decide (qid < 4096)
  | .queueStall qid => decide (qid < 4096)
  | .stallEntryWrite qid => decide (qid < 4096)
  | .launch qid => decide (qid < 4096)
  | .cancel qid => decide (qid < 4096)
  | .notify qid => decide (qid < 4096)
  | .copy qid => decide (qid < 4096)
  | .strided qid => decide (qid < 4096)
  | .fill qid => decide (qid < 4096)
  | .bteChunk _ _ => true
  | .qCreate => true
  | .qDestroy => true
  | .qSkip => true
  | .captSet => true
  | .vdCreatePacket => true
  | .vdDestroy => true
  | .vdStopPacket => true
  | .vdStartPacket => true
  | .vdDirtyPacket => true
  | .vdExport => true
  | .vdImport => true
  | .fwInfo => true
  | .dispatchDecision => true
  | .preemptionRequest => true
  | .stop => true
  | .forcedFreeze => true
  | .graceFreeze => true
  | .heatAccountingWrite heat => decide (heat < 256)
  | .pendingFaultDelivery => true
  | .pass _ _ _ => true
  | .admitReq _ _ => true
  | .apply _ => true
  | .ret _ => true
  | .serve _ _ => true
  | .combine _ _ => true
  | .bankHalfComplete => true
  | .starterDecision => true
  | .reconfigurationWave _ => true
  | .configRefetch slot => decide (slot < 8)
  | .cacheSoftError slot => decide (slot < 8)
  | .roundStart se => decide (se < 8)
  | .armBoundary slot => decide (slot < 8)
  | .routerMove _ => true
  | .controllerIteration => true
  | .splitMarker _ _ => true
  | .wfeTimeout => true
  | .snapWaitTimeout => true
  | .add _ _ _ => true
  | .sub _ _ _ => true
  | .and _ _ _ => true
  | .or _ _ _ => true
  | .xor _ _ _ => true
  | .andn _ _ _ => true
  | .sll _ _ _ => true
  | .srl _ _ _ => true
  | .sra _ _ _ => true
  | .slt _ _ _ => true
  | .sltu _ _ _ => true
  | .min _ _ _ => true
  | .max _ _ _ => true
  | .minu _ _ _ => true
  | .maxu _ _ _ => true
  | .mul _ _ _ => true
  | .mulh _ _ _ => true
  | .mulhu _ _ _ => true
  | .div _ _ _ => true
  | .divu _ _ _ => true
  | .rem _ _ _ => true
  | .remu _ _ _ => true
  | .clz _ _ => true
  | .ctz _ _ => true
  | .popc _ _ => true
  | .bext _ _ _ => true
  | .bins _ _ _ => true
  | .sel _ _ _ _ => true
  | .addi _ _ _ => true
  | .andi _ _ _ => true
  | .ori _ _ _ => true
  | .xori _ _ _ => true
  | .slli _ _ _ => true
  | .srli _ _ _ => true
  | .srai _ _ _ => true
  | .slti _ _ _ => true
  | .lui _ _ => true
  | .auipc _ _ => true
  | .limm _ _ => true
  | .fadd _ _ _ _ => true
  | .fsub _ _ _ _ => true
  | .fmul _ _ _ _ => true
  | .ffma _ _ _ _ => true
  | .fdiv _ _ _ _ => true
  | .fsqrt _ _ _ => true
  | .fmin _ _ _ _ => true
  | .fmax _ _ _ _ => true
  | .fcmp _ _ _ cond _ => decide (cond.toNat < 8)
  | .fcvt _ _ conv => decide (conv.toNat < 14)
  | .fclass _ _ _ => true
  | .beq _ _ _ => true
  | .bne _ _ _ => true
  | .blt _ _ _ => true
  | .bge _ _ _ => true
  | .bltu _ _ _ => true
  | .bgeu _ _ _ => true
  | .loop _ _ => true
  | .jal _ _ => true
  | .jalr _ _ _ => true
  | .ld _ _ _ _ u sz => !(u == 1 && sz == 3)
  | .st _ _ _ _ _ => true
  | .ldq _ _ _ _ => true
  | .stq _ _ _ _ => true
  | .ldfeWait _ _ _ _ _ => true
  | .ldfeTake _ _ _ _ _ => true
  | .stfe _ _ _ _ _ _ => true
  | .cld _ _ _ _ => true
  | .cst _ _ _ _ => true
  | .cinc _ _ _ => true
  | .csetb _ _ _ => true
  | .candp _ _ _ => true
  | .cget _ _ q => decide (q.toNat < 8)
  | .ctag _ _ => true
  | .cclr _ _ => true
  | .csub _ _ _ => true
  | .gets _ _ => true
  | .sets _ _ => true
  | .trap _ => true
  | .eret => true
  | .fence scope kind => decide (scope.toNat < 5) && kind != 0
  | .wfe _ _ => true
  | .halt => true
  | .yield => true
  | .cfgLoad _ _ => true
  | .cfgEvict _ => true
  | .cfgArm _ _ _ => true
  | .cfgDisarm _ _ => true
  | .cfgQuery _ _ => true
  | .ctlSeq _ => true
  | .ctlPipe _ _ => true
  | .ctlStrm _ => true
  | .ctlEnd => true
  | .strmGo _ _ _ => true
  | .strmParm _ _ => true
  | .inj _ _ _ => true
  | .getk _ _ => true
  | .drain _ => true
  | .snapMark _ _ => true
  | .snapWait _ _ _ => true
  | .btePut _ _ _ sc ok => qualRel sc.toNat ok.toNat
  | .waitc _ _ _ => true
  | .testc _ _ _ => true
  | .bankMv _ sc ok => qualRel sc.toNat ok.toNat
  | .amoAdd _ _ _ sc ok => qualAny sc.toNat ok.toNat
  | .amoAnd _ _ _ sc ok => qualAny sc.toNat ok.toNat
  | .amoOr _ _ _ sc ok => qualAny sc.toNat ok.toNat
  | .amoXor _ _ _ sc ok => qualAny sc.toNat ok.toNat
  | .amoMin _ _ _ sc ok => qualAny sc.toNat ok.toNat
  | .amoMax _ _ _ sc ok => qualAny sc.toNat ok.toNat
  | .amoSwap _ _ _ sc ok => qualAny sc.toNat ok.toNat
  | .amoCas _ _ _ sc ok => qualAny sc.toNat ok.toNat
  | .redFadd _ _ _ sc ok => qualRel sc.toNat ok.toNat
  | .redFmax _ _ _ sc ok => qualRel sc.toNat ok.toNat
  | .redFmin _ _ _ sc ok => qualRel sc.toNat ok.toNat
  | .redIadd _ _ _ sc ok => qualRel sc.toNat ok.toNat
  | .wred _ _ _ sc ok => qualRel sc.toNat ok.toNat
  | .batonAlloc _ _ sc => decide (sc.toNat < 5)
  | .batonAcq _ => true
  | .batonRel _ => true
  | .batonFree _ => true
  | .barInit _ _ => true
  | .barArrive _ _ _ sc ok => qualRel sc.toNat ok.toNat
  | .barWait _ _ _ => true
  | .barDrop _ sc ok => qualRel sc.toNat ok.toNat
  | .waitv _ _ _ => true
  | .drgnDecl _ _ _ => true
  | .drgnRead _ _ => true
  | .drgnSync _ => true
  | .drgnDrop _ => true
  | .taskSpawn _ _ _ => true
  | .taskCancel _ _ => true
  | .taskRetire => true
  | .trigBind _ _ _ => true
  | .trigUnbind _ _ => true
  | .heatOpen _ _ _ => true
  | .heatClose _ => true
  | .ballotPost _ _ => true
  | .ballotPoll _ _ => true
  | .seqAdmit _ _ _ => true
  | .seqRelease _ _ _ => true
  | .kvSlot _ _ _ => true
  | .tlbi _ _ => true
  | .tlbsync => true
  | .vdDirty _ _ _ => true
  | .vdStop _ => true
  | .vdStart _ => true
  | .fcap _ _ => true
  | .frst _ _ => true
  | .mxMma e => decide (e < 72)
  | .mxMmaBs e => decide (e < 72)
  | .mxMmaRc e => decide (e < 72)
  | .mxMzero e => decide (e < 72)
  | .mxMdrn e => decide (e < 72)
  | .vxAdd e => decide (e < 72)
  | .vxSub e => decide (e < 72)
  | .vxMul e => decide (e < 72)
  | .vxFma e => decide (e < 72)
  | .vxMin e => decide (e < 72)
  | .vxMax e => decide (e < 72)
  | .vxAbs e => decide (e < 72)
  | .vxNeg e => decide (e < 72)
  | .vxCmp e => decide (e < 72)
  | .vxAnd e => decide (e < 72)
  | .vxOr e => decide (e < 72)
  | .vxXor e => decide (e < 72)
  | .vxShl e => decide (e < 72)
  | .vxShr e => decide (e < 72)
  | .vxCvt e => decide (e < 72)
  | .vxAcc e => decide (e < 72)
  | .vxScan e => decide (e < 72)
  | .rxRsum e => decide (e < 72)
  | .rxRmax e => decide (e < 72)
  | .rxRmin e => decide (e < 72)
  | .rxRargmax e => decide (e < 72)
  | .rxRsumsq e => decide (e < 72)
  | .fxExp2 e => decide (e < 72)
  | .fxLog2 e => decide (e < 72)
  | .fxRcp e => decide (e < 72)
  | .fxRsqrt e => decide (e < 72)
  | .fxSin e => decide (e < 72)
  | .fxTanh e => decide (e < 72)
  | .fxLut e => decide (e < 72)
  | .agRd se _ => decide (se < 8)
  | .agWr se _ => decide (se < 8)
  | .agRdfe se _ => decide (se < 8)
  | .agGather se _ => decide (se < 8)
  | .agRing se _ => decide (se < 8)
  | .agSurv se _ => decide (se < 8)
  | .qxQuant e => decide (e < 72)
  | .qxDeq e => decide (e < 72)
  | .qxBscale e => decide (e < 72)
  | .qxRound e => decide (e < 72)
  | .dlDelay e => decide (e < 72)
  | .dlPrime e => decide (e < 72)
  | .pmTrans e => decide (e < 72)
  | .pmBcast e => decide (e < 72)
  | .pmShuf e => decide (e < 72)
  | .pmPack e => decide (e < 72)
  | .pmUnpack e => decide (e < 72)
  | .smSel e => decide (e < 72)
  | .smMerge e => decide (e < 72)
  | .smSplit e => decide (e < 72)
  | .smFilter e => decide (e < 72)
  | .smConst e => decide (e < 72)
  | .rnRngBits e => decide (e < 72)
  | .rnRngBern e => decide (e < 72)
  | .gtEntry e => decide (e < 72)
  | .gtExit e => decide (e < 72)
  | .gtBound e => decide (e < 72)
  | .gtAcq e => decide (e < 72)
  | .ptCtlin e => decide (e < 72)
  | .ptSink e => decide (e < 72)
  | .ptEreq e => decide (e < 72)
  | .ptErsp e => decide (e < 72)
  | .ptTrig e => decide (e < 72)
  | .fetchAndDecodeFault _ _ => true
  | .peerRequestArrival _ _ _ => true
  | .communicatorFormation _ _ _ _ => true
  | .reductionTreeDissolved => true
  | .isaudLinkReconnect => true
  | .powerLoss => true
  | .mgcRequest _ => true
  | .fieldSoftError _ _ => true
  | .pacerRegisterSoftError r => decide (r < 32)

end Sys2Proof
end

