-- ==== Sys2Proof/Decode.lean ====
section
/-! DEFINITION. Decoding and encoding of Pacer instructions (R203 to R210, R255). A word is read through its fields, which are pulled
out once here; every word decodes to one instruction or ends with a cause of R207. The steps of the other units and the operations of
Field elements have no instruction word: no word decodes to one, and their encoding is empty. -/

namespace Sys2Proof

/-- Bits [lo + n − 1 : lo] of a word (R3). -/
def fieldOf (w lo n : Nat) : Nat := w / 2 ^ lo % 2 ^ n

/-- What the first word of an instruction says: a whole instruction, LIMM's first word, or the cause of checks 5 to 9 of R207. -/
inductive First where
  | one (i : Instr)
  | limm (d : XReg)
  | bad (cause : Byte)
deriving DecidableEq, Repr

/-- The reasons for which bytes are no instruction: too few bytes, or the cause of a check of R207. -/
inductive DecodeError where
  | short
  | cause (c : Byte)
deriving DecidableEq, Repr

/-- The instruction, if the fields that must be zero are (check 9), else cause 0x04. -/
def whenZero (ok : Bool) (i : Instr) : First := if ok then .one i else .bad 0x04

/-- The register fields as register names (R205). -/
def xr (n : Nat) : XReg := BitVec.ofNat 5 n
def cr (n : Nat) : CReg := BitVec.ofNat 4 n

/-- The INT group (R209, R218 to R222). -/
def decodeInt (d a b q fn : Nat) : First :=
  match fn with
  | 0x00 => whenZero (q == 0) (.add (xr d) (xr a) (xr b))
  | 0x01 => whenZero (q == 0) (.sub (xr d) (xr a) (xr b))
  | 0x02 => whenZero (q == 0) (.and (xr d) (xr a) (xr b))
  | 0x03 => whenZero (q == 0) (.or (xr d) (xr a) (xr b))
  | 0x04 => whenZero (q == 0) (.xor (xr d) (xr a) (xr b))
  | 0x05 => whenZero (q == 0) (.andn (xr d) (xr a) (xr b))
  | 0x06 => whenZero (q == 0) (.sll (xr d) (xr a) (xr b))
  | 0x07 => whenZero (q == 0) (.srl (xr d) (xr a) (xr b))
  | 0x08 => whenZero (q == 0) (.sra (xr d) (xr a) (xr b))
  | 0x09 => whenZero (q == 0) (.slt (xr d) (xr a) (xr b))
  | 0x0A => whenZero (q == 0) (.sltu (xr d) (xr a) (xr b))
  | 0x0B => whenZero (q == 0) (.min (xr d) (xr a) (xr b))
  | 0x0C => whenZero (q == 0) (.max (xr d) (xr a) (xr b))
  | 0x0D => whenZero (q == 0) (.minu (xr d) (xr a) (xr b))
  | 0x0E => whenZero (q == 0) (.maxu (xr d) (xr a) (xr b))
  | 0x10 => whenZero (q == 0) (.mul (xr d) (xr a) (xr b))
  | 0x11 => whenZero (q == 0) (.mulh (xr d) (xr a) (xr b))
  | 0x12 => whenZero (q == 0) (.mulhu (xr d) (xr a) (xr b))
  | 0x13 => whenZero (q == 0) (.div (xr d) (xr a) (xr b))
  | 0x14 => whenZero (q == 0) (.divu (xr d) (xr a) (xr b))
  | 0x15 => whenZero (q == 0) (.rem (xr d) (xr a) (xr b))
  | 0x16 => whenZero (q == 0) (.remu (xr d) (xr a) (xr b))
  | 0x1B => whenZero (q == 0) (.bext (xr d) (xr a) (xr b))
  | 0x1C => whenZero (q == 0) (.bins (xr d) (xr a) (xr b))
  | 0x18 => whenZero (q == 0 && b == 0) (.clz (xr d) (xr a))
  | 0x19 => whenZero (q == 0 && b == 0) (.ctz (xr d) (xr a))
  | 0x1A => whenZero (q == 0 && b == 0) (.popc (xr d) (xr a))
  | 0x1D => .one (.sel (xr d) (xr a) (xr b) (xr q))
  | _ => .bad 0x03

/-- The FP group: q holds the format in its lowest bit and the condition or conversion above it (R209, R225 to R230). -/
def decodeFp (d a b q fn : Nat) : First :=
  let dbl := BitVec.ofNat 1 (q % 2)
  let sel := q / 2
  match fn with
  | 0x00 => whenZero (sel == 0) (.fadd (xr d) (xr a) (xr b) dbl)
  | 0x01 => whenZero (sel == 0) (.fsub (xr d) (xr a) (xr b) dbl)
  | 0x02 => whenZero (sel == 0) (.fmul (xr d) (xr a) (xr b) dbl)
  | 0x03 => whenZero (sel == 0) (.ffma (xr d) (xr a) (xr b) dbl)
  | 0x04 => whenZero (sel == 0) (.fdiv (xr d) (xr a) (xr b) dbl)
  | 0x06 => whenZero (sel == 0) (.fmin (xr d) (xr a) (xr b) dbl)
  | 0x07 => whenZero (sel == 0) (.fmax (xr d) (xr a) (xr b) dbl)
  | 0x05 => whenZero (sel == 0 && b == 0) (.fsqrt (xr d) (xr a) dbl)
  | 0x08 => if sel < 8 then .one (.fcmp (xr d) (xr a) (xr b) (BitVec.ofNat 4 sel) dbl) else .bad 0x03
  | 0x09 => if sel < 14 then whenZero (q % 2 == 0 && b == 0) (.fcvt (xr d) (xr a) (BitVec.ofNat 4 sel)) else .bad 0x03
  | 0x0A => whenZero (sel == 0 && b == 0) (.fclass (xr d) (xr a) dbl)
  | _ => .bad 0x03

/-- The CAP group (R242 to R247). -/
def decodeCap (d a b q fn : Nat) : First :=
  match fn with
  | 0x00 => whenZero (q == 0 && d < 16 && a < 16) (.cinc (cr d) (cr a) (xr b))
  | 0x01 => whenZero (q == 0 && d < 16 && a < 16) (.csetb (cr d) (cr a) (xr b))
  | 0x02 => whenZero (q == 0 && d < 16 && a < 16) (.candp (cr d) (cr a) (xr b))
  | 0x03 => if q < 8 then whenZero (a < 16 && b == 0) (.cget (xr d) (cr a) (xr q)) else .bad 0x03
  | 0x04 => whenZero (q == 0 && a < 16 && b == 0) (.ctag (xr d) (cr a))
  | 0x05 => whenZero (q == 0 && d < 16 && a < 16 && b == 0) (.cclr (cr d) (cr a))
  | 0x06 => whenZero (q == 0 && a < 16 && b < 16) (.csub (xr d) (cr a) (cr b))
  | _ => .bad 0x03

/-- The FLD group; q holds SC and OK, which are zero (R257 to R267). -/
def decodeFld (d a b q fn : Nat) : First :=
  match fn with
  | 0x00 => whenZero (q == 0 && d == 0 && a < 16) (.cfgLoad (cr a) (xr b))
  | 0x01 => whenZero (q == 0 && d == 0 && a == 0) (.cfgEvict (xr b))
  | 0x02 => whenZero (q == 0) (.cfgArm (xr d) (xr a) (xr b))
  | 0x03 => whenZero (q == 0 && a == 0) (.cfgDisarm (xr d) (xr b))
  | 0x04 => whenZero (q == 0 && a == 0) (.cfgQuery (xr d) (xr b))
  | 0x08 => whenZero (q == 0 && d == 0 && b == 0) (.ctlSeq (xr a))
  | 0x09 => whenZero (q == 0 && d == 0) (.ctlPipe (xr a) (xr b))
  | 0x0A => whenZero (q == 0 && d == 0 && b == 0) (.ctlStrm (xr a))
  | 0x0B => whenZero (q == 0 && d == 0 && a == 0 && b == 0) .ctlEnd
  | 0x10 => whenZero (q == 0) (.strmGo (xr d) (xr a) (xr b))
  | 0x11 => whenZero (q == 0 && d == 0) (.strmParm (xr a) (xr b))
  | 0x12 => whenZero (q == 0) (.inj (xr d) (xr a) (xr b))
  | 0x13 => whenZero (q == 0 && a < 8 && b == 0) (.getk (xr d) (BitVec.ofNat 3 a))
  | 0x14 => whenZero (q == 0 && d == 0 && a == 0) (.drain (xr b))
  | 0x18 => whenZero (q == 0 && d == 0 && a < 16) (.snapMark (cr a) (xr b))
  | 0x19 => whenZero (q == 0) (.snapWait (xr d) (xr a) (xr b))
  | _ => .bad 0x03

/-- The ENG group (R270 to R273). -/
def decodeEng (d a b sc ok fn : Nat) : First :=
  match fn with
  | 0x00 => if qualRel sc ok then whenZero (a < 16) (.btePut (xr d) (cr a) (xr b) (BitVec.ofNat 3 sc) (BitVec.ofNat 2 ok)) else .bad 0x03
  | 0x01 => whenZero (sc == 0 && ok == 0 && a < 16) (.waitc (xr d) (cr a) (xr b))
  | 0x02 => whenZero (sc == 0 && ok == 0 && a < 16) (.testc (xr d) (cr a) (xr b))
  | 0x03 => if qualRel sc ok then whenZero (d == 0 && a < 16 && b == 0) (.bankMv (cr a) (BitVec.ofNat 3 sc) (BitVec.ofNat 2 ok)) else .bad 0x03
  | _ => .bad 0x03

/-- The AMO group (R274). -/
def decodeAmo (d a b sc ok fn : Nat) : First :=
  if fn < 8 then
    if qualAny sc ok then
      let s := BitVec.ofNat 3 sc
      let k := BitVec.ofNat 2 ok
      match fn with
      | 0x00 => whenZero (a < 16) (.amoAdd (xr d) (cr a) (xr b) s k)
      | 0x01 => whenZero (a < 16) (.amoAnd (xr d) (cr a) (xr b) s k)
      | 0x02 => whenZero (a < 16) (.amoOr (xr d) (cr a) (xr b) s k)
      | 0x03 => whenZero (a < 16) (.amoXor (xr d) (cr a) (xr b) s k)
      | 0x04 => whenZero (a < 16) (.amoMin (xr d) (cr a) (xr b) s k)
      | 0x05 => whenZero (a < 16) (.amoMax (xr d) (cr a) (xr b) s k)
      | 0x06 => whenZero (a < 16) (.amoSwap (xr d) (cr a) (xr b) s k)
      | _ => whenZero (a < 16) (.amoCas (xr d) (cr a) (xr b) s k)
    else .bad 0x03
  else .bad 0x03

/-- The RED group (R275 to R277). -/
def decodeRed (d a b sc ok fn : Nat) : First :=
  if fn < 5 then
    if qualRel sc ok then
      let s := BitVec.ofNat 3 sc
      let k := BitVec.ofNat 2 ok
      match fn with
      | 0x00 => whenZero (a < 16) (.redFadd (xr d) (cr a) (xr b) s k)
      | 0x01 => whenZero (a < 16) (.redFmax (xr d) (cr a) (xr b) s k)
      | 0x02 => whenZero (a < 16) (.redFmin (xr d) (cr a) (xr b) s k)
      | 0x03 => whenZero (a < 16) (.redIadd (xr d) (cr a) (xr b) s k)
      | _ => whenZero (d < 8 && a < 16) (.wred (BitVec.ofNat 3 d) (cr a) (xr b) s k)
    else .bad 0x03
  else .bad 0x03

/-- The SYNC group (R278 to R282). -/
def decodeSync (d a b sc ok fn : Nat) : First :=
  match fn with
  | 0x00 => if sc < 5 then whenZero (ok == 0 && a < 16 && b == 0) (.batonAlloc (xr d) (cr a) (BitVec.ofNat 3 sc)) else .bad 0x03
  | 0x01 => whenZero (sc == 0 && ok == 0 && d == 0 && a < 16 && b == 0) (.batonAcq (cr a))
  | 0x02 => whenZero (sc == 0 && ok == 0 && d == 0 && a < 16 && b == 0) (.batonRel (cr a))
  | 0x03 => whenZero (sc == 0 && ok == 0 && d == 0 && a < 16 && b == 0) (.batonFree (cr a))
  | 0x08 => whenZero (sc == 0 && ok == 0 && d == 0 && a < 16) (.barInit (cr a) (xr b))
  | 0x09 => if qualRel sc ok then whenZero (a < 16) (.barArrive (xr d) (cr a) (xr b) (BitVec.ofNat 3 sc) (BitVec.ofNat 2 ok)) else .bad 0x03
  | 0x0A => whenZero (sc == 0 && ok == 0 && a < 16) (.barWait (xr d) (cr a) (xr b))
  | 0x0B => if qualRel sc ok then whenZero (d == 0 && a < 16 && b == 0) (.barDrop (cr a) (BitVec.ofNat 3 sc) (BitVec.ofNat 2 ok)) else .bad 0x03
  | 0x10 => whenZero (sc == 0 && ok == 0 && a < 16) (.waitv (xr d) (cr a) (xr b))
  | _ => .bad 0x03

/-- The DRGN group (R283). -/
def decodeDrgn (d a b q fn : Nat) : First :=
  match fn with
  | 0x00 => whenZero (q == 0 && d < 16 && a < 16 && b < 16) (.drgnDecl (cr d) (cr a) (cr b))
  | 0x01 => whenZero (q == 0 && a < 16 && b == 0) (.drgnRead (xr d) (cr a))
  | 0x02 => whenZero (q == 0 && d == 0 && a < 16 && b == 0) (.drgnSync (cr a))
  | 0x03 => whenZero (q == 0 && d == 0 && a < 16 && b == 0) (.drgnDrop (cr a))
  | _ => .bad 0x03

/-- The TASK group (R284 to R288). -/
def decodeTask (d a b q fn : Nat) : First :=
  match fn with
  | 0x00 => whenZero (q == 0 && a < 16 && b < 16) (.taskSpawn (xr d) (cr a) (cr b))
  | 0x01 => whenZero (q == 0 && b == 0) (.taskCancel (xr d) (xr a))
  | 0x02 => whenZero (q == 0 && d == 0 && a == 0 && b == 0) .taskRetire
  | 0x08 => whenZero (q == 0 && d < 16 && a < 16) (.trigBind (cr d) (cr a) (xr b))
  | 0x09 => whenZero (q == 0 && d == 0 && a < 16) (.trigUnbind (cr a) (xr b))
  | 0x10 => whenZero (q == 0 && a < 16) (.heatOpen (xr d) (cr a) (xr b))
  | 0x11 => whenZero (q == 0 && d == 0 && b == 0) (.heatClose (xr a))
  | 0x12 => whenZero (q == 0 && b == 0) (.ballotPost (xr d) (xr a))
  | 0x13 => whenZero (q == 0 && b == 0) (.ballotPoll (xr d) (xr a))
  | 0x18 => whenZero (q == 0 && a < 16 && b < 16) (.seqAdmit (xr d) (cr a) (cr b))
  | 0x19 => whenZero (q == 0 && a < 16 && b < 16) (.seqRelease (xr d) (cr a) (cr b))
  | 0x1A => whenZero (q == 0 && a < 16) (.kvSlot (xr d) (cr a) (xr b))
  | _ => .bad 0x03

/-- The PRIV group (R289 to R291). -/
def decodePriv (d a b q fn : Nat) : First :=
  match fn with
  | 0x00 => whenZero (q == 0 && d == 0) (.tlbi (xr a) (xr b))
  | 0x01 => whenZero (q == 0 && d == 0 && a == 0 && b == 0) .tlbsync
  | 0x02 => whenZero (q == 0 && d < 16) (.vdDirty (cr d) (xr a) (xr b))
  | 0x03 => whenZero (q == 0 && d == 0 && b == 0) (.vdStop (xr a))
  | 0x04 => whenZero (q == 0 && d == 0 && b == 0) (.vdStart (xr a))
  | 0x05 => whenZero (q == 0 && d == 0) (.fcap (xr a) (xr b))
  | 0x06 => whenZero (q == 0 && d == 0) (.frst (xr a) (xr b))
  | _ => .bad 0x03

/-- The SYS group (R248 to R254). -/
def decodeSys (d a param fn : Nat) : First :=
  match fn with
  | 0x0 => whenZero (a == 0) (.gets (xr d) (BitVec.ofNat 12 param))
  | 0x1 => whenZero (d == 0) (.sets (xr a) (BitVec.ofNat 12 param))
  | 0x2 => whenZero (d == 0 && a == 0) (.trap (BitVec.ofNat 12 param))
  | 0x3 => whenZero (d == 0 && a == 0 && param == 0) .eret
  | 0x4 =>
    if param % 4 != 0 && param / 4 % 8 < 5 then
      whenZero (d == 0 && a == 0 && param / 32 == 0) (.fence (BitVec.ofNat 3 (param / 4 % 8)) (BitVec.ofNat 2 (param % 4)))
    else .bad 0x03
  | 0x5 => whenZero (param == 0) (.wfe (xr d) (xr a))
  | 0x6 => whenZero (d == 0 && a == 0 && param == 0) .halt
  | 0x7 => whenZero (d == 0 && a == 0 && param == 0) .yield
  | _ => .bad 0x03

/-- The M format: size and flags in MQ (R210). -/
def decodeMem (major d cb xi off mq : Nat) : First :=
  let dx := xr d
  let c := cr cb
  let x := xr xi
  let o := BitVec.ofNat 8 off
  let sz := BitVec.ofNat 2 (mq % 4)
  let b2 := mq / 4 % 2
  match major with
  | 0x20 => if b2 == 1 && mq % 4 == 3 then .bad 0x03 else whenZero (mq / 8 == 0) (.ld dx c x o (BitVec.ofNat 1 b2) sz)
  | 0x21 => whenZero (mq / 4 == 0) (.st dx c x o sz)
  | 0x22 => whenZero (mq == 0) (.ldq dx c x o)
  | 0x23 => whenZero (mq == 0) (.stq dx c x o)
  | 0x24 => whenZero (mq / 8 == 0) (if b2 == 1 then .ldfeTake dx c x o sz else .ldfeWait dx c x o sz)
  | 0x25 => whenZero (mq / 8 == 0) (.stfe dx c x o (BitVec.ofNat 1 b2) sz)
  | 0x26 => whenZero (mq == 0 && d < 16) (.cld (cr d) c x o)
  | _ => whenZero (mq == 0 && d < 16) (.cst (cr d) c x o)

/-- The I format and the single-instruction majors of R208. -/
def decodeImm (major d a imm : Nat) : First :=
  let i := BitVec.ofNat 16 imm
  match major with
  | 0x04 => .one (.addi (xr d) (xr a) i)
  | 0x05 => .one (.andi (xr d) (xr a) i)
  | 0x06 => .one (.ori (xr d) (xr a) i)
  | 0x07 => .one (.xori (xr d) (xr a) i)
  | 0x08 => whenZero (imm < 64) (.slli (xr d) (xr a) (BitVec.ofNat 6 imm))
  | 0x09 => whenZero (imm < 64) (.srli (xr d) (xr a) (BitVec.ofNat 6 imm))
  | 0x0A => whenZero (imm < 64) (.srai (xr d) (xr a) (BitVec.ofNat 6 imm))
  | 0x0B => .one (.slti (xr d) (xr a) i)
  | 0x0C => whenZero (a == 0) (.lui (xr d) i)
  | 0x0D => whenZero (a == 0) (.auipc (xr d) i)
  | 0x10 => .one (.beq (xr d) (xr a) i)
  | 0x11 => .one (.bne (xr d) (xr a) i)
  | 0x12 => .one (.blt (xr d) (xr a) i)
  | 0x13 => .one (.bge (xr d) (xr a) i)
  | 0x14 => .one (.bltu (xr d) (xr a) i)
  | 0x15 => .one (.bgeu (xr d) (xr a) i)
  | 0x16 => whenZero (a == 0) (.loop (xr d) i)
  | 0x19 => .one (.jalr (xr d) (xr a) i)
  | _ => .bad 0x02

/-- Checks 5 to 9 of R207 on a word, and the instruction that it names (R208). -/
def decodeFirst (w : Nat) : First :=
  if w == 0 then .bad 0x00
  else if w == 0xFFFFFFFF then .bad 0x01
  else
    let major := fieldOf w 26 6
    let d := fieldOf w 21 5
    let a := fieldOf w 16 5
    let b := fieldOf w 11 5
    let q := fieldOf w 6 5
    let sc := fieldOf w 8 3
    let ok := fieldOf w 6 2
    let fn := fieldOf w 0 6
    match major with
    | 0x01 => decodeInt d a b q fn
    | 0x02 => decodeFp d a b q fn
    | 0x18 => .one (.jal (xr d) (BitVec.ofNat 21 (fieldOf w 0 21)))
    | 0x20 => decodeMem 0x20 d (fieldOf w 17 4) (fieldOf w 12 5) (fieldOf w 4 8) (fieldOf w 0 4)
    | 0x21 => decodeMem 0x21 d (fieldOf w 17 4) (fieldOf w 12 5) (fieldOf w 4 8) (fieldOf w 0 4)
    | 0x22 => decodeMem 0x22 d (fieldOf w 17 4) (fieldOf w 12 5) (fieldOf w 4 8) (fieldOf w 0 4)
    | 0x23 => decodeMem 0x23 d (fieldOf w 17 4) (fieldOf w 12 5) (fieldOf w 4 8) (fieldOf w 0 4)
    | 0x24 => decodeMem 0x24 d (fieldOf w 17 4) (fieldOf w 12 5) (fieldOf w 4 8) (fieldOf w 0 4)
    | 0x25 => decodeMem 0x25 d (fieldOf w 17 4) (fieldOf w 12 5) (fieldOf w 4 8) (fieldOf w 0 4)
    | 0x26 => decodeMem 0x26 d (fieldOf w 17 4) (fieldOf w 12 5) (fieldOf w 4 8) (fieldOf w 0 4)
    | 0x27 => decodeMem 0x27 d (fieldOf w 17 4) (fieldOf w 12 5) (fieldOf w 4 8) (fieldOf w 0 4)
    | 0x2C => decodeCap d a b q fn
    | 0x30 => decodeFld d a b q fn
    | 0x31 => decodeEng d a b sc ok fn
    | 0x32 => decodeAmo d a b sc ok fn
    | 0x33 => decodeRed d a b sc ok fn
    | 0x34 => decodeSync d a b sc ok fn
    | 0x35 => decodeDrgn d a b q fn
    | 0x36 => decodeTask d a b q fn
    | 0x37 => decodePriv d a b q fn
    | 0x3C => decodeSys d a (fieldOf w 4 12) (fieldOf w 0 4)
    | 0x3F => if fieldOf w 0 4 != 0 then .bad 0x03 else if fieldOf w 4 17 == 0 then .limm (xr d) else .bad 0x04
    | m => decodeImm m d a (fieldOf w 0 16)

/-- A little-endian word of four bytes (R3). -/
def leWord (b0 b1 b2 b3 : Byte) : Nat := b0.toNat + 2 ^ 8 * b1.toNat + 2 ^ 16 * b2.toNat + 2 ^ 24 * b3.toNat

/-- The four bytes of a word, lowest address first (R3). -/
def wordBytes (w : Nat) : List Byte :=
  [BitVec.ofNat 8 w, BitVec.ofNat 8 (w / 2 ^ 8), BitVec.ofNat 8 (w / 2 ^ 16), BitVec.ofNat 8 (w / 2 ^ 24)]

/-- The instruction that bytes begin with, and the bytes after it. -/
def decode (bs : List Byte) : Except DecodeError (Instr × List Byte) :=
  match bs with
  | b0 :: b1 :: b2 :: b3 :: rest =>
    match decodeFirst (leWord b0 b1 b2 b3) with
    | .one i => .ok (i, rest)
    | .bad c => .error (.cause c)
    | .limm d =>
      match rest with
      | c0 :: c1 :: c2 :: c3 :: rest2 => .ok (.limm d (BitVec.ofNat 32 (leWord c0 c1 c2 c3)), rest2)
      | _ => .error .short
  | _ => .error .short

/-! ### Encoding (R204) -/

def encA (major d a b q fn : Nat) : Nat := major * 2 ^ 26 + d * 2 ^ 21 + a * 2 ^ 16 + b * 2 ^ 11 + q * 2 ^ 6 + fn
def encS (major d a b sc ok fn : Nat) : Nat :=
  major * 2 ^ 26 + d * 2 ^ 21 + a * 2 ^ 16 + b * 2 ^ 11 + sc * 2 ^ 8 + ok * 2 ^ 6 + fn
def encI (major d a imm : Nat) : Nat := major * 2 ^ 26 + d * 2 ^ 21 + a * 2 ^ 16 + imm
def encM (major d cb xi off mq : Nat) : Nat := major * 2 ^ 26 + d * 2 ^ 21 + cb * 2 ^ 17 + xi * 2 ^ 12 + off * 2 ^ 4 + mq
def encY (d a param fn : Nat) : Nat := 0x3C * 2 ^ 26 + d * 2 ^ 21 + a * 2 ^ 16 + param * 2 ^ 4 + fn

/-- The words of an instruction; none for a step that has no instruction word. -/
def encodeWords (i : Instr) : List Nat :=
  match i with
  | .powerUp => []
  | .imageGo _ => []
  | .verify => []
  | .mgcLoad _ => []
  | .mgcInit _ => []
  | .logRing _ => []
  | .quote _ => []
  | .sensor _ => []
  | .identity _ => []
  | .moduleReset _ => []
  | .registerWrite _ _ => []
  | .sensorSample _ _ => []
  | .thermalStop _ _ => []
  | .jnlCfgWrite _ => []
  | .jnlRdWrite _ => []
  | .hostRead _ _ _ _ => []
  | .postedWrite _ _ _ _ => []
  | .fadd32 _ _ _ _ => []
  | .fadd64 _ _ _ _ => []
  | .swap64 _ _ _ _ => []
  | .cas64 _ _ _ _ _ => []
  | .writeWithCompletion => []
  | .isaudLinkDown => []
  | .celcenPortFail _ => []
  | .celcenBothPortsDown => []
  | .peerDeviceReset _ => []
  | .dieLinkFailure _ => []
  | .completionTimeout _ => []
  | .packetConsume _ => []
  | .queueStall _ => []
  | .stallEntryWrite _ => []
  | .launch _ => []
  | .cancel _ => []
  | .notify _ => []
  | .copy _ => []
  | .strided _ => []
  | .fill _ => []
  | .bteChunk _ _ => []
  | .qCreate => []
  | .qDestroy => []
  | .qSkip => []
  | .captSet => []
  | .vdCreatePacket => []
  | .vdDestroy => []
  | .vdStopPacket => []
  | .vdStartPacket => []
  | .vdDirtyPacket => []
  | .vdExport => []
  | .vdImport => []
  | .fwInfo => []
  | .dispatchDecision => []
  | .preemptionRequest => []
  | .stop => []
  | .forcedFreeze => []
  | .graceFreeze => []
  | .heatAccountingWrite _ => []
  | .pendingFaultDelivery => []
  | .pass _ _ _ => []
  | .admitReq _ _ => []
  | .apply _ => []
  | .ret _ => []
  | .serve _ _ => []
  | .combine _ _ => []
  | .bankHalfComplete => []
  | .starterDecision => []
  | .reconfigurationWave _ => []
  | .configRefetch _ => []
  | .cacheSoftError _ => []
  | .roundStart _ => []
  | .armBoundary _ => []
  | .routerMove _ => []
  | .controllerIteration => []
  | .splitMarker _ _ => []
  | .wfeTimeout => []
  | .snapWaitTimeout => []
  | .add d a b => [encA 0x01 d.toNat a.toNat b.toNat 0 0x00]
  | .sub d a b => [encA 0x01 d.toNat a.toNat b.toNat 0 0x01]
  | .and d a b => [encA 0x01 d.toNat a.toNat b.toNat 0 0x02]
  | .or d a b => [encA 0x01 d.toNat a.toNat b.toNat 0 0x03]
  | .xor d a b => [encA 0x01 d.toNat a.toNat b.toNat 0 0x04]
  | .andn d a b => [encA 0x01 d.toNat a.toNat b.toNat 0 0x05]
  | .sll d a b => [encA 0x01 d.toNat a.toNat b.toNat 0 0x06]
  | .srl d a b => [encA 0x01 d.toNat a.toNat b.toNat 0 0x07]
  | .sra d a b => [encA 0x01 d.toNat a.toNat b.toNat 0 0x08]
  | .slt d a b => [encA 0x01 d.toNat a.toNat b.toNat 0 0x09]
  | .sltu d a b => [encA 0x01 d.toNat a.toNat b.toNat 0 0x0A]
  | .min d a b => [encA 0x01 d.toNat a.toNat b.toNat 0 0x0B]
  | .max d a b => [encA 0x01 d.toNat a.toNat b.toNat 0 0x0C]
  | .minu d a b => [encA 0x01 d.toNat a.toNat b.toNat 0 0x0D]
  | .maxu d a b => [encA 0x01 d.toNat a.toNat b.toNat 0 0x0E]
  | .mul d a b => [encA 0x01 d.toNat a.toNat b.toNat 0 0x10]
  | .mulh d a b => [encA 0x01 d.toNat a.toNat b.toNat 0 0x11]
  | .mulhu d a b => [encA 0x01 d.toNat a.toNat b.toNat 0 0x12]
  | .div d a b => [encA 0x01 d.toNat a.toNat b.toNat 0 0x13]
  | .divu d a b => [encA 0x01 d.toNat a.toNat b.toNat 0 0x14]
  | .rem d a b => [encA 0x01 d.toNat a.toNat b.toNat 0 0x15]
  | .remu d a b => [encA 0x01 d.toNat a.toNat b.toNat 0 0x16]
  | .clz d a => [encA 0x01 d.toNat a.toNat 0 0 0x18]
  | .ctz d a => [encA 0x01 d.toNat a.toNat 0 0 0x19]
  | .popc d a => [encA 0x01 d.toNat a.toNat 0 0 0x1A]
  | .bext d a b => [encA 0x01 d.toNat a.toNat b.toNat 0 0x1B]
  | .bins d a b => [encA 0x01 d.toNat a.toNat b.toNat 0 0x1C]
  | .sel d a b q => [encA 0x01 d.toNat a.toNat b.toNat q.toNat 0x1D]
  | .addi d a imm => [encI 0x04 d.toNat a.toNat imm.toNat]
  | .andi d a imm => [encI 0x05 d.toNat a.toNat imm.toNat]
  | .ori d a imm => [encI 0x06 d.toNat a.toNat imm.toNat]
  | .xori d a imm => [encI 0x07 d.toNat a.toNat imm.toNat]
  | .slli d a sh => [encI 0x08 d.toNat a.toNat sh.toNat]
  | .srli d a sh => [encI 0x09 d.toNat a.toNat sh.toNat]
  | .srai d a sh => [encI 0x0A d.toNat a.toNat sh.toNat]
  | .slti d a imm => [encI 0x0B d.toNat a.toNat imm.toNat]
  | .lui d imm => [encI 0x0C d.toNat 0 imm.toNat]
  | .auipc d imm => [encI 0x0D d.toNat 0 imm.toNat]
  | .limm d imm => [0x3F * 2 ^ 26 + d.toNat * 2 ^ 21, imm.toNat]
  | .fadd d a b dbl => [encA 0x02 d.toNat a.toNat b.toNat dbl.toNat 0x00]
  | .fsub d a b dbl => [encA 0x02 d.toNat a.toNat b.toNat dbl.toNat 0x01]
  | .fmul d a b dbl => [encA 0x02 d.toNat a.toNat b.toNat dbl.toNat 0x02]
  | .ffma d a b dbl => [encA 0x02 d.toNat a.toNat b.toNat dbl.toNat 0x03]
  | .fdiv d a b dbl => [encA 0x02 d.toNat a.toNat b.toNat dbl.toNat 0x04]
  | .fsqrt d a dbl => [encA 0x02 d.toNat a.toNat 0 dbl.toNat 0x05]
  | .fmin d a b dbl => [encA 0x02 d.toNat a.toNat b.toNat dbl.toNat 0x06]
  | .fmax d a b dbl => [encA 0x02 d.toNat a.toNat b.toNat dbl.toNat 0x07]
  | .fcmp d a b cond dbl => [encA 0x02 d.toNat a.toNat b.toNat (cond.toNat * 2 + dbl.toNat) 0x08]
  | .fcvt d a conv => [encA 0x02 d.toNat a.toNat 0 (conv.toNat * 2) 0x09]
  | .fclass d a dbl => [encA 0x02 d.toNat a.toNat 0 dbl.toNat 0x0A]
  | .beq a b off => [encI 0x10 a.toNat b.toNat off.toNat]
  | .bne a b off => [encI 0x11 a.toNat b.toNat off.toNat]
  | .blt a b off => [encI 0x12 a.toNat b.toNat off.toNat]
  | .bge a b off => [encI 0x13 a.toNat b.toNat off.toNat]
  | .bltu a b off => [encI 0x14 a.toNat b.toNat off.toNat]
  | .bgeu a b off => [encI 0x15 a.toNat b.toNat off.toNat]
  | .loop a off => [encI 0x16 a.toNat 0 off.toNat]
  | .jal d off => [0x18 * 2 ^ 26 + d.toNat * 2 ^ 21 + off.toNat]
  | .jalr d a imm => [encI 0x19 d.toNat a.toNat imm.toNat]
  | .ld d cb xi off u sz => [encM 0x20 d.toNat cb.toNat xi.toNat off.toNat (u.toNat * 4 + sz.toNat)]
  | .st d cb xi off sz => [encM 0x21 d.toNat cb.toNat xi.toNat off.toNat sz.toNat]
  | .ldq d cb xi off => [encM 0x22 d.toNat cb.toNat xi.toNat off.toNat 0]
  | .stq d cb xi off => [encM 0x23 d.toNat cb.toNat xi.toNat off.toNat 0]
  | .ldfeWait d cb xi off sz => [encM 0x24 d.toNat cb.toNat xi.toNat off.toNat sz.toNat]
  | .ldfeTake d cb xi off sz => [encM 0x24 d.toNat cb.toNat xi.toNat off.toNat (4 + sz.toNat)]
  | .stfe d cb xi off full sz => [encM 0x25 d.toNat cb.toNat xi.toNat off.toNat (full.toNat * 4 + sz.toNat)]
  | .cld d cb xi off => [encM 0x26 d.toNat cb.toNat xi.toNat off.toNat 0]
  | .cst d cb xi off => [encM 0x27 d.toNat cb.toNat xi.toNat off.toNat 0]
  | .cinc d a b => [encA 0x2C d.toNat a.toNat b.toNat 0 0x00]
  | .csetb d a b => [encA 0x2C d.toNat a.toNat b.toNat 0 0x01]
  | .candp d a b => [encA 0x2C d.toNat a.toNat b.toNat 0 0x02]
  | .cget d a q => [encA 0x2C d.toNat a.toNat 0 q.toNat 0x03]
  | .ctag d a => [encA 0x2C d.toNat a.toNat 0 0 0x04]
  | .cclr d a => [encA 0x2C d.toNat a.toNat 0 0 0x05]
  | .csub d a b => [encA 0x2C d.toNat a.toNat b.toNat 0 0x06]
  | .gets d num => [encY d.toNat 0 num.toNat 0x0]
  | .sets a num => [encY 0 a.toNat num.toNat 0x1]
  | .trap code => [encY 0 0 code.toNat 0x2]
  | .eret => [encY 0 0 0 0x3]
  | .fence scope kind => [encY 0 0 (scope.toNat * 4 + kind.toNat) 0x4]
  | .wfe d a => [encY d.toNat a.toNat 0 0x5]
  | .halt => [encY 0 0 0 0x6]
  | .yield => [encY 0 0 0 0x7]
  | .cfgLoad ca s => [encS 0x30 0 ca.toNat s.toNat 0 0 0x00]
  | .cfgEvict s => [encS 0x30 0 0 s.toNat 0 0 0x01]
  | .cfgArm d a s => [encS 0x30 d.toNat a.toNat s.toNat 0 0 0x02]
  | .cfgDisarm d s => [encS 0x30 d.toNat 0 s.toNat 0 0 0x03]
  | .cfgQuery d s => [encS 0x30 d.toNat 0 s.toNat 0 0 0x04]
  | .ctlSeq a => [encS 0x30 0 a.toNat 0 0 0 0x08]
  | .ctlPipe a p => [encS 0x30 0 a.toNat p.toNat 0 0 0x09]
  | .ctlStrm a => [encS 0x30 0 a.toNat 0 0 0 0x0A]
  | .ctlEnd => [encS 0x30 0 0 0 0 0 0x0B]
  | .strmGo se a s => [encS 0x30 se.toNat a.toNat s.toNat 0 0 0x10]
  | .strmParm a b => [encS 0x30 0 a.toNat b.toNat 0 0 0x11]
  | .inj p a s => [encS 0x30 p.toNat a.toNat s.toNat 0 0 0x12]
  | .getk d k => [encS 0x30 d.toNat k.toNat 0 0 0 0x13]
  | .drain s => [encS 0x30 0 0 s.toNat 0 0 0x14]
  | .snapMark ca s => [encS 0x30 0 ca.toNat s.toNat 0 0 0x18]
  | .snapWait d a s => [encS 0x30 d.toNat a.toNat s.toNat 0 0 0x19]
  | .btePut d ca b sc ok => [encS 0x31 d.toNat ca.toNat b.toNat sc.toNat ok.toNat 0x00]
  | .waitc d ca b => [encS 0x31 d.toNat ca.toNat b.toNat 0 0 0x01]
  | .testc d ca b => [encS 0x31 d.toNat ca.toNat b.toNat 0 0 0x02]
  | .bankMv ca sc ok => [encS 0x31 0 ca.toNat 0 sc.toNat ok.toNat 0x03]
  | .amoAdd d ca b sc ok => [encS 0x32 d.toNat ca.toNat b.toNat sc.toNat ok.toNat 0x00]
  | .amoAnd d ca b sc ok => [encS 0x32 d.toNat ca.toNat b.toNat sc.toNat ok.toNat 0x01]
  | .amoOr d ca b sc ok => [encS 0x32 d.toNat ca.toNat b.toNat sc.toNat ok.toNat 0x02]
  | .amoXor d ca b sc ok => [encS 0x32 d.toNat ca.toNat b.toNat sc.toNat ok.toNat 0x03]
  | .amoMin d ca b sc ok => [encS 0x32 d.toNat ca.toNat b.toNat sc.toNat ok.toNat 0x04]
  | .amoMax d ca b sc ok => [encS 0x32 d.toNat ca.toNat b.toNat sc.toNat ok.toNat 0x05]
  | .amoSwap d ca b sc ok => [encS 0x32 d.toNat ca.toNat b.toNat sc.toNat ok.toNat 0x06]
  | .amoCas d ca b sc ok => [encS 0x32 d.toNat ca.toNat b.toNat sc.toNat ok.toNat 0x07]
  | .redFadd d ca b sc ok => [encS 0x33 d.toNat ca.toNat b.toNat sc.toNat ok.toNat 0x00]
  | .redFmax d ca b sc ok => [encS 0x33 d.toNat ca.toNat b.toNat sc.toNat ok.toNat 0x01]
  | .redFmin d ca b sc ok => [encS 0x33 d.toNat ca.toNat b.toNat sc.toNat ok.toNat 0x02]
  | .redIadd d ca b sc ok => [encS 0x33 d.toNat ca.toNat b.toNat sc.toNat ok.toNat 0x03]
  | .wred d ca b sc ok => [encS 0x33 d.toNat ca.toNat b.toNat sc.toNat ok.toNat 0x04]
  | .batonAlloc d ca sc => [encS 0x34 d.toNat ca.toNat 0 sc.toNat 0 0x00]
  | .batonAcq ca => [encS 0x34 0 ca.toNat 0 0 0 0x01]
  | .batonRel ca => [encS 0x34 0 ca.toNat 0 0 0 0x02]
  | .batonFree ca => [encS 0x34 0 ca.toNat 0 0 0 0x03]
  | .barInit ca b => [encS 0x34 0 ca.toNat b.toNat 0 0 0x08]
  | .barArrive d ca b sc ok => [encS 0x34 d.toNat ca.toNat b.toNat sc.toNat ok.toNat 0x09]
  | .barWait d ca b => [encS 0x34 d.toNat ca.toNat b.toNat 0 0 0x0A]
  | .barDrop ca sc ok => [encS 0x34 0 ca.toNat 0 sc.toNat ok.toNat 0x0B]
  | .waitv d ca b => [encS 0x34 d.toNat ca.toNat b.toNat 0 0 0x10]
  | .drgnDecl d a b => [encS 0x35 d.toNat a.toNat b.toNat 0 0 0x00]
  | .drgnRead d a => [encS 0x35 d.toNat a.toNat 0 0 0 0x01]
  | .drgnSync a => [encS 0x35 0 a.toNat 0 0 0 0x02]
  | .drgnDrop a => [encS 0x35 0 a.toNat 0 0 0 0x03]
  | .taskSpawn d a b => [encS 0x36 d.toNat a.toNat b.toNat 0 0 0x00]
  | .taskCancel d a => [encS 0x36 d.toNat a.toNat 0 0 0 0x01]
  | .taskRetire => [encS 0x36 0 0 0 0 0 0x02]
  | .trigBind d a b => [encS 0x36 d.toNat a.toNat b.toNat 0 0 0x08]
  | .trigUnbind a b => [encS 0x36 0 a.toNat b.toNat 0 0 0x09]
  | .heatOpen d a b => [encS 0x36 d.toNat a.toNat b.toNat 0 0 0x10]
  | .heatClose a => [encS 0x36 0 a.toNat 0 0 0 0x11]
  | .ballotPost d a => [encS 0x36 d.toNat a.toNat 0 0 0 0x12]
  | .ballotPoll d a => [encS 0x36 d.toNat a.toNat 0 0 0 0x13]
  | .seqAdmit d a b => [encS 0x36 d.toNat a.toNat b.toNat 0 0 0x18]
  | .seqRelease d a b => [encS 0x36 d.toNat a.toNat b.toNat 0 0 0x19]
  | .kvSlot d a b => [encS 0x36 d.toNat a.toNat b.toNat 0 0 0x1A]
  | .tlbi a b => [encS 0x37 0 a.toNat b.toNat 0 0 0x00]
  | .tlbsync => [encS 0x37 0 0 0 0 0 0x01]
  | .vdDirty d a b => [encS 0x37 d.toNat a.toNat b.toNat 0 0 0x02]
  | .vdStop a => [encS 0x37 0 a.toNat 0 0 0 0x03]
  | .vdStart a => [encS 0x37 0 a.toNat 0 0 0 0x04]
  | .fcap a b => [encS 0x37 0 a.toNat b.toNat 0 0 0x05]
  | .frst a b => [encS 0x37 0 a.toNat b.toNat 0 0 0x06]
  | .mxMma _ => []
  | .mxMmaBs _ => []
  | .mxMmaRc _ => []
  | .mxMzero _ => []
  | .mxMdrn _ => []
  | .vxAdd _ => []
  | .vxSub _ => []
  | .vxMul _ => []
  | .vxFma _ => []
  | .vxMin _ => []
  | .vxMax _ => []
  | .vxAbs _ => []
  | .vxNeg _ => []
  | .vxCmp _ => []
  | .vxAnd _ => []
  | .vxOr _ => []
  | .vxXor _ => []
  | .vxShl _ => []
  | .vxShr _ => []
  | .vxCvt _ => []
  | .vxAcc _ => []
  | .vxScan _ => []
  | .rxRsum _ => []
  | .rxRmax _ => []
  | .rxRmin _ => []
  | .rxRargmax _ => []
  | .rxRsumsq _ => []
  | .fxExp2 _ => []
  | .fxLog2 _ => []
  | .fxRcp _ => []
  | .fxRsqrt _ => []
  | .fxSin _ => []
  | .fxTanh _ => []
  | .fxLut _ => []
  | .agRd _ _ => []
  | .agWr _ _ => []
  | .agRdfe _ _ => []
  | .agGather _ _ => []
  | .agRing _ _ => []
  | .agSurv _ _ => []
  | .qxQuant _ => []
  | .qxDeq _ => []
  | .qxBscale _ => []
  | .qxRound _ => []
  | .dlDelay _ => []
  | .dlPrime _ => []
  | .pmTrans _ => []
  | .pmBcast _ => []
  | .pmShuf _ => []
  | .pmPack _ => []
  | .pmUnpack _ => []
  | .smSel _ => []
  | .smMerge _ => []
  | .smSplit _ => []
  | .smFilter _ => []
  | .smConst _ => []
  | .rnRngBits _ => []
  | .rnRngBern _ => []
  | .gtEntry _ => []
  | .gtExit _ => []
  | .gtBound _ => []
  | .gtAcq _ => []
  | .ptCtlin _ => []
  | .ptSink _ => []
  | .ptEreq _ => []
  | .ptErsp _ => []
  | .ptTrig _ => []
  | .fetchAndDecodeFault _ _ => []
  | .peerRequestArrival _ _ _ => []
  | .communicatorFormation _ _ _ _ => []
  | .reductionTreeDissolved => []
  | .isaudLinkReconnect => []
  | .powerLoss => []
  | .mgcRequest _ => []
  | .fieldSoftError _ _ => []
  | .pacerRegisterSoftError _ => []

/-- The bytes of an instruction, lowest address first (R203). -/
def encode (i : Instr) : List Byte := (encodeWords i).flatMap wordBytes

/-- The instruction that the decoder reads from an instruction whose bits are w, numbered from the first word; bits from nbits up are
zero (two words are laid out, the longest instruction's length). -/
def decodeTableWord (nbits w : Nat) : Option Instr :=
  let v := w % 2 ^ nbits
  match decode (wordBytes v ++ wordBytes (v / 2 ^ 32)) with
  | .ok (i, _) => some i
  | .error _ => none

end Sys2Proof
end

