-- ==== Sys2Proof/Machine/Map.lean ====
section
/-! DEFINITION. Finite maps from numbers, held as lists of pairs with rising keys, and sets of numbers as rising lists. The State
holds its numbered units (regions, queues, tasks, slots …) in these, so that it stays plain data. -/

namespace Sys2Proof.Machine

/-- A map from numbers to records: pairs with rising keys. -/
abbrev AMap (α : Type) := List (Nat × α)

/-- The record with key k, if there is one. -/
def AMap.find {α : Type} : AMap α → Nat → Option α
  | [], _ => none
  | (j, v) :: m, k => if k = j then some v else AMap.find m k

/-- The record with key k, or d. -/
def AMap.findD {α : Type} (m : AMap α) (k : Nat) (d : α) : α := (AMap.find m k).getD d

/-- The map with key k set to v. -/
def AMap.put {α : Type} : AMap α → Nat → α → AMap α
  | [], k, v => [(k, v)]
  | (j, w) :: m, k, v =>
    if k < j then (k, v) :: (j, w) :: m
    else if k = j then (k, v) :: m
    else (j, w) :: AMap.put m k v

/-- The map without key k. -/
def AMap.del {α : Type} (m : AMap α) (k : Nat) : AMap α := List.filter (fun p => p.1 != k) m

/-- Every record changed by f. -/
def AMap.mapV {α : Type} (m : AMap α) (f : α → α) : AMap α := List.map (fun p => (p.1, f p.2)) m

/-- k is in the rising list. -/
def NSet.has (s : List Nat) (k : Nat) : Bool := s.contains k

/-- The rising list with k. -/
def NSet.ins : List Nat → Nat → List Nat
  | [], k => [k]
  | j :: s, k => if k < j then k :: j :: s else if k = j then j :: s else j :: NSet.ins s k

/-- The rising list without k. -/
def NSet.del (s : List Nat) (k : Nat) : List Nat := s.filter (fun j => j != k)

/-- The rising list without the numbers of [lo, hi). -/
def NSet.delRange (s : List Nat) (lo hi : Nat) : List Nat := s.filter (fun j => !(lo ≤ j && j < hi))

end Sys2Proof.Machine
end

