-- ==== Sys2Proof/Machine/Records.lean ====
section
/-! DEFINITION. The records that the State is built from: capabilities, requests of the ordering machine, the Field's tokens,
links, elements and slots, the Pacer and the region, and the records of the module's units (MGC, queues, journal, Marshal, Podium,
Prefix Index, BTEs, derived regions, communicator). Chapters 1 to 9 and 12 to 14 of spec/. -/

namespace Sys2Proof.Machine

open Sys2Proof

/-! ## Capabilities -/

/-- A capability with its tag (R136). -/
structure Cap where
  tag : Bool
  perms : BitVec 7
  space : BitVec 3
  exp : BitVec 6
  len : BitVec 24
  boff : BitVec 24
  cursor : Word
deriving DecidableEq, Repr, Inhabited

/-- The null capability: all zero, untagged (R136). -/
def Cap.null : Cap :=
  { tag := false, perms := 0, space := 0, exp := 0, len := 0, boff := 0, cursor := 0 }

/-! ## Requests (R165 to R170) -/

/-- Who issued a request (R16, R165): a Pacer, a stream engine of a region for a slot (AG or EREQ), a BTE for a chunk of a
command, a BANK.MV command, a host thread, a peer, or a unit of IOD-A. -/
inductive Issuer where
  | pacer (r : Nat)
  | engine (r slot se : Nat)
  | elem (r slot e : Nat)
  | bte (cmd chunk : Nat)
  | bank (cmd : Nat)
  | host (thread : Nat)
  | peer (rank : Nat)
  | window (w : Nat)
  | iod
deriving DecidableEq, Repr, Inhabited

/-- Where a request stands (R165). -/
inductive Stage where
  | cq (r slot se : Nat)
  | rq (r : Nat)
  | dq (d : Nat)
  | pq
  | inHost (thread : Nat)
  | inPeer (rank : Nat)
  | rp (w : Nat)
deriving DecidableEq, Repr, Inhabited

/-- What a write does to the full/empty bit of its granule (R143, R239, R319). -/
inductive FeAct where
  | keep | setFull | setEmpty | waitEmpty
deriving DecidableEq, Repr, Inhabited

/-- What a request does at its port, as one transaction (R148, R167). A write carries (value, mask) for each byte; a writeDone is a whole
write whose issuer waits for its application (R284); who: the contributors of this device, with the addresses and stamps of their requests. -/
inductive Act where
  | read (n : Nat)
  | readFe (n : Nat) (take : Bool)
  | write (bs : List (Byte × Byte)) (fe : FeAct)
  | writeDone (bs : List Byte)
  | capRead
  | capWrite (bs : List Byte) (tag : Bool)
  | amo (op : AmoOp) (size : Nat) (v cmp : Word)
  | red (op : RedOp) (size : Nat) (rmode : BitVec 3) (v : Word)
  | redOrd (op : RedOp) (size : Nat) (rmode : BitVec 3) (v : Word) (rank n : Nat)
  | waitv (v : Word)
  | barInit (count : Nat)
  | barArrive (n : Nat)
  | barWait (g : Word)
  | barDrop
  | batonAlloc (scope : Nat)
  | batonAcq (region : Nat) (task : BitVec 32)
  | batonRel (region : Nat) (task : BitVec 32)
  | batonFree (region : Nat) (task : BitVec 32)
  | trigPost
  | derived (decl : Nat) (idxs : List Nat)
  | dsync (decls : List Nat)
  | claim (n : Nat)
  | orBit (bit : Nat)
  | failChunk (bit cause : Nat)
  | wred (rank e : Nat) (v : Word)
  | combined (e : Nat) (v : Word) (size : Nat) (who : List (Issuer × Word × Nat))
  | bankRow (cmd i : Nat)
deriving DecidableEq, Repr, Inhabited

/-- A request: its place in program order (stamp), when it was made, its port and the first byte it touches, the address that its issuer used,
the merging flag of its page, and whether it is a posted write of the host (R14, R149, R165, R178). -/
structure Req where
  stamp : Nat
  born : Nat
  issuer : Issuer
  stage : Stage
  port : Port
  key : Nat
  va : Word
  cmpr : Bool
  posted : Bool
  act : Act
deriving DecidableEq, Repr, Inhabited

/-- Whose request it is, with its stamp: of a merged result, the contributors of this device, whose requests it carries on (R180). -/
def Req.owners (q : Req) : List (Issuer × Nat) :=
  match q.act with
  | .combined _ _ _ who => who.map (fun w => (w.1, w.2.2))
  | _ => [(q.issuer, q.stamp)]

/-- A response on its way to the issuer (R167 RETURN). -/
structure Resp where
  stamp : Nat
  issuer : Issuer
  va : Word
  port : Port
  bytes : List Byte
  flag : Bool
  cause : Option Byte
deriving DecidableEq, Repr, Inhabited

/-! ## Derived regions (R153 to R162, R174) -/

/-- A maintenance entry of a port's queue, with the accepted reads that wait behind it (R157, R158, R174): the row or block, the
old code and the new code; or a rescan of that row or block. -/
inductive Maint where
  | entry (i : Nat) (old new : Nat)
  | rescan (i : Nat)
  | reply (stamp : Nat) (issuer : Issuer) (va : Word) (port : Port) (idxs : List Nat)
  | syncReply (stamp : Nat) (issuer : Issuer) (port : Port)
deriving DecidableEq, Repr, Inhabited

/-- The partial of one row, block or bin at one port (used: the port owns one of its elements): exact accumulator or
count, counters, extreme, staleness, whether a rescan met uncorrectable base data (bad), and whether the accumulator itself is uncorrectable
(spoilt) (R156 to R158, R161). -/
structure Partial where
  used : Bool
  x : Int
  nan : Nat
  pinf : Nat
  ninf : Nat
  ext : Option Nat
  stale : Bool
  bad : Bool
  spoilt : Bool
deriving DecidableEq, Repr, Inhabited

/-- A declaration of a derived region (R153 to R162): owner, base address, whether it lies in SRAM, the segments (first address, first
memory key, length) that its range occupied when it was declared, shape, view, and the partials and maintenance queue of each of its
ports (keyed by the port's number); viewTop: where its DVIEW capability ends (R155). -/
structure Decl where
  vd : Nat
  base : Nat
  sram : Bool
  segs : List (Nat × Nat × Nat)
  rows : Nat
  cols : Nat
  stride : Nat
  expr : Nat
  fmt : Nat
  blklog : Nat
  sfmt : Nat
  texp : Int
  nbin : Nat
  edges : List Nat
  view : Nat
  viewTop : Nat
  lost : Bool
  parts : AMap (List Partial)
  mq : AMap (List Maint)
deriving DecidableEq, Repr, Inhabited

/-! ## What a Pacer waits for -/

/-- What a Pacer instruction still does when its responses are there (R235, R256, R284). held: a stop waits for it once its transaction is
made (R131, R256). deferred: a fault that its port finds is a deferred store fault (R256). failed: a response has brought a fault, of the
request with that stamp (R235). view: of a declaration as it stood when the read was made, its ports' parts apart. -/
inductive Cont where
  | done
  | toX (d : XReg) (size : Nat) (signed : Bool)
  | toXX (d : XReg)
  | toC (d : CReg)
  | spawnClaim (d : XReg) (qid : Nat) (pkt : List Byte)
  | spawnBody (d : XReg) (q : Word) (qid : Nat) (last : List Byte)
  | spawnLast (d : XReg) (q : Word)
  | view (d : Decl) (off n : Nat) (k : Cont)
  | held (k : Cont)
  | deferred (k : Cont)
  | failed (stamp : Nat) (cause : Byte) (tval : Word) (k : Cont)
deriving DecidableEq, Repr, Inhabited

/-- Why the Pacer of a region issues nothing (R131, R235, R252). -/
inductive Wait where
  | none
  | resp (c : Cont) (ids : List Nat) (got : List (Nat × List Byte))
  | monitor (g : Nat)
  | poll
  | wfe (start : Nat)
  | snap (start : Nat)
deriving DecidableEq, Repr, Inhabited

/-! ## The Field (R98 to R121) -/

/-- A token: the values' codes in the link's format, one predicate bit each, the END bit, and the stamp of the newest request that
an AG of the producer's scope had made when the token entered its link (R99, R172). -/
structure Token where
  vals : List Nat
  live : List Bool
  last : Bool
  stamp : Nat
deriving DecidableEq, Repr, Inhabited

/-- An element word with its extension word (R107). -/
structure ElemWord where
  kind : Nat
  op : Nat
  mode : BitVec 12
  conA : BitVec 20
  conB : BitVec 20
  ext : Option Word
deriving DecidableEq, Repr, Inhabited

/-- A configuration block as the loader read it (R106). -/
structure Block where
  h0 : Word
  h1 : Word
  elems : List ElemWord
deriving DecidableEq, Repr, Inhabited

/-- A link: its two ends, its slot count, its format and its producer's, its predicate-carry flag, the tokens in its slots (oldest
first), the finished tokens of its router buffer, the token being packed, the count of values of the round that passed and the scale
tokens that the router has seen on the companion link and not used up (for a converting link of a scaled pair), and the tokens ahead of
a split marker, if one is on the link (R100, R103, R104, R135). -/
structure LinkSt where
  src : Nat
  out : Nat
  dst : Nat
  port : Nat
  slots : Nat
  fmt : Nat
  from_ : Nat
  pc : Bool
  q : List Token
  buf : List Token
  part : Option Token
  pos : Nat
  scl : List Token
  mark : Option Nat
deriving DecidableEq, Repr, Inhabited

/-- The state of one element: running values and accumulators (acc) with their predicates (accLive), counters (cnt), tokens held
inside (held) and tokens still to be emitted on output 0 and output 1 (out0, out1), the values being collected for each output
(col0, col1), the scales read and not yet used for ports 4 to 7 (scales), whether the element holds its new word after a
reconfiguration (taken), and the results in stages S1 to S6 of a VX, none for a stage without one; [] stands for six empty stages
(pipe). Which of these an operation uses is said at the operation (R111, R309). -/
structure ElemSt where
  acc : List Nat
  accLive : List Bool
  cnt : List Nat
  held : List Token
  out0 : List Token
  out1 : List Token
  col0 : List (Nat × Bool)
  col1 : List (Nat × Bool)
  scales : List (List (Nat × Bool))
  open_ : Bool
  taken : Bool
  pipe : List (Option Token)
deriving DecidableEq, Repr, Inhabited

/-- One load of a configuration into the Field: its slot, its block, its elements' state and its links, the capabilities that its PT
and GT elements copied at arm, whether the reconfiguration wave has closed it to new tokens, the tiles it has run (R111, R114), the rounds of its arm up to
which each engine still gives it tokens once it is closed (log 34), and the model's own number of this load. -/
structure Inst where
  slot : Nat
  block : Block
  elems : List ElemSt
  links : List LinkSt
  caps : List Cap
  closed : Bool
  tiles : Nat
  due : AMap Nat
  load : Nat
deriving DecidableEq, Repr, Inhabited

/-- The arm of a slot: tile count, tiles done, END tokens that each ENTRY engine has delivered into the Field under it, parameters, the
C registers as they stood at arm, whether the controller made it, and whether the Starter has decided at its expiry (R110, R111, R113, R119, R317). -/
structure Arm where
  total : Nat
  done : Nat
  ends : AMap Nat
  p0 : Word
  p1 : Word
  caps : List Cap
  tree : Bool
  decided : Bool
deriving DecidableEq, Repr, Inhabited

/-- A slot of the configuration cache (R110, R112, R113, R117). -/
structure Slot where
  stored : Bool
  store : Cap
  blkid : Nat
  crc : Nat
  block : Option Block
  arm : Option Arm
  passed : Nat
  ctl : AMap (List Word)
  ebb : Bool
deriving DecidableEq, Repr, Inhabited

/-- A round register: the shape record with its overrides, the copied capability, the base and the lane rotation offset (R317). -/
structure RoundReg where
  op : Nat
  mode : BitVec 12
  cap : Cap
  mfmt : Nat
  base : Word
  ext0 : Nat
  ext1 : Nat
  ext2 : Nat
  ext3 : Nat
  sd1 : Nat
  sd2 : Nat
  sd3 : Nat
  rot : Nat
deriving DecidableEq, Repr, Inhabited

/-- A parameter in a parameter queue: field, value, and how many rounds had been commanded before it (R116). -/
structure Parm where
  field : Nat
  value : Word
  after : Nat
deriving DecidableEq, Repr, Inhabited

/-- A stream engine's state for one slot (R113, R116). -/
structure EngSlot where
  reg : Option RoundReg
  entry : List Token
  parms : List Parm
  commanded : Nat
  started : Nat
  mark : Option Nat
deriving DecidableEq, Repr, Inhabited

/-- The mapping of a token of SURV positions (R94, R321): the positions that are left and whether their token carries END, the rows found for
those before them, which of its reads the engine makes for the first position left (0: the sequence descriptor's header, 1: the pool
descriptor, 2: the position's block, 3: the block's survivors), that read's granule requests and what they have returned, and the header, pool
and pool descriptor read so far. -/
structure Look where
  pos : List (Nat × Bool)
  last : Bool
  rows : List (Option (Word × Cap))
  phase : Nat
  ids : List Nat
  got : List (Nat × List Byte × Bool)
  hd : List Byte
  pool : Cap
  pd : List Byte
  blk : Nat
deriving DecidableEq, Repr, Inhabited

/-- The round an engine runs: slot, the round register in force, tokens visited, the tokens still to read or to store for the positions that
GATHER or SURV has mapped, the positions that SURV is mapping, granule stores made, and whether the round's END has been met (R115, R318 to
R321). -/
structure Round where
  slot : Nat
  reg : RoundReg
  i : Nat
  todo : List (Option (Word × Cap) × Bool)
  look : Option Look
  stores : Nat
  ended : Bool
deriving DecidableEq, Repr, Inhabited

/-- A token being read: its granules' stamps and bytes so far (R318). A token of zeros has no granule. -/
structure Fetch where
  slot : Nat
  ids : List Nat
  got : List (Nat × List Byte)
  zero : Bool
  last : Bool
  mfmt : Nat
deriving DecidableEq, Repr, Inhabited

/-- A request that an EREQ has put into ERQ: its slot, the capability copied at arm, and its token (R165, R173). -/
structure EngTok where
  slot : Nat
  cap : Cap
  tok : Token
deriving DecidableEq, Repr, Inhabited

/-- An engine request of a PT EREQ that its ERSP has not consumed, with its response when it is there (ERS; R173, R338); live: no value
that it depends on was dead (R294). -/
structure EngReq where
  slot : Nat
  stamp : Nat
  last : Bool
  live : Bool
  resp : Option Word
deriving DecidableEq, Repr, Inhabited

/-- A stream engine (R115). -/
structure Engine where
  slots : AMap EngSlot
  cmds : List (Nat × Nat)
  round : Option Round
  fetches : List Fetch
  erq : List EngTok
  ers : List EngReq
deriving DecidableEq, Repr, Inhabited

/-- A child of a controller node: an arm, or another node (R119, R262). -/
inductive CtlChild where
  | arm (slot tiles : Nat) (p0 p1 : Word)
  | node (id : Nat)
deriving DecidableEq, Repr, Inhabited

/-- The three kinds of controller node (R119). -/
inductive CtlKind where
  | seq | pipe | strm
deriving DecidableEq, Repr, Inhabited

/-- A controller node. -/
structure CtlNode where
  id : Nat
  kind : CtlKind
  depth : Nat
  iters : Nat
  kids : List CtlChild
deriving DecidableEq, Repr, Inhabited

/-- A child's progress in one iteration. -/
inductive KidSt where
  | waiting | running | ended
deriving DecidableEq, Repr, Inhabited

/-- One run of a node: the run and child of its parent that it belongs to, iterations started, and the iterations in flight. -/
structure CtlRun where
  id : Nat
  node : Nat
  parent : Option (Nat × Nat × Nat)
  next : Nat
  flight : List (Nat × List KidSt)
deriving DecidableEq, Repr, Inhabited

/-- The controller: nodes, the stack of open nodes (innermost first), the running tree's node runs and the next run id. -/
structure Ctl where
  nodes : List CtlNode
  stack : List Nat
  nextId : Nat
  runs : List CtlRun
  nextRun : Nat
deriving DecidableEq, Repr, Inhabited

/-- What SNAP.WAIT reports (R267). -/
inductive SnapStatus where
  | none | pending | done | failed
deriving DecidableEq, Repr, Inhabited

/-- The snapshot of a region: slot, buffer, recorded elements, inputs (element, port) that still owe a marker, tokens logged per
element, and the engines that still owe a marker (R135). -/
structure Snap where
  status : SnapStatus
  slot : Nat
  buf : Cap
  recorded : AMap ElemSt
  owed : List (Nat × Nat)
  logs : AMap (List (Nat × Token))
  exits : List Nat
deriving DecidableEq, Repr, Inhabited

/-! ## The Pacer and the region -/

/-- The Pacer's registers (R95, R96, R123, R126, R252). -/
structure Pacer where
  x : Vector Word 32
  c : Vector Cap 16
  k : Vector Word 8
  kValid : BitVec 8
  pcc : Cap
  epcc : Cap
  mask : Bool
  pmode : Bool
  mode : Bool
  epc : Word
  cause : Word
  tval : Word
  fpmode : Word
  taskid : Word
  dcyc : Word
  tvec : Word
  savebase : Word
  dbgctl : Word
  dbgiaddr : Word
  dbgdaddr : Word
  fltpend : Word
  sscr : Vector Word 10
  ev : BitVec 3
deriving DecidableEq, Repr, Inhabited

/-- What a region's Pacer is doing: held in reset (R23), fetching nothing (R125, R253), fetching, stopped at a boundary (R131), or
handed to the firmware by a trap of a task (R124). -/
inductive Run where
  | reset | off | on | stopped | firmware (cause : Byte)
deriving DecidableEq, Repr, Inhabited

/-- A pending Field, engine or deferred store fault (R127, R236); elem: the element that raised it and the fc in which it did. -/
structure Pend where
  cause : Byte
  tval : Word
  multi : Bool
  elem : Option (Nat × Nat)
deriving DecidableEq, Repr, Inhabited

/-- A region (R95 to R121). -/
structure Region where
  pacer : Pacer
  run : Run
  wait : Wait
  resetAt : Nat
  task : Option Nat
  rank : Nat
  stop : Option Byte
  stopHeat : Nat
  pend : Option Pend
  faulted : Bool
  frozen : Bool
  frozeAt : Option Nat
  haltedAt : Option (Nat × Word)
  cancelAt : Option Nat
  icache : AMap (List Byte)
  slots : AMap Slot
  engines : AMap Engine
  insts : List Inst
  ctl : Ctl
  snap : Snap
  tiles : Nat
  starve : Nat
  skipBrk : Bool
  stepDue : Bool
  dataBrk : Option Word
deriving DecidableEq, Repr, Inhabited

/-! ## Units of the module -/

/-- The boot states of R23. -/
inductive Boot where
  | power | link | waitImage | verify | load | init | ready | halted
deriving DecidableEq, Repr, Inhabited

/-- An MGC log record (R31, R32). -/
structure LogRec where
  source : BitVec 16
  code : BitVec 16
  value : Word
deriving DecidableEq, Repr, Inhabited

/-- A mailbox command that has been written and not completed (BUSY), with the arguments read at that write, and whether it was issued
outside its states (R28, R29). -/
structure MbxCmd where
  op : Nat
  tag : Byte
  a0 : Word
  a1 : Word
  wrong : Bool
deriving DecidableEq, Repr, Inhabited

/-- The MGC: boot state, mailbox, log, sensors, fuse counter, the LENGTH that the last IMAGE_GO gave, and measurements (R23 to R34). -/
structure Mgc where
  boot : Boot
  err : BitVec 8
  dropped : BitVec 16
  svnImage : BitVec 8
  svnFused : Nat
  arg0 : Word
  arg1 : Word
  arg2 : Word
  arg3 : Word
  cmd : Option MbxCmd
  tag : Byte
  status : Byte
  ringAddr : Option Nat
  ringCount : Nat
  logSeq : Nat
  logOld : List (LogRec × Nat × Nat)
  inlet : BitVec 32
  flow : BitVec 32
  lowered : Bool
  goLen : Nat
  imageHash : List Byte
  sectHash : List (List Byte)
deriving DecidableEq, Repr, Inhabited

/-- The journal registers (R56). -/
structure Journal where
  en : Bool
  log2j : Nat
  wr : Nat
  rd : Nat
  resv : Nat
  epoch : Word
deriving DecidableEq, Repr, Inhabited

/-- A gang hold, or a pre-emption (R69, R70): the task that regions are reserved for, those regions, and the tasks whose stop has been
requested and is not done. -/
structure Hold where
  task : Nat
  regions : List Nat
  victims : List Nat
deriving DecidableEq, Repr, Inhabited

/-- A virtual device (R50, R373) with its ready lists by priority, its aging counts (R68), its gang hold and
the reservations of its pre-emptions, of which at most one has a victim that has not stopped (R69, R70). -/
structure Vd where
  stopped : Bool
  groups : BitVec 32
  ptRoot : Nat
  slotSel : Nat
  hwBase : Nat
  hwLen : Nat
  assigned : Nat
  ready : List (List Nat)
  aging : List Nat
  hold : Option Hold
  pre : List Hold
deriving DecidableEq, Repr, Inhabited

/-- The states of a queue (R36). -/
inductive QState where
  | run | stalled | stopped | dead
deriving DecidableEq, Repr, Inhabited

/-- A packet that has been accepted and has no outcome yet: its sequence number, its 64 bytes, the capability-table entries it named
as they stood at its acceptance, the identifier of its entries (the task id of a LAUNCH, UTAG otherwise), and whether it has started (R43, R57,
R58). -/
structure Pkt where
  seq : Nat
  bytes : List Byte
  caps : List Cap
  taskId : Nat
  started : Bool
deriving DecidableEq, Repr, Inhabited

/-- A queue: the internal copy of its descriptor, its consumer's position, when its stall timer started, whether a STALL entry is held
back, whether a packet has been accepted on it, the control packets that destroy it, the accepted packets without an outcome, and the granules
of the slot at r that the consumer has read: the last one, then the others in order (R36, R38 to R40, R49, R57, R358). -/
structure Queue where
  vd : Nat
  kind : Nat
  log2n : Nat
  bte : Nat
  desc : Nat
  ring : Nat
  capt : Nat
  stall : Nat
  state : QState
  seqAt : Nat
  r : Nat
  waitFrom : Option Nat
  heldStall : Bool
  used : Bool
  destroying : List (Nat × Nat)
  pend : List Pkt
  seen : List (List Byte)
deriving DecidableEq, Repr, Inhabited

/-- The task states of R64. -/
inductive TaskState where
  | unlaunched | waiting | ready | running | frozen | cancelling | retired | faulted | cancelled | armed | runningTrig
deriving DecidableEq, Repr, Inhabited

/-- The Marshal's record of a task (R62, R64, R69, R71 to R74). queue: the queue and sequence number of its LAUNCH, none for a TCB bound
to a trigger, QID 0xFFF for a task restored from another module (R359). members: its regions by rank; retired: those that have executed
TASK.RETIRE; captured and saves: those whose context is saved, and where. since: when it was dispatched or became READY; halted: stopped by
VD.STOP. crossed: its cancel arrived in the fc of its dispatch; walked: a cascade has walked its list (R67). from_: the stamp at its last dispatch; left:
the stores that it left unapplied where it was frozen (R66, R319). fate and fcause: how it ends once its stores are done (0: it runs; otherwise the FATE of
R88). -/
structure Task where
  vd : Nat
  tcb : Cap
  queue : Option (Nat × Nat)
  entry : Cap
  sched : Word
  affinity : BitVec 256
  args : List Word
  c1 : Cap
  c2 : Cap
  st : TaskState
  members : List Nat
  retired : List Nat
  captured : List Nat
  saves : List Nat
  since : Nat
  halted : Bool
  cancel : Bool
  crossed : Bool
  walked : Bool
  from_ : Nat
  left : List Nat
  fate : Nat
  fcause : Nat
  grace : Option (Nat × Nat)
  runs : Nat
  unbind : Bool
  ordinal : Nat
  tiles : Nat
deriving DecidableEq, Repr, Inhabited

/-- A cancel that the arbiter has not committed (R71): its task, the fc in which it arrived, the heat that sent it with its GRACE (R84), and
whether a cascade brought it (R67). -/
structure Cancel where
  task : Nat
  at_ : Nat
  grace : Option (Nat × Nat)
  casc : Bool
deriving DecidableEq, Repr, Inhabited

/-- The states of a heat (R88). -/
inductive HeatState where
  | open_ | decided | tied | noanswer | abandoned
deriving DecidableEq, Repr, Inhabited

/-- The Podium's record of a sibling (R78, R88). -/
structure Sibling where
  taskId : Option Nat
  hash : Option Word
  late : Bool
  slot : Nat
  fate : Nat
  tstate : Nat
  relfault : Bool
  tokens : Nat
  released : Nat
  tiles : Nat
  sqd : Option Cap
  settled : Bool
  final : Bool
deriving DecidableEq, Repr, Inhabited

/-- An open heat (R78); postAt: the fc of the last post applied and the sibling that posted (R80). -/
structure Heat where
  vd : Nat
  n : Nat
  q : Nat
  grace : Nat
  rec_ : Cap
  st : HeatState
  win : Word
  decider : Nat
  table : List (Word × Nat × Nat)
  sibs : List Sibling
  done : Bool
  closing : Bool
  postAt : Option (Nat × Nat)
deriving DecidableEq, Repr, Inhabited

/-- A node of the Prefix Index (R90): its whole path of token ids, its block and the pool capability it was inserted with, and when
it was last matched. -/
structure IdxNode where
  vd : Nat
  pool : Cap
  model : BitVec 32
  path : List (BitVec 32)
  block : Nat
  used : Nat
deriving DecidableEq, Repr, Inhabited

/-- What a chunk is waiting for (R47, R48, R152): its reads, its writes, the OR of its bit, or the record of its failure. -/
inductive ChunkPhase where
  | reading | writing | bit | failing
deriving DecidableEq, Repr, Inhabited

/-- A chunk in flight: its phase, the stamps of its read requests in order with the bytes returned so far, the stamps of its write
requests (then of its completion request) that have not been answered, and the first failure met (R47, R48, R130). -/
structure ChunkIo where
  phase : ChunkPhase
  reads : List Nat
  got : List (Nat × List Byte)
  writes : List Nat
  cause : Option Nat
deriving DecidableEq, Repr, Inhabited

/-- A BTE command: the queue and sequence, or the region, it came from, its BTE, mode, capabilities with their cursors set, shape,
completion object, chunks still to start, chunks in flight, failures, the class-1 and class-2 causes behind the failures with 0x68 and 0x69
(detail; R122, R373), and whether it has started (R47, R48, R270, R271). -/
structure Bte where
  queue : Option (Nat × Nat)
  region : Nat
  vd : Nat
  sup : Bool
  bte : Nat
  mode : Nat
  resume : Bool
  src : Cap
  dst : Cap
  cmpl : Cap
  rowlen : Nat
  rows : Nat
  sstride : Nat
  dstride : Nat
  value : Word
  firstbit : Nat
  started : Bool
  todo : List Nat
  flight : AMap ChunkIo
  failed : List (Nat × Nat)
  detail : AMap Nat
  landed : List Nat
  after : Nat
  scope : Option Nat
  body : List Byte
  stopped : Bool
deriving DecidableEq, Repr, Inhabited

/-- A BANK.MV command (R163, R164, R273): its region, its virtual device (32: supervisor code on a region that none owns), its
capabilities, its shape, the stamp and scope of its release, the rows computed, the failed rows with their causes, and, once every row has been
computed and may be written, the granule writes of its output that are still to come: key, merging and bytes (R179). -/
structure Bank where
  region : Nat
  vd : Nat
  w : Cap
  xv : Cap
  y : Cap
  cmpl : Cap
  bar : Cap
  k : Nat
  wfmt : Nat
  bit : Nat
  first : Nat
  count : Nat
  after : Nat
  scope : Option Nat
  vals : AMap Nat
  fails : AMap Nat
  put : Option (List (Nat × Bool × List Byte))
deriving DecidableEq, Repr, Inhabited

/-- An ordered group open at a port (R276). -/
structure Group where
  key : Nat
  n : Nat
  next : Nat
  held : List (Nat × Req)
deriving DecidableEq, Repr, Inhabited

/-- A baton slot at a port: its granule and the acquirers that wait, oldest first (R143, R280). -/
structure Baton where
  key : Nat
  slot : Nat
  fifo : List Req
deriving DecidableEq, Repr, Inhabited

/-- A committed trigger binding: the granule and the bound task (R73). -/
structure Trig where
  key : Nat
  task : Nat
deriving DecidableEq, Repr, Inhabited

/-- An open reduction window with the contributions that have not been combined (R180, R277). -/
structure Window where
  n : Nat
  ranks : List ((Nat × Nat) × Nat)
  op : Nat
  fmt : Nat
  rmode : BitVec 3
  elems : Nat
  home : Nat
  completion : Nat
deriving DecidableEq, Repr, Inhabited

/-- The communicator (R21, R277): this device's rank, its size, the port of each peer's path, whether its tree stands, and the port that
has failed (true: port 1) with the stamp of the first request made after that (R22). -/
structure Comm where
  rank : Nat
  size : Nat
  paths : List (Nat × Bool)
  treeUp : Bool
  moved : Option (Bool × Nat)
deriving DecidableEq, Repr, Inhabited

/-- A page-table entry held by an agent's cache (R145). -/
structure TlbEntry where
  vd : Nat
  va : Nat
  level : Nat
  pte : Word
deriving DecidableEq, Repr, Inhabited

/-- A TLBI that has not been followed by a completed TLBSYNC: issuer, virtual device, range of 64 KiB pages (none: all), and, once the issuer's TLBSYNC
has found its own stores applied, the stamp of the next request then: what has been made since uses no old entry (R145, R178). -/
structure Inval where
  region : Nat
  vd : Nat
  range : Option (Nat × Nat)
  stamp : Option Nat
deriving DecidableEq, Repr, Inhabited

/-- A completion that the host receives: thread, status OK or UNSUPPORTED, and the bytes returned (R14, R17). -/
structure HostResp where
  thread : Nat
  ok : Bool
  bytes : List Byte
deriving DecidableEq, Repr, Inhabited

/-- A non-posted host request whose completion its thread has not consumed: the issuing thread, its requests' stamps, what has come back,
and whether the device took it (false: its completion is UNSUPPORTED) (R14, R16, R17). -/
structure HostOp where
  thread : Nat
  ids : List Nat
  got : List (Nat × Option (List Byte))
  ok : Bool
deriving DecidableEq, Repr, Inhabited

/-- What befalls the module in the fc before a turn, from causes that no rule lets a unit decide (log 77): data or metadata of a granule
becomes uncorrectable (R8, R130), so does the exact accumulator of one row, block or bin of a declaration at a port (R161), the sectors of a chunk
reach their BTE spoilt (R122, 0x6D), the next clear or scrub of a region fails (R134), and a request of this device is refused beyond
its link, or meets a protocol error there (R122, class 11). The host offers a write with completion (R14). Supervisor firmware sets SAVEBASE of a
region (R126, R132; log 26), and another module of this kind makes the i-th of its images, whose bytes may then come in a save area (R132, R362;
log 10). -/
inductive Event where
  | badData (granule : Nat)
  | badMeta (granule : Nat)
  | badAccumulator (decl port i : Nat)
  | badSectors (cmd chunk : Nat)
  | clearFails (region : Nat)
  | refused (stamp : Nat)
  | protocolError (stamp : Nat)
  | hostWrite (w : HostWrite)
  | saveBase (region : Nat) (base : Word)
  | image (module i : Nat) (field : Region)
deriving DecidableEq, Repr, Inhabited

/-- One turn of the agenda: the fc that pass first, what befalls the module in them, the region whose turn it is, and the step taken
(none: its Pacer's turn). -/
structure Turn where
  fc : Nat
  events : List Event := []
  region : Nat
  act : Option Instr
deriving DecidableEq, Repr, Inhabited

end Sys2Proof.Machine
end

