-- ==== Sys2Proof/Machine/Caps.lean ====
section
/-! DEFINITION. Byte order (R3) and capabilities: packing, bounds, checks and derivations (R136 to R141, R242 to R247). -/

namespace Sys2Proof.Machine

open Sys2Proof

/-! ### Bytes -/

/-- The number that bytes hold, lowest address first (R3). -/
def leNat : List Byte → Nat
  | [] => 0
  | b :: bs => b.toNat + 256 * leNat bs

/-- The low n bytes of a number, lowest address first (R3). -/
def leBytes : Nat → Nat → List Byte
  | 0, _ => []
  | n + 1, v => BitVec.ofNat 8 v :: leBytes n (v / 256)

/-- Bits [lo + n − 1 : lo] of a number. -/
def bitsOf (v lo n : Nat) : Nat := v / 2 ^ lo % 2 ^ n

/-- The bytes of a list from index i, n of them, zero beyond the end. -/
def sliceOf (bs : List Byte) (i n : Nat) : List Byte := (bs.drop i).take n ++ List.replicate (n - ((bs.drop i).take n).length) 0

/-- The number in n bytes at index i. -/
def fieldLe (bs : List Byte) (i n : Nat) : Nat := leNat (sliceOf bs i n)

/-! ### Layout (R136) -/

/-- Bits [127:64]. -/
def Cap.hi (c : Cap) : Word := c.perms ++ c.space ++ c.exp ++ c.len ++ c.boff

/-- The 16 bytes of a capability. -/
def Cap.bytes (c : Cap) : List Byte := leBytes 8 c.cursor.toNat ++ leBytes 8 c.hi.toNat

/-- A capability from 16 bytes and a tag. -/
def Cap.ofBytes (bs : List Byte) (tag : Bool) : Cap :=
  let lo := leNat (bs.take 8)
  let hi := leNat ((bs.drop 8).take 8)
  { tag := tag, perms := BitVec.ofNat 7 (hi / 2 ^ 57), space := BitVec.ofNat 3 (hi / 2 ^ 54), exp := BitVec.ofNat 6 (hi / 2 ^ 48),
    len := BitVec.ofNat 24 (hi / 2 ^ 24), boff := BitVec.ofNat 24 hi, cursor := BitVec.ofNat 64 lo }

/-! ### Permissions, in the order of bits [127:121] -/

def permLoad : Nat := 1
def permStore : Nat := 2
def permTgload : Nat := 4
def permTgstore : Nat := 8
def permExec : Nat := 16
def permAtomic : Nat := 32
def permEngine : Nat := 64

/-- Every permission of the mask is present. -/
def Cap.has (c : Cap) (p : Nat) : Bool := c.perms.toNat &&& p == p

/-! ### Bounds (R137) -/

def Cap.base (c : Cap) : Int := ((c.cursor.toNat / 2 ^ c.exp.toNat : Nat) - (c.boff.toNat : Int)) * (2 ^ c.exp.toNat : Nat)
def Cap.top (c : Cap) : Int := c.base + c.len.toNat * (2 ^ c.exp.toNat : Nat)

/-- The cursor lies in the Window (R137). -/
def Cap.inWindow (c : Cap) (cursor : Nat) : Bool :=
  decide (c.base ≤ cursor) && decide ((cursor : Int) < c.base + (2 ^ (c.exp.toNat + 24) : Nat))

/-- c with a new cursor (R138): the tag is kept only inside the Window, and BOFF is the new distance modulo 2^24. -/
def Cap.withCursor (c : Cap) (cursor : Word) : Cap :=
  let g := 2 ^ c.exp.toNat
  let d : Int := (cursor.toNat / g : Nat) - c.base / (g : Nat)
  { c with cursor := cursor, boff := BitVec.ofInt 24 d, tag := c.tag && c.inWindow cursor.toNat }

/-! ### Access kinds and checks (R122, R137, R139, R141) -/

def kindRead : Nat := 0
def kindWrite : Nat := 1
def kindExec : Nat := 2
def kindAtomic : Nat := 3

/-- The width of a space's addresses (R139). -/
def spaceWidth (sp : Nat) : Nat :=
  match sp with
  | 0 => 64
  | 1 => 24
  | 2 => 32
  | 3 => 48
  | 4 => 48
  | 5 => 56
  | 6 => 32
  | _ => 48

/-- Tag, bounds and permissions of an access of n bytes at a, against the bounds that c's own cursor gives (R137, R234). -/
def Cap.checkRaw (c : Cap) (a n perms kind : Nat) : Option Byte :=
  if !c.tag then some (BitVec.ofNat 8 (0x10 + kind))
  else if decide ((a : Int) < c.base) || decide (c.top < ((a + n : Nat) : Int)) then some (BitVec.ofNat 8 (0x14 + kind))
  else if !c.has perms then some (BitVec.ofNat 8 (0x18 + kind))
  else none

/-- CapCheck (R216): the space and the address in it of n bytes at a, or the class-1 cause of the first failing check. -/
def Cap.check (c : Cap) (a n perms kind : Nat) : Except Byte (Nat × Nat) :=
  match c.checkRaw a n perms kind with
  | some f => .error f
  | none =>
    if c.space == 0 then
      let w := a / 2 ^ 56
      if (a + n - 1) / 2 ^ 56 != w then .error 0x1F
      else
        let x := a % 2 ^ 56
        if w == 0 || w > 7 || x + n > 2 ^ spaceWidth w then .error (BitVec.ofNat 8 (0x14 + kind))
        else .ok (w, x)
    else if a + n > 2 ^ spaceWidth c.space.toNat then .error (BitVec.ofNat 8 (0x14 + kind))
    else .ok (c.space.toNat, a)

/-- CapCheck at the capability's own cursor. -/
def Cap.checkHere (c : Cap) (n perms kind : Nat) : Except Byte (Nat × Nat) := c.check c.cursor.toNat n perms kind

/-! ### Derivations -/

/-- The least E with L < 2^(E + 24), from e up. -/
def leastExp (l : Nat) : Nat → Nat → Nat
  | 0, e => e
  | fuel + 1, e => if l < 2 ^ (e + 24) then e else leastExp l fuel (e + 1)

/-- A capability of a space over [base, base + len), with its cursor at base, if the format can represent it exactly (R43, R138). -/
def Cap.root (space perms base len : Nat) : Option Cap :=
  let e := leastExp len 41 0
  if base % 2 ^ e != 0 || (base + len) % 2 ^ e != 0 || base + len > 2 ^ 64 || e > 40 then none
  else some { tag := true, perms := BitVec.ofNat 7 perms, space := BitVec.ofNat 3 space, exp := BitVec.ofNat 6 e,
              len := BitVec.ofNat 24 (len / 2 ^ e), boff := 0, cursor := BitVec.ofNat 64 base }

/-- CSETB (R244): the narrowed capability, or the cause. -/
def Cap.setBounds (c : Cap) (l : Nat) : Except Byte Cap :=
  let b := c.cursor.toNat
  if !c.tag then .error 0x10
  else if decide ((b : Int) < c.base) || decide (c.top < ((b + l : Nat) : Int)) then .error 0x1C
  else
    let e := leastExp l 41 0
    if b % 2 ^ e != 0 || (b + l) % 2 ^ e != 0 then .error 0x1D
    else .ok { c with exp := BitVec.ofNat 6 e, boff := 0, len := BitVec.ofNat 24 (l / 2 ^ e), tag := true }

/-- The fields that CGET reads (R246). -/
def Cap.field (c : Cap) (f : Nat) : Word :=
  match f with
  | 0 => c.cursor
  | 1 => BitVec.ofInt 64 c.base
  | 2 => if c.top ≥ (2 ^ 64 : Nat) then BitVec.allOnes 64 else BitVec.ofInt 64 c.top
  | 3 => if c.top - c.base ≥ (2 ^ 64 : Nat) then BitVec.allOnes 64 else BitVec.ofInt 64 (c.top - c.base)
  | 4 => BitVec.ofNat 64 c.perms.toNat
  | 5 => BitVec.ofNat 64 c.space.toNat
  | 6 => BitVec.ofInt 64 ((c.cursor.toNat : Int) - c.base)
  | _ => BitVec.ofNat 64 c.exp.toNat

end Sys2Proof.Machine
end

