-- ==== Sys2Proof/Config.lean ====
section
/-! DEFINITION. What one module fixes and the spec leaves open, and the values that the spec leaves free. Every constant here is
opaque: it has no body, so nothing can be proved about its value. Each has a row in the assumption log. -/

namespace Sys2Proof

open Sys2Proof.Machine

/-- A free 64-bit value, one per reading of the State's counter (log 3). -/
opaque Config.freeWord : Nat → Word
/-- A free byte (log 3). -/
opaque Config.freeByte : Nat → Byte
/-- The fused security version counter at manufacture or later: a count from 0 to 64 (R26, log 6). -/
opaque Config.fusedSvn : Fin 65
/-- The fused SHA-256 hash of the image-signing key, byte by byte (R25, log 6). -/
opaque Config.keyHash : Nat → Byte
/-- The fused private identity key, less 1 and modulo the order of P-256 less 1 (R33, R34, log 6). -/
opaque Config.idSecret : Nat
/-- The silicon stepping less 1, so that steppings run from 1 (R34, log 6). -/
opaque Config.stepping : Fin 65535
/-- The first per-message secret number that the root of trust tries for a signature over a hash, in the form of Config.idSecret (log 6). -/
opaque Config.signNonce : List Byte → Nat
/-- The value that SHUF selects outside a token of fewer than 256 values, by the token's values and the index (R328, log 38). -/
opaque Config.outside : List Nat → Nat → Word
/-- What a sensor reads at a reading of the State's counter (R30, log 3). -/
opaque Config.sensor : Nat → Nat → BitVec 32
/-- A draw of the root of trust's random-number source (R56, log 7). -/
opaque Config.epochDraw : Nat → Word
/-- The firmware code capability of R123, to whose cursor TVEC is written (log 8). -/
opaque Config.fwCode : Cap
/-- The classes of slot tables 1 to 15 of the configuration loader tables section, by table and entry, and of the table of each CHU (R146, log 9). -/
opaque Config.slotClass : Nat → Nat → Fin 5
opaque Config.chuClass : Nat → Nat → Fin 5
/-- The form of a region's Field image beyond the 16 bytes that tell images apart: byte i of image n, and its length; and the number that those
16 bytes start from (R132, log 10). -/
opaque Config.imageByte : Nat → Nat → Byte
opaque Config.imageLen : Nat → Nat
opaque Config.imageTag : Nat
/-- The region that bytes stand for which are no module's image (R132, log 10). -/
opaque Config.imageOf : List Byte → Region
/-- The virtual device through whose tables the Celcen inbound port translates a peer's requests, by the peer's rank (R20, R145). -/
opaque Config.peerVd : Nat → Nat
/-- The number of compression sectors is never visible (R149); the governor's budgets in mW are free (R32, log 3). -/
opaque Config.budget : Nat → Word

end Sys2Proof
end

