-- ==== Sys2Proof/Machine/State.lean ====
section
/-! DEFINITION. The State of the machine as plain data, the reasons a step can stop, and the state after reset. Everything the
spec gives the machine is here: the module's units, the queues of the ordering machine, memory with its granule metadata, and the
256 regions (one default record stands for a region that nothing has touched). The first block of fields is the model's own:
it says whose turn it is and supplies free values. -/

namespace Sys2Proof.Machine

open Sys2Proof

/-- The reasons a step can stop. -/
inductive Fault where
  /-- Raised by Machine.step when the agenda asks for a Pacer instruction as a turn of its own, which only a fetch may supply. Safe:
  no such turn exists in the hardware. -/
  | agendaIllFormed
deriving DecidableEq, Repr

/-- The reasons for which a step has no meaning. -/
inductive Refusal where
  /-- Answered by Machine.exec for an instruction whose meaning has not been written. Safe: nothing is claimed of it. -/
  | notModelled (mnemonic : String)
deriving DecidableEq, Repr

/-- The machine. -/
structure State where
  /-- The turns that the surroundings and the units' timing choose; empty: the next turn is chosen by Machine.Schedule (log 1). -/
  agenda : List Turn
  /-- The region whose turn it is (log 1). -/
  cur : Nat
  /-- The fc that have passed since the module last entered POWER (R2). -/
  now : Nat
  /-- The counter of free values (log 3). -/
  free : Nat
  /-- The stamp of the next request (R165). -/
  stamp : Nat
  /-- Whether agents keep page-table entries in their caches (R145, log 4). -/
  tlbOn : Bool
  /-- Whether the instruction cache keeps lines (R97, log 4). -/
  icacheOn : Bool
  /-- The bytes of every space, keyed as Machine.Memory says, in canonical form. -/
  mem : List Host.Cell
  /-- Granules (key / 16) whose tag is set (R140). -/
  tags : List Nat
  /-- SRAM granules whose full/empty bit is full (R143). -/
  full : List Nat
  /-- Granules whose live-sync bit is set (R143). -/
  live : List Nat
  /-- Granules whose data is uncorrectable (R8, R130). -/
  bad : List Nat
  /-- Granules whose metadata (tag, full/empty, live-sync) is uncorrectable (R122, class 3). -/
  badMeta : List Nat
  /-- Regions whose next launch clear or scrub fails (R134, log 77). -/
  clearBad : List Nat
  /-- The slot tables of the memory ports, 32 classes each, by port number (R146). -/
  slotTables : AMap (List Nat)
  /-- HBM blocks (key / 2048) whose merge flag is set (R149). -/
  merge : List Nat
  /-- Physical 64 KiB pages of HBM (key / 65536) whose dirty bit is set (R52). -/
  dirty : List Nat
  /-- Cached page-table entries (R145). -/
  tlb : List TlbEntry
  /-- TLBIs that a TLBSYNC has still to complete (R145, R178). -/
  invals : List Inval
  mgc : Mgc
  jnl : Journal
  vds : AMap Vd
  /-- The virtual device that the Marshal served last (R68). -/
  lastVd : Nat
  /-- The virtual device that last owned each region group (R51). -/
  owners : AMap Nat
  queues : AMap Queue
  tasks : AMap Task
  /-- Cancels that the arbiter has not committed, oldest first (R71). -/
  cancels : List Cancel
  /-- The fc in which the arbiter last committed a cancel of a task that could be dispatched (R71). -/
  cancelledAt : Option Nat
  /-- The fc of the Marshal's last dispatch (R68). -/
  decidedAt : Option Nat
  heats : AMap Heat
  index : List IdxNode
  btes : AMap Bte
  /-- The queue that each BTE took its last chunk from (R48). -/
  bteLast : AMap Nat
  banks : AMap Bank
  decls : AMap Decl
  groups : List Group
  batons : List Baton
  trigs : List Trig
  windows : AMap Window
  comm : Comm
  /-- Whether the Isaud link is up (R18). -/
  isaudUp : Bool
  /-- Whether each Celcen port is up (R22). -/
  celcen0Up : Bool
  celcen1Up : Bool
  /-- Compute dies whose die-to-die links cannot recover (R122). -/
  deadDies : List Nat
  /-- Peers that were reset (R122). -/
  deadPeers : List Nat
  /-- The requests of the ordering machine, oldest first in every FIFO (R165). -/
  reqs : List Req
  resps : List Resp
  /-- Stamps of requests whose responses are discarded when they arrive: those of abandoned instructions, and those that the Field of an
  ended task had made (R131, R133). -/
  dropped : List Nat
  /-- Host requests that wait for completions, oldest first (R14). -/
  hostOps : List HostOp
  /-- Completions that the host has received, oldest first (R14). -/
  hostResps : List HostResp
  /-- The write with completion that the host offers (R14, log 75). -/
  hostWrite : Option HostWrite
  regions : AMap Region
  /-- Which of the modules of its kind this one is: the model's own number, that tells their images apart (log 10). -/
  module : Nat
  /-- The Field images that FCAP has written here, and those of other modules that are known here, by number (R132, log 10). -/
  images : AMap Region
deriving DecidableEq, Repr

/-- The Pacer of a region that nothing has touched. STAT reads as supervisor mode: a region is released into firmware (R23); every
other register is zero (R96, R126; log 5). -/
def Pacer.reset : Pacer :=
  { x := Vector.replicate 32 0, c := Vector.replicate 16 Cap.null, k := Vector.replicate 8 0, kValid := 0,
    pcc := Cap.null, epcc := Cap.null, mask := false, pmode := false, mode := true, epc := 0, cause := 0, tval := 0,
    fpmode := 0, taskid := 0, dcyc := 0, tvec := 0, savebase := 0, dbgctl := 0, dbgiaddr := 0, dbgdaddr := 0, fltpend := 0,
    sscr := Vector.replicate 10 0, ev := 0 }

def Ctl.empty : Ctl := { nodes := [], stack := [], nextId := 0, runs := [], nextRun := 0 }

def Snap.empty : Snap :=
  { status := .none, slot := 0, buf := Cap.null, recorded := [], owed := [], logs := [], exits := [] }

/-- A region that nothing has touched: held in reset, with an empty Field (R23). -/
def Region.reset : Region :=
  { pacer := Pacer.reset, run := .reset, wait := .none, resetAt := 0, task := none, rank := 0, stop := none, stopHeat := 0,
    pend := none, faulted := false, frozen := false, frozeAt := none, haltedAt := none, cancelAt := none, icache := [], slots := [], engines := [], insts := [], ctl := Ctl.empty,
    snap := Snap.empty, tiles := 0, starve := 0, skipBrk := false, stepDue := false, dataBrk := none }

/-- The record of the entry to POWER: kind 0, code 0, with BOOT_STATE (R28, R31, R32). -/
def powerRecord (svn : Nat) : LogRec := { source := 0, code := 0, value := BitVec.ofNat 64 (svn % 256 * 2 ^ 12) }

/-- The MGC at entry to POWER (R23, R28, R31). -/
def Mgc.reset (svn : Nat) : Mgc :=
  { boot := .power, err := 0, dropped := 0, svnImage := 0, svnFused := svn, arg0 := 0, arg1 := 0, arg2 := 0, arg3 := 0, cmd := none,
    tag := 0, status := 0, ringAddr := none, ringCount := 0, logSeq := 1, logOld := [(powerRecord svn, 0, 0)], inlet := 0, flow := 0, lowered := false,
    goLen := 0, imageHash := [], sectHash := [] }

/-- The journal registers at entry to POWER with an epoch (R56). -/
def Journal.reset (epoch : Word) : Journal := { en := false, log2j := 12, wr := 0, rd := 0, resv := 0, epoch := epoch }

def Comm.reset : Comm := { rank := 0, size := 1, paths := [], treeUp := false, moved := none }

/-- The module right after power-up: the MGC at POWER, every region held in reset, memory with nothing listed, no queue, no task,
no virtual device (R23, R24, R56). -/
def State.reset : State :=
  { agenda := [], cur := 0, now := 0, free := 0, stamp := 0, tlbOn := false, icacheOn := false,
    mem := [], tags := [], full := [], live := [], bad := [], badMeta := [], clearBad := [], slotTables := [], merge := [], dirty := [], tlb := [], invals := [],
    mgc := Mgc.reset Config.fusedSvn.val, jnl := Journal.reset (Config.epochDraw 0),
    vds := [], lastVd := 31, owners := [], queues := [], tasks := [], cancels := [], cancelledAt := none, decidedAt := none, heats := [], index := [], btes := [], bteLast := [], banks := [], decls := [],
    groups := [], batons := [], trigs := [], windows := [], comm := Comm.reset, isaudUp := false, celcen0Up := true, celcen1Up := true,
    deadDies := [], deadPeers := [], reqs := [], resps := [], dropped := [], hostOps := [], hostResps := [], hostWrite := none, regions := [], module := 0, images := [] }

/-! ### Regions -/

/-- The record of region r. -/
def State.region (s : State) (r : Nat) : Region := AMap.findD s.regions r Region.reset

/-- s with the record of region r set. -/
def State.setRegion (s : State) (r : Nat) (g : Region) : State := { s with regions := AMap.put s.regions r g }

/-- The record of the region whose turn it is. -/
def State.reg (s : State) : Region := s.region s.cur

/-- s with the record of the region whose turn it is set. -/
def State.setReg (s : State) (g : Region) : State := s.setRegion s.cur g

end Sys2Proof.Machine
end

