-- ==== Sys2Proof/Machine/Memory.lean ====
section
/-! DEFINITION. Memory: one list of (key, byte) pairs for every space, in canonical form; keys of the spaces; ports; the metadata of
granules and blocks (R139, R140, R142, R143, R149, R52). An unlisted key reads as 0 (log 11). -/

namespace Sys2Proof.Machine

open Sys2Proof

/-! ### Keys -/

/-- The key of an SRAM address (R7), of a physical HBM address (R9; modulo 512 GiB, log 14), of a HOST address, of a PEER address and of an offset
in the supervisor aperture (R35). -/
def sramKey (a : Nat) : Nat := a
def hbmKey (pa : Nat) : Nat := 2 ^ 40 + pa % 2 ^ 39
def hostKey (a : Nat) : Nat := 2 ^ 50 + a
def peerKey (a : Nat) : Nat := 2 ^ 57 + a
def apKey (off : Nat) : Nat := 2 ^ 58 + off

def isSram (k : Nat) : Bool := k < 2 ^ 40
def isHbm (k : Nat) : Bool := 2 ^ 40 ≤ k && k < 2 ^ 50
def isPeer (k : Nat) : Bool := 2 ^ 57 ≤ k && k < 2 ^ 58

/-- The port that owns a key (R9, R142, R146). -/
def portOf (k : Nat) : Port :=
  if k < 2 ^ 40 then .bank (k / 2 ^ 24 % 256) (k / 2 ^ 10 % 4)
  else if k < 2 ^ 50 then .chu (k / 2 ^ 11 % 512)
  else if k < 2 ^ 57 then .host
  else if k < 2 ^ 58 then .peer ((k - 2 ^ 57) / 2 ^ 48)
  else .aperture

/-- The number of a port, for maps keyed by port. -/
def portNum : Port → Nat
  | .bank r g => 4 * r + g
  | .chu n => 1024 + n
  | .host => 2000
  | .peer r => 4000 + r
  | .rwin w => 5000 + w
  | .aperture => 2001

/-! ### Bytes -/

/-- The byte of a key (log 11: 0 where nothing is listed). -/
def Memory.get : List Host.Cell → Nat → Byte
  | [], _ => 0
  | (j, b) :: m, k => if k = j then b else Memory.get m k

/-- Memory with the byte of a key set, in canonical form. -/
def Memory.set : List Host.Cell → Nat → Byte → List Host.Cell
  | [], k, v => if v = 0 then [] else [(k, v)]
  | (j, b) :: m, k, v =>
    if k < j then (if v = 0 then (j, b) :: m else (k, v) :: (j, b) :: m)
    else if k = j then (if v = 0 then m else (k, v) :: m)
    else (j, b) :: Memory.set m k v

/-- Keys rise strictly and no listed byte is 0. -/
def Memory.wf : List Host.Cell → Bool
  | [] => true
  | [(_, b)] => b != 0
  | (j, b) :: (k, c) :: m => b != 0 && decide (j < k) && Memory.wf ((k, c) :: m)

/-- Memory without the keys of [lo, hi): they read 0. -/
def Memory.clear (m : List Host.Cell) (lo hi : Nat) : List Host.Cell := m.filter (fun p => !(decide (lo ≤ p.1) && decide (p.1 < hi)))

/-- n bytes from a key. -/
def State.rd (s : State) (k n : Nat) : List Byte := (List.range n).map (fun i => Memory.get s.mem (k + i))

/-- Bytes at consecutive keys, each under its mask: bits of the mask take the new value (R318). -/
def Memory.setMasked : List Host.Cell → Nat → List (Byte × Byte) → List Host.Cell
  | m, _, [] => m
  | m, k, (v, w) :: bs =>
    Memory.setMasked (if w = 0 then m else Memory.set m k ((Memory.get m k &&& ~~~w) ||| (v &&& w))) (k + 1) bs

def Memory.setBytes (m : List Host.Cell) (k : Nat) (bs : List Byte) : List Host.Cell :=
  Memory.setMasked m k (bs.map (fun b => (b, 0xFF)))

/-! ### Metadata -/

def State.tagAt (s : State) (k : Nat) : Bool := NSet.has s.tags (k / 16)
def State.fullAt (s : State) (k : Nat) : Bool := NSet.has s.full (k / 16)
def State.liveAt (s : State) (k : Nat) : Bool := NSet.has s.live (k / 16)
def State.badAt (s : State) (k : Nat) : Bool := NSet.has s.bad (k / 16)

/-- The granules touched by n bytes from a key. -/
def granulesOf (k n : Nat) : List Nat := if n = 0 then [] else (List.range ((k + n - 1) / 16 - k / 16 + 1)).map (· + k / 16)

/-- The set with, or without, a number. -/
def NSet.putB (t : List Nat) (k : Nat) (v : Bool) : List Nat := if v then NSet.ins t k else NSet.del t k

def State.setTag (s : State) (k : Nat) (v : Bool) : State := { s with tags := NSet.putB s.tags (k / 16) v }
def State.setFull (s : State) (k : Nat) (v : Bool) : State := { s with full := NSet.putB s.full (k / 16) v }
def State.setLive (s : State) (k : Nat) (v : Bool) : State := { s with live := NSet.putB s.live (k / 16) v }

/-- Dirty bits of the 64 KiB pages of HBM that n bytes from a key touch (R52). -/
def State.touch (s : State) (k n : Nat) : State :=
  if isHbm k && n != 0 then
    { s with dirty := NSet.ins (NSet.ins s.dirty ((k - 2 ^ 40) / 65536)) ((k + n - 1 - 2 ^ 40) / 65536) }
  else s

/-- The merge flag of the block of a key after a write through a page with CMPR = cmpr (R149). -/
def State.noteMerge (s : State) (k : Nat) (cmpr : Bool) : State :=
  if isHbm k then { s with merge := NSet.putB s.merge (k / 2048) cmpr } else s

/-- A write to the block merges: its page has CMPR = 1 or its merge flag is set, and it does not cover the whole block (R150). -/
def State.merges (s : State) (k n : Nat) (cmpr : Bool) : Bool :=
  isHbm k && (cmpr || NSet.has s.merge (k / 2048)) && !(k % 2048 == 0 && n == 2048)

/-- Any granule of the block of a key is uncorrectable (R150). -/
def State.blockBad (s : State) (k : Nat) : Bool := s.bad.any (fun g => g / 128 == k / 2048)

/-- Any granule that n bytes from a key touch is uncorrectable. -/
def State.anyBad (s : State) (k n : Nat) : Bool := (granulesOf k n).any (fun g => NSet.has s.bad g)

/-- The metadata of any granule that n bytes from a key touch is uncorrectable (R122, class 3). -/
def State.anyBadMeta (s : State) (k n : Nat) : Bool := (granulesOf k n).any (fun g => NSet.has s.badMeta g)

/-- The space of a key for class-3 causes: SRAM, HBM, HOST, PEER (R122). -/
def class3Row (k : Nat) : Nat := if isSram k then 0 else if isHbm k then 1 else if isPeer k then 3 else 2
def class3 (k access : Nat) : Byte := BitVec.ofNat 8 (0x30 + 4 * class3Row k + access)

/-- Bytes written at a key with the effects that every write has: tags cleared, dirty and merge flags kept, fresh check bits
(R52, R130, R140, R149). -/
def State.put (s : State) (k : Nat) (bs : List Byte) : State :=
  { (s.touch k bs.length) with
    mem := Memory.setBytes s.mem k bs,
    tags := s.tags.filter (fun g => !(granulesOf k bs.length).contains g),
    bad := s.bad.filter (fun g => !(granulesOf k bs.length).contains g),
    badMeta := s.badMeta.filter (fun g => !(granulesOf k bs.length).contains g) }

/-- A 64-bit word at a key. -/
def State.rdWord (s : State) (k : Nat) : Nat := leNat (s.rd k 8)
def State.putWord (s : State) (k v : Nat) : State := s.put k (leBytes 8 v)

/-- The granules of [lo, hi) become zero data with tag clear, FE empty and LS clear (R24, R134). -/
def State.scrub (s : State) (lo hi : Nat) : State :=
  { s with
    mem := Memory.clear s.mem lo hi, tags := NSet.delRange s.tags (lo / 16) (hi / 16), full := NSet.delRange s.full (lo / 16) (hi / 16),
    live := NSet.delRange s.live (lo / 16) (hi / 16), bad := NSet.delRange s.bad (lo / 16) (hi / 16),
    badMeta := NSet.delRange s.badMeta (lo / 16) (hi / 16) }

/-! ### Free values -/

/-- A free value and the state with the counter advanced (log 3). -/
def State.drawWord (s : State) : Word × State := (Config.freeWord s.free, { s with free := s.free + 1 })

/-- n free bytes. -/
def State.drawBytes (s : State) (n : Nat) : List Byte × State :=
  ((List.range n).map (fun i => Config.freeByte (s.free + i)), { s with free := s.free + n })

end Sys2Proof.Machine
end

