-- ==== Sys2Proof/Machine/Translate.lean ====
section
/-! DEFINITION. From a capability's space and address to a memory key: translation of HBM addresses (R144, R145), the host window
(R373), PEER and RWIN addresses (R122, R277), and who a region runs for. -/

namespace Sys2Proof.Machine

open Sys2Proof

/-- The virtual device that owns a region's group (R50). -/
def State.vdOf (s : State) (r : Nat) : Option Nat := (s.vds.find? (fun p => p.2.groups.getLsbD (r / 8))).map (·.1)

/-- What a translation is for: the access kinds of R144. -/
structure Use where
  write : Bool
  fetch : Bool
  any : Bool
deriving DecidableEq, Repr

def Use.read : Use := { write := false, fetch := false, any := false }
def Use.store : Use := { write := true, fetch := false, any := false }
def Use.exec : Use := { write := false, fetch := true, any := false }
def Use.redAny : Use := { write := true, fetch := false, any := true }

/-- Lowest address bit that indexes a level, and the number of index bits (R144). -/
def levelLo (l : Nat) : Nat := match l with | 0 => 34 | 1 => 29 | 2 => 21 | _ => 16
def levelBits (l : Nat) : Nat := match l with | 0 => 14 | 1 => 5 | 2 => 8 | _ => 5
/-- The alignment of the table of a level: its size (R144). -/
def tableAlign (l : Nat) : Nat := 8 * 2 ^ levelBits l

/-- A page-table entry as an agent reads it: from its cache, if agents keep caches and one holds it, else from memory; none where its
granule is uncorrectable. -/
def State.readPte (s : State) (vd level va tbl : Nat) : Option Nat :=
  let k := hbmKey (tbl + 8 * bitsOf va (levelLo level) (levelBits level))
  match if s.tlbOn then s.tlb.find? (fun e => e.vd == vd && e.level == level && e.va == va / 2 ^ levelLo level) else none with
  | some e => some e.pte.toNat
  | none => if s.badAt k then none else some (s.rdWord k)

/-- The faults of an entry in the order of R144, or the entry's physical address and whether it is a leaf. -/
def pteCheck (level pte : Nat) : Option (Nat × Bool) :=
  let pa := bitsOf pte 8 31 * 256
  let leaf := pte.testBit 1
  let ok := pte.testBit 0 && bitsOf pte 39 25 == 0 && bitsOf pte 6 2 == 0 && (leaf || level != 3)
    && pa % (if leaf then 2 ^ levelLo level else tableAlign (level + 1)) == 0
  if ok then some (pa, leaf) else none

/-- The walk from a table at a level (R144): the physical address, whether the page stores compressed, or the cause. -/
def State.walk (s : State) (vd va : Nat) (use : Use) (badCause : Byte) : Nat → Nat → Nat → Except Byte (Nat × Bool)
  | 0, _, _ => .error 0x20
  | fuel + 1, level, tbl =>
    match s.readPte vd level va tbl with
    | none => .error badCause
    | some pte =>
      match pteCheck level pte with
      | none => .error (BitVec.ofNat 8 (0x20 + level))
      | some (pa, leaf) =>
        if !leaf then s.walk vd va use badCause fuel (level + 1) pa
        else if use.write && !pte.testBit 2 then .error (BitVec.ofNat 8 (0x24 + level))
        else if use.fetch && !pte.testBit 5 then .error (BitVec.ofNat 8 (0x28 + level))
        else if use.any && !pte.testBit 4 then .error 0x2C
        else .ok (pa + va % 2 ^ levelLo level, pte.testBit 3)

/-- Translate (R144, R216): for a virtual device its tables; for supervisor accesses that no virtual device owns the address itself
(log 14). -/
def State.translate (s : State) (vd : Option Nat) (va : Nat) (use : Use) (badCause : Byte) : Except Byte (Nat × Bool) :=
  match vd with
  | none => .ok (va % 2 ^ 39, false)
  | some v =>
    match AMap.find s.vds v with
    | none => .error 0x20
    | some d => if va ≥ 2 ^ 48 then .error 0x20 else s.walk v va use badCause 4 0 d.ptRoot

/-- The entries that a walk reads, for an agent's cache (R145). -/
def State.walkEntries (s : State) (vd va : Nat) : Nat → Nat → Nat → List TlbEntry
  | 0, _, _ => []
  | fuel + 1, level, tbl =>
    match s.readPte vd level va tbl with
    | none => []
    | some pte =>
      { vd := vd, va := va / 2 ^ levelLo level, level := level, pte := BitVec.ofNat 64 pte } ::
        match pteCheck level pte with
        | some (pa, false) => s.walkEntries vd va fuel (level + 1) pa
        | _ => []

/-- The caches after a walk, where agents keep them. -/
def State.fillTlb (s : State) (vd : Option Nat) (va : Nat) : State :=
  match vd, s.tlbOn with
  | some v, true =>
    match AMap.find s.vds v with
    | some d => { s with tlb := s.tlb ++ (s.walkEntries v va 4 0 d.ptRoot).filter (fun e => !s.tlb.contains e) }
    | none => s
  | _, _ => s

/-- An issuer of this device. -/
def Issuer.here : Issuer → Bool
  | .host _ => false
  | .peer _ => false
  | .window _ => false
  | _ => true

/-- The request waits at the switches for a reduction window's other contributions. -/
def inRp (q : Req) : Bool := match q.stage with | .rp _ => true | _ => false

/-- The Celcen port (true: port 1) on which the communicator set the path to a port of the fabric; windows start on port 0 (log 64). -/
def State.formedPath (s : State) : Port → Option Bool
  | .peer r => (s.comm.paths.find? (·.1 == r)).map (·.2)
  | .rwin _ => some false
  | _ => none

/-- A request made before a port failed is still in flight on it (R22). -/
def State.drains (s : State) (failed : Bool) (stamp : Nat) : Bool :=
  s.reqs.any (fun q => q.issuer.here && decide (q.stamp < stamp) && !inRp q && s.formedPath q.port == some failed)

/-- The Celcen port that a path uses now: that of a failed port moves to the other once the requests in flight on it have been applied or
have faulted (R21, R22). -/
def State.pathOf (s : State) (p : Port) : Option Bool :=
  (s.formedPath p).map (fun b => match s.comm.moved with
    | some (failed, stamp) => if b == failed && !s.drains failed stamp then !b else b
    | none => b)

/-- The link that a PEER address uses (R21, R22): port 0 or 1, if the peer is in the communicator. -/
def State.peerPath (s : State) (rank : Nat) : Option Bool := s.pathOf (.peer rank)

/-- The region's window-table entry of an RWIN address (R277). -/
def State.windowAt (s : State) (a : Nat) : Option Window := AMap.find s.windows (a / 2 ^ 24)

/-- The key of n bytes at an address of a space, and whether their page stores compressed. sup: in supervisor mode the host window is
the whole HOST space (R373). -/
def State.keyOf (s : State) (r : Nat) (vd : Option Nat) (sup : Bool) (sp a n : Nat) (use : Use) (badCause : Byte) :
    Except Byte (Nat × Bool) :=
  match sp with
  | 1 => .ok (sramKey (r * 2 ^ 24 + a), false)
  | 2 => .ok (sramKey a, false)
  | 3 => s.translate vd a use badCause |>.map (fun p => (hbmKey p.1, p.2))
  | 4 =>
    let ok := sup || match vd.bind (AMap.find s.vds) with
      | some d => decide (d.hwBase ≤ a) && decide (a + n ≤ d.hwBase + d.hwLen)
      | none => false
    if ok then .ok (hostKey a, false) else .error 0x2D
  | 5 => if (s.peerPath (a / 2 ^ 48)).isSome then .ok (peerKey a, false) else .error 0x2E
  | _ => .ok (apKey a, false)

end Sys2Proof.Machine
end

