-- ==== Sys2Proof/Machine/Operands.lean ====
section
/-! DEFINITION. The operand forms of Pacer instructions: registers (R95, R205, R216), immediates (R212), the address of a memory
operand (R210, R234, R255), register blocks (R255) and the system registers (R96, R126, R196). -/

namespace Sys2Proof.Machine

open Sys2Proof

/-! ### Registers -/

/-- X(i): X0 reads as zero (R95). -/
def Pacer.rx (p : Pacer) (i : XReg) : Word := if i = 0 then 0 else p.x[i.toNat]'i.isLt
/-- X(i) := v: a write to X0 is discarded (R95). -/
def Pacer.wx (p : Pacer) (i : XReg) (v : Word) : Pacer := if i = 0 then p else { p with x := p.x.set i.toNat v i.isLt }
/-- C(i): C0 reads as the null capability (R95). -/
def Pacer.rc (p : Pacer) (i : CReg) : Cap := if i = 0 then Cap.null else p.c[i.toNat]'i.isLt
/-- C(i) := v: a write to C0 is discarded (R95). -/
def Pacer.wc (p : Pacer) (i : CReg) (v : Cap) : Pacer := if i = 0 then p else { p with c := p.c.set i.toNat v i.isLt }

/-- s with the Pacer of the current region changed. -/
def State.onPacer (s : State) (f : Pacer → Pacer) : State := s.setReg { s.reg with pacer := f s.reg.pacer }

def State.rx (s : State) (i : XReg) : Word := s.reg.pacer.rx i
def State.wx (s : State) (i : XReg) (v : Word) : State := s.onPacer (·.wx i v)
def State.rc (s : State) (i : CReg) : Cap := s.reg.pacer.rc i
def State.wc (s : State) (i : CReg) (v : Cap) : State := s.onPacer (·.wc i v)

/-- X(i + k) of a register block; a block from X0 reads zeros (R255). -/
def State.rxBlock (s : State) (i : XReg) (k : Nat) : Word := if i = 0 then 0 else s.rx (BitVec.ofNat 5 (i.toNat + k))

/-- PC: the cursor of the fetch capability (R203, R233). -/
def State.pc (s : State) : Word := s.reg.pacer.pcc.cursor
/-- PC := a, under the rule of R138 (R233). -/
def State.jump (s : State) (a : Word) : State := s.onPacer (fun p => { p with pcc := p.pcc.withCursor a })
/-- Execution continues at the next word (NextPC of a one-word instruction, R216). -/
def State.advance (s : State) : State := s.jump (s.pc + 4)

/-! ### Immediates (R212, R216) -/

def sext16 (i : BitVec 16) : Word := i.signExtend 64
def zext16 (i : BitVec 16) : Word := i.zeroExtend 64
/-- A branch displacement: sign-extended, in words (R204). -/
def off16 (i : BitVec 16) : Word := i.signExtend 64 <<< 2
def off21 (i : BitVec 21) : Word := i.signExtend 64 <<< 2

/-- The address of a memory operand of the M format: CURSOR + X(XI) + OFF8 × S (R210, R234). -/
def State.memAddr (s : State) (cb : CReg) (xi : XReg) (off : BitVec 8) (size : Nat) : Word :=
  (s.rc cb).cursor + s.rx xi + off.signExtend 64 * BitVec.ofNat 64 size

/-- The bytes of a one-word instruction's word as TVAL shows it for class 0 (R122). -/
def wordOf (i : Instr) : Word := BitVec.ofNat 64 ((encodeWords i).headD 0)

/-! ### The region -/

/-- The current region's virtual device (R96 VDID). -/
def State.vd (s : State) : Option Nat := s.vdOf s.cur
/-- Supervisor mode (R95). -/
def State.sup (s : State) : Bool := s.reg.pacer.mode
/-- CYC: fc since region reset (R96). -/
def State.cycOf (s : State) (r : Nat) : Nat := s.now - (s.region r).resetAt
def State.cyc (s : State) : Nat := s.cycOf s.cur

/-! ### System registers (R96, R126, R196) -/

/-- The registers that R96 and R126 list, by number. -/
def sysListed (n : Nat) : Bool := n ≤ 9 || (0x10 ≤ n && n ≤ 0x1F)
/-- Registers whose Task column is "—". -/
def sysSupOnly (n : Nat) : Bool := (1 ≤ n && n ≤ 3) || 0x10 ≤ n
/-- Registers marked RO in supervisor mode. -/
def sysRoSup (n : Nat) : Bool := (5 ≤ n && n ≤ 9) || n == 0x15
/-- Registers marked RO in task mode. -/
def sysRoTask (n : Nat) : Bool := n == 0 || sysRoSup n

/-- STAT (R96). -/
def Pacer.stat (p : Pacer) : Word :=
  (if p.mask then 4 else 0) ||| (if p.pmode then 2 else 0) ||| (if p.mode then 1 else 0)

/-- GETS (R248). -/
def State.sysRead (s : State) (n : Nat) : Word :=
  let p := s.reg.pacer
  match n with
  | 0 => p.stat
  | 1 => p.epc
  | 2 => p.cause
  | 3 => p.tval
  | 4 => p.fpmode
  | 5 => p.taskid
  | 6 => BitVec.ofNat 64 (s.vd.getD 0)
  | 7 => BitVec.ofNat 64 s.cyc
  | 8 => p.dcyc
  | 9 => BitVec.ofNat 64 s.cur
  | 0x10 => p.tvec
  | 0x11 => p.savebase
  | 0x12 => p.dbgctl
  | 0x13 => p.dbgiaddr
  | 0x14 => p.dbgdaddr
  | 0x15 => p.fltpend
  | k => if h : k - 0x16 < 10 then p.sscr[k - 0x16]'h else 0

/-- The bits of FPMODE that are not reserved (R196). -/
def fpmodeMask : Word := 0x1F1F1F

/-- SETS of a writable register: reserved bits stay, and the bits that read as 0 are stored as 0 (R196, R215, R248). -/
def Pacer.sysWrite (p : Pacer) (n : Nat) (v : Word) : Pacer :=
  match n with
  | 0 => { p with mask := v.getLsbD 2, pmode := v.getLsbD 1 }
  | 1 => { p with epc := v }
  | 2 => { p with cause := v }
  | 3 => { p with tval := v }
  | 4 => { p with fpmode := v &&& fpmodeMask }
  | 0x10 => { p with tvec := v &&& ~~~(3 : Word) }
  | 0x11 => { p with savebase := v &&& ~~~(0xFFFFF : Word) }
  | 0x12 => { p with dbgctl := v &&& 7 }
  | 0x13 => { p with dbgiaddr := v }
  | 0x14 => { p with dbgdaddr := v }
  | k => if h : k - 0x16 < 10 ∧ 0x16 ≤ k then { p with sscr := p.sscr.set (k - 0x16) v h.1 } else p

end Sys2Proof.Machine
end

