-- ==== Sys2Proof/Machine/Flags.lean ====
section
/-! DEFINITION. The scalar floating-point mode and flags, and every result and flag of the FP group (R196, R197, R225 to R230). -/

namespace Sys2Proof.Machine

open Sys2Proof

/-- The fields of FPMODE (R196). -/
def fpRm (m : Word) : Nat := bitsOf m.toNat 0 2
def fpFtz (m : Word) : Bool := m.getLsbD 2
def fpCan (m : Word) : Bool := m.getLsbD 3
def fpSat (m : Word) : Bool := m.getLsbD 4
def fpEn (m : Word) : Nat := bitsOf m.toNat 8 5
def fpFlags (m : Word) : Nat := bitsOf m.toNat 16 5

/-- FLAGS in their bit order: NV, DZ, OF, UF, NX from bit 4 down (R196). -/
def flagBits (nv dz of uf nx : Bool) : Nat :=
  (if nv then 16 else 0) + (if dz then 8 else 0) + (if of then 4 else 0) + (if uf then 2 else 0) + (if nx then 1 else 0)

/-- FPMODE with flags accumulated (R196, R225). -/
def fpSet (m : Word) (flags : Nat) : Word := m ||| (BitVec.ofNat 64 flags <<< 16)

/-- An FP result: its code in the low bits and the flags the operation would raise. -/
structure FpRes where
  code : Nat
  flags : Nat
deriving DecidableEq, Repr

/-- The format of .s or .d (R225). -/
def fpFmt (dbl : BitVec 1) : FloatFmt := if dbl = 1 then fp64 else fp32

/-- The operand's code: bits [31:0] for .s, the whole register for .d (R225). -/
def fpOperand (f : FloatFmt) (v : Word) : Nat := v.toNat % 2 ^ f.width

/-- A result with no NaN operand: an invalid operation gives the canonical NaN and NV; any other is rounded once (R197). -/
def fpRound (f : FloatFmt) (m : Word) (dz : Bool) (x : Ext) : FpRes :=
  if x.isNan then { code := f.nanCode, flags := flagBits true false false false false }
  else
    let r := roundFloat f (fpRm m) (fpSat m) (fpFtz m) x
    { code := r.code, flags := flagBits false dz r.of r.uf r.nx }

/-- The operation of an FP instruction with arithmetic (R226). -/
inductive FpOp where
  | add | sub | mul | fma | div | sqrt
deriving DecidableEq, Repr

/-- The exact result of R226. -/
def fpExact (op : FpOp) (down : Bool) (a b c : Ext) : Ext :=
  match op with
  | .add => Ext.add down a b
  | .sub => Ext.add down a b.neg
  | .mul => a.mul b
  | .fma => Ext.add down (a.mul b) c
  | .div => a.div b
  | .sqrt => a.sqrt

/-- The operands of an operation that can make it NaN, in order (R226). -/
def fpOps (op : FpOp) (a b c : Nat) : List Nat :=
  match op with
  | .sqrt => [a]
  | .fma => [a, b, c]
  | _ => [a, b]

/-- FADD, FSUB, FMUL, FFMA, FDIV and FSQRT on operand codes under FPMODE (R197, R226). -/
def fpArith (f : FloatFmt) (op : FpOp) (m : Word) (a b c : Nat) : FpRes :=
  let a := f.flush (fpFtz m) a
  let b := f.flush (fpFtz m) b
  let c := f.flush (fpFtz m) c
  if (fpOps op a b c).any f.isNan then { code := pickNan f (fpCan m) (fpOps op a b c), flags := 0 }
  else
    let x := fpExact op (fpRm m == 3) (f.value a) (f.value b) (f.value c)
    let dz := op == .div && (f.value b).isZero && !(f.value a).isZero && match f.value a with | .inf _ => false | _ => true
    fpRound f m dz x

/-- FMIN and FMAX (R227). -/
def fpMinMax (f : FloatFmt) (big : Bool) (m : Word) (a b : Nat) : FpRes :=
  { code := redExt f big (fpCan m) (fpFtz m) a b, flags := 0 }

/-- Whether a condition of R228 holds. -/
def fpHolds (cond : Nat) (a b : Ext) : Bool :=
  let un := a.isNan || b.isNan
  match cond with
  | 0 => a.numEq b
  | 1 => !a.numEq b
  | 2 => a.numLt b
  | 3 => !un && !b.numLt a
  | 4 => b.numLt a
  | 5 => !un && !a.numLt b
  | 6 => un
  | _ => !un

/-- FCMP: the condition, and NV for an ordering with a NaN operand (R228). -/
def fpCompare (f : FloatFmt) (cond : Nat) (m : Word) (a b : Nat) : FpRes :=
  let x := f.value (f.flush (fpFtz m) a)
  let y := f.value (f.flush (fpFtz m) b)
  { code := if fpHolds cond x y then 1 else 0,
    flags := flagBits ((x.isNan || y.isNan) && 2 ≤ cond && cond ≤ 5) false false false false }

/-- A NaN converted between float formats: sign and top fraction bits kept, top fraction bit set (R229). -/
def nanConvert (f g : FloatFmt) (can : Bool) (c : Nat) : Nat :=
  if can then g.nanCode
  else
    let s := decide (c % 2 ^ f.width ≥ 2 ^ (f.width - 1))
    let fr := c % 2 ^ f.fbits
    let fr' := if g.fbits ≤ f.fbits then fr / 2 ^ (f.fbits - g.fbits) else fr * 2 ^ (g.fbits - f.fbits)
    g.sign s (((g.maxMag + 1) ||| fr') ||| 2 ^ (g.fbits - 1))

/-- A conversion between float formats (R229). -/
def fpToFp (f g : FloatFmt) (m : Word) (c : Nat) : FpRes :=
  let c := f.flush (fpFtz m) c
  if f.isNan c then { code := nanConvert f g (fpCan m) c, flags := 0 } else fpRound g m false (f.value c)

/-- A conversion of a float to a 64-bit integer, signed or not (R229). -/
def fpToInt (f : FloatFmt) (sgn : Bool) (m : Word) (c : Nat) : FpRes :=
  let lo : Int := if sgn then -(2 ^ 63 : Nat) else 0
  let hi : Int := if sgn then (2 ^ 63 : Nat) - 1 else (2 ^ 64 : Nat) - 1
  match f.value (f.flush (fpFtz m) c) with
  | .nan => { code := 0, flags := flagBits true false false false false }
  | .inf s => { code := ofInt 64 (if s then lo else hi), flags := flagBits true false false false false }
  | .fin s n d e =>
    let (i, nx) := roundInt (fpRm m) s n d e
    if i < lo then { code := ofInt 64 lo, flags := flagBits true false false false false }
    else if i > hi then { code := ofInt 64 hi, flags := flagBits true false false false false }
    else { code := ofInt 64 i, flags := flagBits false false false false nx }

/-- FCVT by its conversion number (R229). -/
def fpConvert (conv : Nat) (m : Word) (v : Word) : FpRes :=
  let n := v.toNat
  match conv with
  | 0 => fpToFp fp64 fp32 m n
  | 1 => fpToFp fp32 fp64 m (n % 2 ^ 32)
  | 2 => fpRound fp32 m false (.ofInt v.toInt)
  | 3 => fpRound fp32 m false (.ofNat n)
  | 4 => fpRound fp64 m false (.ofInt v.toInt)
  | 5 => fpRound fp64 m false (.ofNat n)
  | 6 => fpToInt fp32 true m (n % 2 ^ 32)
  | 7 => fpToInt fp32 false m (n % 2 ^ 32)
  | 8 => fpToInt fp64 true m n
  | 9 => fpToInt fp64 false m n
  | 10 => fpToFp bf16 fp32 m (n % 2 ^ 16)
  | 11 => fpToFp fp32 bf16 m (n % 2 ^ 32)
  | 12 => fpToFp fp16 fp32 m (n % 2 ^ 16)
  | _ => fpToFp fp32 fp16 m (n % 2 ^ 32)

/-- FCLASS: the bit of the operand's class (R230). -/
def fpClass (f : FloatFmt) (c : Nat) : Nat :=
  match f.value c with
  | .nan => 8
  | .inf s => if s then 0 else 7
  | .fin s n _ _ =>
    if n == 0 then (if s then 3 else 4)
    else if f.subnormal c then (if s then 2 else 5)
    else if s then 1 else 6

end Sys2Proof.Machine
end

