-- ==== Sys2Proof/Machine/Ops.lean ====
section
/-! DEFINITION. The shared operations: the MGC log (R31, R32), taking an exception and returning from one (R123, R125), pending faults
(R126, R127), and the endings that instruction meanings share. -/

namespace Sys2Proof.Machine

open Sys2Proof

/-- The outcome of a step. -/
abbrev Out := Host.Outcome State Fault Refusal

/-- s with region r changed. -/
def State.onRegion (s : State) (r : Nat) (f : Region → Region) : State := s.setRegion r (f (s.region r))
/-- s with the current region changed. -/
def State.onReg (s : State) (f : Region → Region) : State := s.setReg (f s.reg)

/-! ### The MGC log -/

/-- The 32 bytes of a log record (R31). -/
def logBytes (seq cyc : Nat) (e : LogRec) : List Byte :=
  leBytes 8 seq ++ leBytes 8 cyc ++ leBytes 2 e.source.toNat ++ leBytes 2 e.code.toNat ++ leBytes 4 0 ++ leBytes 8 e.value.toNat

/-- One record written in the host's ring (R31): at slot SEQ mod count, and whether or not the Isaud link is up (the model's choices, log 61). -/
def State.writeLog (s : State) (addr count seq cyc : Nat) (e : LogRec) : State :=
  s.put (hostKey (addr + 32 * (seq % count))) (logBytes seq cyc e)

/-- A log record produced now: written to the ring, if LOG_RING has named one; the last 64 are kept for the next LOG_RING (R31). -/
def State.log (s : State) (kind unit code : Nat) (value : Word) : State :=
  let e : LogRec := { source := BitVec.ofNat 16 (kind * 4096 + unit), code := BitVec.ofNat 16 code, value := value }
  let q := s.mgc.logSeq
  let held := s.mgc.logOld ++ [(e, q, s.now)]
  let s' := { s with mgc := { s.mgc with logSeq := q + 1, logOld := held.drop (held.length - 64) } }
  match s.mgc.ringAddr with
  | some a => s'.writeLog a s.mgc.ringCount q s.now e
  | none => s'

/-- The two records of a region event: EPC, then TVAL (R32). -/
def State.logRegion (s : State) (r : Nat) (cause : Byte) (epc tval : Word) : State :=
  (s.log 5 r cause.toNat epc).log 5 r (0x8000 + cause.toNat) tval

/-- The launch clear or the scrub of region r has failed: 0xAD to the MGC (R134). Nothing ran, and the record's EPC is 0 (log 77). -/
def State.clearFailed (s : State) (r : Nat) : State :=
  ({ s with clearBad := NSet.del s.clearBad r } : State).logRegion r 0xAD 0 (BitVec.ofNat 64 r)

/-! ### Exceptions -/

/-- Trap entry at the boundary of the instruction at PC (R123). A trap of a task hands the region to the firmware (R124). -/
def State.trapEntry (s : State) (cause : Byte) (tval : Word) : State :=
  let g := s.reg
  let p := g.pacer
  s.setReg { g with
    wait := .none,
    run := if p.mode then g.run else .firmware cause,
    pacer := { p with
      epc := p.pcc.cursor, cause := cause.zeroExtend 64, tval := tval, epcc := p.pcc,
      pmode := p.mode, mode := true, mask := true, pcc := Config.fwCode.withCursor p.tvec } }

/-- A precise fault of the instruction at PC: trap entry, or, in supervisor mode under MASK, the stop of R125. -/
def State.trap (s : State) (cause : Byte) (tval : Word) : State :=
  if s.sup && s.reg.pacer.mask then
    (s.logRegion s.cur 0xA4 s.pc (cause.zeroExtend 64)).onReg (fun g => { g with wait := .none, run := .firmware 0xA4 })
  else s.trapEntry cause tval

/-- A fault of class 0 of instruction i: TVAL is its first word (R122). -/
def State.trap0 (s : State) (cause : Byte) (i : Instr) : State := s.trap cause (wordOf i)

/-- ERET (R123): the mode before the trap, MASK clear, fetch through EPCC at EPC; 0xAF where EPCC is untagged. -/
def State.eret (s : State) : State :=
  let p := s.reg.pacer
  if p.epcc.tag then
    s.onReg (fun g => { g with
      skipBrk := p.cause == 0xA8,
      pacer := { p with mode := p.pmode, mask := false, pcc := p.epcc.withCursor p.epc } })
  else s.trap 0xAF p.epc

/-- FLTPEND while a fault is pending (R126). -/
def fltWord (cause : Byte) (tval : Word) : Word :=
  1 ||| (cause.zeroExtend 64 <<< 8) ||| (tval <<< 48)

/-- A Field, engine or deferred store fault becomes pending; with another pending, the first stays and CAUSE will be 0x5F (R127, R236).
freeze: the fault freezes the Field at the end of the fc. -/
def Region.pendFault (g0 : Region) (now : Nat) (cause : Byte) (tval : Word) (freeze : Bool) : Region :=
  let g := { g0 with frozen := g0.frozen || freeze, faulted := g0.faulted || freeze, frozeAt := if freeze && !g0.frozen then some now else g0.frozeAt }
  match g.pend with
  | some f => { g with pend := some { f with multi := true } }
  | none =>
    { g with pend := some { cause := cause, tval := tval, multi := false, elem := none }, pacer := { g.pacer with fltpend := fltWord cause tval } }

/-- A fault of region r becomes pending. -/
def State.pendFault (s : State) (r : Nat) (cause : Byte) (tval : Word) (freeze : Bool) : State :=
  s.onRegion r (·.pendFault s.now cause tval freeze)

/-- Delivery of the current region's pending fault (R126, R127): after a delivery with 0x5F FLTPEND keeps the fault's cause and TVAL;
after any other delivery those bits are a free value (log 13). -/
def State.deliver (s : State) : State :=
  match s.reg.pend with
  | none => s
  | some f =>
    let (w, s1) := s.drawWord
    let old := s.reg.pacer.fltpend
    let flt := if f.multi then old &&& ~~~(1 : Word) else (w &&& 0xFFFF00000000FF00)
    let s2 := s1.onReg (fun g => { g with pend := none, pacer := { g.pacer with fltpend := flt } })
    s2.trapEntry (if f.multi then 0x5F else f.cause) f.tval

/-! ### Endings of instruction meanings -/

/-- The instruction writes X(d) and execution continues at NextPC. -/
def State.ret (s : State) (d : XReg) (v : Word) : Out := .next ((s.wx d v).advance)
/-- The instruction writes C(d) and execution continues at NextPC. -/
def State.retC (s : State) (d : CReg) (v : Cap) : Out := .next ((s.wc d v).advance)
/-- The instruction faults precisely (R217). -/
def State.fail (s : State) (cause : Byte) (tval : Word) : Out := .next (s.trap cause tval)
/-- The instruction faults with a class-0 cause. -/
def State.fail0 (s : State) (cause : Byte) (i : Instr) : Out := .next (s.trap0 cause i)
/-- The instruction has no effect yet and will be executed again (WaitUntil, R216). -/
def State.block (s : State) : Out := .next (s.onReg (fun g => { g with wait := .poll }))
/-- The check of a privileged instruction (R207, check 10), before its effect. -/
def State.privileged (s : State) (i : Instr) (k : State → Out) : Out := if s.sup then k s else s.fail0 0x05 i

end Sys2Proof.Machine
end

