-- ==== Sys2Proof/Machine/Derived.lean ====
section
/-! DEFINITION. Derived regions at the memory ports: shapes, scans, maintenance entries, rescans, and the values that reads return
(R153 to R162, R174, R175). -/

namespace Sys2Proof.Machine

open Sys2Proof

/-! ### Shape -/

/-- Element size in bytes (R153). -/
def Decl.esize (d : Decl) : Nat := fmtBits d.fmt / 8
/-- Blocks per row (R155). -/
def Decl.nb (d : Decl) : Nat := d.cols / 2 ^ d.blklog
/-- Partials per port: rows, blocks, or one for a histogram's bins each (R154). -/
def Decl.count (d : Decl) : Nat :=
  match d.expr with
  | 4 => d.rows * d.nb
  | 5 => d.nbin
  | _ => d.rows
/-- The view's size in bytes (R155). -/
def Decl.viewSize (d : Decl) : Nat :=
  match d.expr with
  | 4 => 5 * (d.rows * d.nb)
  | 5 => 4 * d.nbin
  | _ => 4 * d.rows
/-- The partial that an element belongs to, for every expression but HIST (R155). -/
def Decl.idx (d : Decl) (row col : Nat) : Nat := if d.expr == 4 then row * d.nb + col / 2 ^ d.blklog else row

/-- The key of an address of the base range. -/
def Decl.keyAt (d : Decl) (va : Nat) : Nat :=
  match d.segs.find? (fun g => decide (g.1 ≤ va) && decide (va < g.1 + g.2.2)) with
  | some g => g.2.1 + (va - g.1)
  | none => 0

def Decl.elemKey (d : Decl) (row col : Nat) : Nat := d.keyAt (d.base + row * d.stride + col * d.esize)

/-- The elements (row, column, key) that n bytes from a key touch. -/
def Decl.elemsIn (d : Decl) (k n : Nat) : List (Nat × Nat × Nat) :=
  d.segs.flatMap (fun g =>
    let lo := max k g.2.1
    let hi := min (k + n) (g.2.1 + g.2.2)
    if lo < hi then
      let o0 := (g.1 + (lo - g.2.1)) - d.base
      let o1 := (g.1 + (hi - 1 - g.2.1)) - d.base
      ((List.range (o1 / d.esize - o0 / d.esize + 1)).map (· + o0 / d.esize)).filterMap (fun j =>
        let o := j * d.esize
        let row := o / d.stride
        let col := o % d.stride / d.esize
        if row < d.rows && col < d.cols then some (row, col, d.elemKey row col) else none)
    else [])

/-! ### Values -/

/-- The exact value of an element's code (R156). -/
def Decl.val (d : Decl) (c : Nat) : Ext := fmtValue d.fmt c
/-- The magnitude that BLKABSMAX compares, the value that the other extremes compare (R158). -/
def Decl.cmpVal (d : Decl) (c : Nat) : Ext :=
  match d.val c with
  | .fin s n e f => .fin (if d.expr == 4 then false else s) n e f
  | .inf s => .inf (if d.expr == 4 then false else s)
  | .nan => .nan

/-- a lies beyond b in the direction of the expression (R158). -/
def Decl.beyond (d : Decl) (a b : Nat) : Bool :=
  if d.expr == 3 then (d.cmpVal a).lt (d.cmpVal b) else (d.cmpVal b).lt (d.cmpVal a)

/-- The bin of a value: none for NaN (R157). -/
def Decl.bin (d : Decl) (c : Nat) : Option Nat :=
  match d.val c with
  | .nan => none
  | x => some ((d.edges.take (d.nbin - 1)).filter (fun e => !x.numLt (fp32.value e))).length

def Partial.empty : Partial :=
  { used := false, x := 0, nan := 0, pinf := 0, ninf := 0, ext := none, stale := false, bad := false, spoilt := false }

/-- What a value adds to X in units of 2^−300 (R156). -/
def contribution (sq : Bool) (v : Ext) : Int :=
  match v with
  | .fin s n d e =>
    if sq then ((n * n * pow2 (2 * e + 300) / (d * d * pow2 (-(2 * e + 300))) : Nat) : Int)
    else (if s then -1 else 1) * ((n * pow2 (e + 300) / (d * pow2 (-(e + 300))) : Nat) : Int)
  | _ => 0

/-- An element's contribution withdrawn (sgn −1) or added (sgn 1) for the sums and counts (R156, R157). -/
def Decl.account (d : Decl) (sgn : Int) (c : Nat) (p : Partial) : Partial :=
  let bump := fun (n : Nat) => (n + sgn).toNat
  match d.expr with
  | 6 => match d.val c with
    | .fin _ n _ _ => if n == 0 then p else { p with x := p.x + sgn }
    | _ => { p with x := p.x + sgn }
  | _ =>
    match d.val c with
    | .nan => { p with nan := bump p.nan }
    | .inf s => if d.expr == 1 || !s then { p with pinf := bump p.pinf } else { p with ninf := bump p.ninf }
    | v => { p with x := p.x + sgn * contribution (d.expr == 1) v }

/-- The extreme after a served entry, and whether a rescan is needed (R158). -/
def Decl.extreme (d : Decl) (old new : Nat) (p : Partial) : Partial :=
  let oldNan := (d.val old).isNan
  let newNan := (d.val new).isNan
  let p1 := { p with nan := (p.nan + (if newNan then 1 else 0)) - (if oldNan then 1 else 0) }
  match p.ext with
  | none => if newNan then p1 else { p1 with ext := some new }
  | some e =>
    if !newNan && d.beyond new e then { p1 with ext := some new }
    else if !oldNan && d.cmpVal old == d.cmpVal e && (newNan || d.beyond e new) then { p1 with stale := true }
    else p1

/-! ### Port state -/

def Decl.partsAt (d : Decl) (p : Nat) : List Partial := AMap.findD d.parts p []
def Decl.setPart (d : Decl) (p i : Nat) (q : Partial) : Decl := { d with parts := AMap.put d.parts p ((d.partsAt p).set i q) }
def Decl.part (d : Decl) (p i : Nat) : Partial := (d.partsAt p).getD i Partial.empty

/-- A bin's count after a change. -/
def Decl.bumpBin (d : Decl) (p : Nat) (sgn : Int) (c : Nat) : Decl :=
  match d.bin c with
  | none => d
  | some b => d.setPart p b { d.part p b with x := (d.part p b).x + sgn }

/-- The elements (row, column) of a partial. -/
def Decl.cells (d : Decl) (i : Nat) : List (Nat × Nat) :=
  if d.expr == 4 then (List.range (2 ^ d.blklog)).map (fun j => (i / d.nb, i % d.nb * 2 ^ d.blklog + j))
  else (List.range d.cols).map (fun j => (i, j))

/-- A rescan of partial i at port p: the extreme of the port's non-NaN elements; uncorrectable data leaves it bad (R158). -/
def State.rescan (s : State) (d : Decl) (p i : Nat) : Decl :=
  let keys := ((d.cells i).map (fun c => d.elemKey c.1 c.2)).filter (fun k => portNum (portOf k) == p)
  let q := d.part p i
  if keys.any s.badAt then d.setPart p i { q with stale := false, bad := true }
  else
    let codes := keys.map (fun k => leNat (s.rd k d.esize))
    let best := codes.foldl (fun m c => if (d.val c).isNan then m else match m with
      | none => some c
      | some e => if d.beyond c e then some c else m) none
    d.setPart p i { q with ext := best, stale := false, bad := false }

/-- The queue with a rescan, which comes before the reads that were accepted behind the entry that calls for it: a read of a stale row or block
waits for its rescan (R158, R160). -/
def putRescan (i : Nat) : List Maint → List Maint
  | [] => [.rescan i]
  | m :: ms => match m with
    | .reply .. => .rescan i :: m :: ms
    | .syncReply .. => .rescan i :: m :: ms
    | _ => m :: putRescan i ms

/-- A maintenance entry served (R157, R158). Partial i of an extreme that becomes stale is followed by a rescan in the queue. -/
def Decl.serveEntry (d : Decl) (p i old new : Nat) : Decl :=
  match d.expr with
  | 5 => (d.bumpBin p (-1) old).bumpBin p 1 new
  | 2 => go
  | 3 => go
  | 4 => go
  | _ => d.setPart p i (d.account 1 new (d.account (-1) old (d.part p i)))
where
  go : Decl :=
    let q := d.extreme old new (d.part p i)
    let d' := d.setPart p i q
    if q.stale && !(d.part p i).stale then { d' with mq := AMap.put d'.mq p (putRescan i (AMap.findD d'.mq p [])) } else d'

/-! ### Reads -/

/-- A partial on its way to a reader. -/
def Partial.bytes (q : Partial) : List Byte :=
  leBytes 80 (ofInt 640 q.x) ++ leBytes 5 q.nan ++ leBytes 5 q.pinf ++ leBytes 5 q.ninf ++
    leBytes 5 (match q.ext with | none => 0 | some c => c + 1) ++ leBytes 1 (if q.bad then 1 else 0)

def Partial.ofBytes (bs : List Byte) : Partial :=
  { used := true, x := toInt 640 (fieldLe bs 0 80), nan := fieldLe bs 80 5, pinf := fieldLe bs 85 5, ninf := fieldLe bs 90 5,
    ext := if fieldLe bs 95 5 == 0 then none else some (fieldLe bs 95 5 - 1), stale := false, bad := fieldLe bs 100 1 == 1,
    spoilt := false }

/-- Partials of several ports combined exactly (R156, R158). -/
def Decl.combine (d : Decl) (qs : List Partial) : Partial :=
  qs.foldl (fun a q =>
    { a with x := a.x + q.x, nan := a.nan + q.nan, pinf := a.pinf + q.pinf, ninf := a.ninf + q.ninf, bad := a.bad || q.bad,
             ext := match a.ext, q.ext with
               | none, e => e
               | e, none => e
               | some e, some f => if d.beyond f e then some f else some e }) Partial.empty

/-- The 4-byte value that a combined partial reads as (R155, R156, R158, R159). -/
def Decl.value (d : Decl) (q : Partial) : Nat :=
  match d.expr with
  | 0 => sum
  | 1 => sum
  | 5 => ofInt 32 q.x
  | 6 => ofInt 32 q.x
  | _ => if q.nan > 0 then 0x7FC00000 else match q.ext with | none => 0 | some c => roundFp32 (d.cmpVal c)
where
  sum : Nat :=
    if q.nan > 0 || (q.pinf > 0 && q.ninf > 0) then 0x7FC00000
    else if q.pinf > 0 then 0x7F800000
    else if q.ninf > 0 then 0xFF800000
    else if q.x == 0 then 0 else roundFp32 (.fin (decide (q.x < 0)) q.x.natAbs 1 (-300))

/-- A block scale from the absolute maximum, the presence of a NaN and the target exponent (R159). -/
def blockScale (e4m3fmt : Bool) (nan : Bool) (m : Ext) (t : Int) : Nat :=
  let v : Ext := m.mul (.fin false (pow2 (-t)) (pow2 t) 0)
  if e4m3fmt then
    (if nan then 0x7F else match v with
      | .inf _ => 0x7E
      | x => convertValue x 4)
  else if nan then 0xFF
  else match v with
    | .nan => 0xFF
    | .inf _ => 0xFE
    | .fin _ n dd e => if n == 0 then 0 else
      let l := floorLog2 n dd + e + 127
      if l < 0 then 0 else if l > 254 then 254 else l.toNat

/-- The scale byte of a block (R159). -/
def Decl.scale (d : Decl) (q : Partial) : Nat :=
  blockScale (d.sfmt == 4) (decide (q.nan > 0)) (match q.ext with | none => .ofNat 0 | some c => d.cmpVal c) d.texp

/-- The partials whose values n bytes of the view from an offset show (R155). -/
def Decl.viewIdxs (d : Decl) (off n : Nat) : List Nat :=
  ((List.range n).map (fun j =>
    let o := off + j
    if d.expr == 4 && o ≥ 4 * d.count then o - 4 * d.count else o / 4)).eraseDups

/-- n bytes of the view from an offset, from the combined partial of each index (R155, R162). -/
def Decl.viewBytes (d : Decl) (q : Nat → Partial) (off n : Nat) : List Byte :=
  (List.range n).map (fun j =>
    let o := off + j
    if d.expr == 4 && o ≥ 4 * d.count then BitVec.ofNat 8 (d.scale (q (o - 4 * d.count)))
    else BitVec.ofNat 8 (d.value (q (o / 4)) / 256 ^ (o % 4)))

/-- The live declaration whose view holds an address of DVIEW space (R155, R162). -/
def State.declAt (s : State) (a : Nat) : Option (Nat × Decl) :=
  s.decls.find? (fun p => decide (p.2.view ≤ a) && decide (a < p.2.view + p.2.viewSize))

/-! ### Maintenance at APPLY -/

/-- The changed elements of declaration d under a write of new bytes at a key: (partial, old code, new code). -/
def State.changes (s : State) (d : Decl) (k : Nat) (new : List Byte) : List (Nat × Nat × Nat) :=
  let m' := Memory.setBytes s.mem k new
  (d.elemsIn k new.length).filterMap (fun e =>
    let old := leNat (s.rd e.2.2 d.esize)
    let nw := leNat ((List.range d.esize).map (fun i => Memory.get m' (e.2.2 + i)))
    if old == nw then none else some (d.idx e.1 e.2.1, old, nw))

/-- The count that a bin will hold once the port's queue is served (R157). -/
def Decl.future (d : Decl) (p b : Nat) : Int :=
  (AMap.findD d.mq p []).foldl (fun n m => match m with
    | .entry _ old new => n - (if d.bin old == some b then 1 else 0) + (if d.bin new == some b then 1 else 0)
    | _ => n) (d.part p b).x

/-- The write would take a histogram bin past its limit (R157). -/
def State.histFull (s : State) (k : Nat) (new : List Byte) : Bool :=
  let p := portNum (portOf k)
  s.decls.any (fun e =>
    let d := e.2
    d.expr == 5 && !d.lost &&
      (List.range d.nbin).any (fun b =>
        let add := (s.changes d k new).foldl (fun (n : Int) c =>
          n - (if d.bin c.2.1 == some b then 1 else 0) + (if d.bin c.2.2 == some b then 1 else 0)) 0
        decide (add > 0) && decide (d.future p b + add > (2 ^ 32 : Nat) - 1)))

/-- The maintenance entries that a write of new bytes at a key appends (R157); where a granule is uncorrectable its old values cannot
be withdrawn, and every declaration over its elements is lost (R161). -/
def State.maintain (s : State) (k : Nat) (new : List Byte) : State :=
  if s.decls.isEmpty then s
  else
    let p := portNum (portOf k)
    { s with decls := AMap.mapV s.decls (fun d =>
        if d.lost then d
        else if (d.elemsIn k new.length).any (fun e => s.badAt e.2.2) then { d with lost := true }
        else
          let es := (s.changes d k new).map (fun c => Maint.entry c.1 c.2.1 c.2.2)
          if es.isEmpty then d else { d with mq := AMap.put d.mq p (AMap.findD d.mq p [] ++ es) }) }

end Sys2Proof.Machine
end

