-- ==== Sys2Proof/Machine/PortWrite.lean ====
section
/-! DEFINITION. What a memory port does when it applies a write: the checks in which it may refuse (R130, R143, R150, R157), the effects
every write has (R52, R140, R143, R149, R157, R177). -/

namespace Sys2Proof.Machine

open Sys2Proof

/-- The object of a live-sync granule by its KIND byte: 0 barrier, 1 baton, 2 trigger (R278, R280, R286). -/
def State.objectAt (s : State) (k : Nat) : Nat := (Memory.get s.mem (k / 16 * 16 + 15)).toNat - 1

/-- The class-7 cause of a plain store (event 2) or an atomic (event 3) to a live-sync granule (R122, R143). -/
def State.objectCause (s : State) (k event : Nat) : Byte := BitVec.ofNat 8 (0x70 + 4 * s.objectAt k + event)

/-- The Pacers that monitor a granule run again: a write to it was applied (R177, R281). -/
def State.wake (s : State) (g : Nat) : State :=
  { s with regions := AMap.mapV s.regions (fun r => if r.wait == .monitor g then { r with wait := .none } else r) }

/-- The bytes that a masked write leaves. -/
def State.merged (s : State) (k : Nat) (bs : List (Byte × Byte)) : List Byte :=
  (List.range bs.length).map (fun i =>
    let p := bs.getD i (0, 0)
    (Memory.get s.mem (k + i) &&& ~~~p.2) ||| (p.1 &&& p.2))

/-- Granules that a masked write covers whole: they get fresh check bits (R130). -/
def wholeGranules (k : Nat) (bs : List (Byte × Byte)) : List Nat :=
  (granulesOf k bs.length).filter (fun g =>
    decide (k ≤ 16 * g) && decide (16 * g + 16 ≤ k + bs.length) && ((bs.drop (16 * g - k)).take 16).all (fun p => p.2 == 0xFF))

/-- A write covers only part of one of the granules of a set. -/
def partlyIn (gs : List Nat) (k : Nat) (bs : List (Byte × Byte)) : Bool :=
  (granulesOf k bs.length).any (fun g => NSet.has gs g && !(wholeGranules k bs).contains g)

/-- A write covers in part a granule whose data is uncorrectable (R130). -/
def State.partialBad (s : State) (k : Nat) (bs : List (Byte × Byte)) : Bool := partlyIn s.bad k bs

/-- Why the port refuses a plain write, in the order of R143, R130, R150 and R157; access is 1 for a write and 2 for an atomic. A write of a
whole granule makes its metadata anew (log 77). -/
def State.refuses (s : State) (k : Nat) (bs : List (Byte × Byte)) (cmpr : Bool) (access : Nat) : Option Byte :=
  if (granulesOf k bs.length).any (NSet.has s.live) then some (s.objectCause k (if access == 1 then 2 else 3))
  else if partlyIn s.badMeta k bs then some (class3 k 3)
  else if s.merges k bs.length cmpr && s.blockBad k then some (class3 k access)
  else if s.partialBad k bs then some (class3 k access)
  else if s.histFull k (s.merged k bs) then some 0x8A
  else none

/-- The write takes effect: maintenance entries, bytes, tags, check bits, dirty bit, merge flag, monitors. -/
def State.applyWrite (s : State) (k : Nat) (bs : List (Byte × Byte)) (cmpr : Bool) : State :=
  let new := s.merged k bs
  let s1 := ((s.maintain k new).touch k bs.length).noteMerge k cmpr
  let s2 := { s1 with
    mem := Memory.setBytes s1.mem k new,
    tags := s1.tags.filter (fun g => !(granulesOf k bs.length).contains g),
    bad := s1.bad.filter (fun g => !(wholeGranules k bs).contains g),
    badMeta := s1.badMeta.filter (fun g => !(wholeGranules k bs).contains g) }
  (granulesOf k bs.length).foldl State.wake s2

/-- Bytes that are all written. -/
def plain (bs : List Byte) : List (Byte × Byte) := bs.map (fun b => (b, 0xFF))

/-! ### Sync objects (R143, R278, R280, R286) -/

/-- The words of the granule of a key. -/
def State.w0 (s : State) (k : Nat) : Nat := s.rdWord (k / 16 * 16)
def State.w1 (s : State) (k : Nat) : Nat := s.rdWord (k / 16 * 16 + 8)

/-- Why a transaction on a sync object cannot read its granule's metadata, or the granule (R122, R130). -/
def State.metaFault (s : State) (k : Nat) : Option Byte := if s.anyBadMeta (k / 16 * 16) 16 then some (class3 k 3) else none
def State.objFault (s : State) (k : Nat) : Option Byte :=
  (s.metaFault k).or (if s.anyBad (k / 16 * 16) 16 then some (class3 k 2) else none)

/-- The granule of a key with its words set by a sync object's own transaction, which has the effects of every write (R149, R150, R157), or
the fault; cmpr: the CMPR of its page. -/
def State.setObj (s : State) (k w0 w1 : Nat) (cmpr : Bool) : Except Byte State :=
  let g := k / 16 * 16
  let bs := plain (leBytes 8 w0 ++ leBytes 8 w1)
  if s.merges g 16 cmpr && s.blockBad g then .error (class3 k 2)
  else if s.histFull g (leBytes 8 w0 ++ leBytes 8 w1) then .error 0x8A
  else .ok (s.applyWrite g bs cmpr)

end Sys2Proof.Machine
end

