-- ==== Sys2Proof/Machine/QueueDesc.lean ====
section
/-! DEFINITION. Queue descriptors in memory, and the states that a queue takes (R36, R41). -/

namespace Sys2Proof.Machine

open Sys2Proof

/-! ### Slot tables (R146) -/

/-- Eight entries of table 0: AG, BTE, AG, PACER, AG, MAINT, AG and x. -/
def slotEight (x : Nat) : List Nat := [0, 1, 0, 2, 0, 3, 0, x]

/-- Slot table n of the configuration loader tables section; table 0 is the rule's own. -/
def slotTable (n : Nat) : List Nat :=
  if n == 0 then slotEight 1 ++ slotEight 4 ++ slotEight 1 ++ slotEight 4 else (List.range 32).map (fun i => (Config.slotClass n i).val)

/-- The tables of the CHUs, as supervisor firmware sets them at INIT. -/
def chuTables : AMap (List Nat) := (List.range 512).map (fun c => (1024 + c, (List.range 32).map (fun i => (Config.chuClass c i).val)))

/-- The bank groups of a region group take a table. -/
def State.setSlots (s : State) (table g : Nat) : State :=
  { s with slotTables := (List.range 32).foldl (fun (m : AMap (List Nat)) i => AMap.put m (32 * g + i) (slotTable table)) s.slotTables }

/-- The key of an address that a queue's descriptor or ring uses, and the merging flag of its page: HBM of its virtual device, or the
supervisor aperture for QID 0 (R35, R36). -/
def State.queueLoc (s : State) (q : Queue) (a : Nat) : Option (Nat × Bool) :=
  if q.kind == 3 then some (apKey a, false)
  else match s.translate (some q.vd) a Use.store 0x34 with
    | .ok (pa, cm) => some (hbmKey pa, cm)
    | .error _ => none
def State.queueKey (s : State) (q : Queue) (a : Nat) : Option Nat := (s.queueLoc q a).map (·.1)

/-- The device's write of bytes within one granule, or the cause with which the port refuses it (R8, R130, R143). -/
def State.devWrite (s : State) (l : Nat × Bool) (bs : List Byte) : Except Byte State :=
  match s.refuses l.1 (plain bs) l.2 1 with
  | some f => .error f
  | none => .ok (s.applyWrite l.1 (plain bs) l.2)

/-- Writes of the device in order, up to the first that is refused, with its cause. -/
def State.devWrites (s : State) : List ((Nat × Bool) × List Byte) → State × Option Byte
  | [] => (s, none)
  | (l, bs) :: ws =>
    match s.devWrite l bs with
    | .error f => (s, some f)
    | .ok t => t.devWrites ws

def Queue.slots (q : Queue) : Nat := 2 ^ (q.log2n + 6)

def State.queue (s : State) (id : Nat) : Option Queue := AMap.find s.queues id
def State.putQueue (s : State) (id : Nat) (q : Queue) : State := { s with queues := AMap.put s.queues id q }

/-- WIDX of a queue (R36). -/
def State.widx (s : State) (q : Queue) : Nat :=
  match s.queueKey q q.desc with
  | some k => s.rdWord k
  | none => q.r

/-- Words of a descriptor, as offset and value, that the device writes where its page is mapped. -/
def State.descWords (s : State) (q : Queue) (ws : List (Nat × Nat)) : List ((Nat × Bool) × List Byte) :=
  ws.filterMap (fun w => (s.queueLoc q (q.desc + w.1)).map (fun l => (l, leBytes 8 w.2)))

/-- A word of a descriptor as the device writes it. A write that the port refuses changes nothing, and, on a task queue, which the Marshal
consumes, leaves the Marshal's log record (R374; log 45). -/
def State.putDesc (s : State) (q : Queue) (off v : Nat) : State :=
  match s.devWrites (s.descWords q [(off, v)]) with
  | (t, none) => t
  | (t, some f) => if q.kind == 1 then t.log 7 0 f.toNat (BitVec.ofNat 64 (q.desc + off)) else t

def QState.code : QState → Nat
  | .run => 0
  | .stalled => 1
  | .stopped => 2
  | .dead => 3

/-- STAT with STATE and the SEQ at which it changed (R36). -/
def statWord (st : QState) (seq : Nat) : Nat := st.code + seq % 2 ^ 48 * 65536

/-- The queue takes a state at a sequence number, in the device's record and in memory (R36). -/
def State.queueState (s : State) (id : Nat) (st : QState) (seq : Nat) : State :=
  match s.queue id with
  | none => s
  | some q => (s.putQueue id { q with state := st, seqAt := seq }).putDesc q 0x60 (statWord st seq)

/-- QUEUE_DEAD (R41): a queue whose WIDX lies in the granule of a key, and has reached 2^48, enters DEAD. -/
def State.deadQueues (s : State) (k : Nat) : State :=
  s.queues.foldl (fun t p =>
    if p.2.state != .dead && (s.queueKey p.2 p.2.desc).any (fun d => d / 16 == k / 16) && s.widx p.2 ≥ 2 ^ 48 then t.queueState p.1 .dead p.2.r
    else t) s

/-- Splits n bytes at an address into pieces of at most 16 bytes that lie in one granule each. -/
def pieces (a n : Nat) : List (Nat × Nat) :=
  if n = 0 then []
  else (List.range ((a + n - 1) / 16 - a / 16 + 1)).map (fun i =>
    let lo := max a (16 * (a / 16 + i))
    (lo, min (a + n) (16 * (a / 16 + i) + 16) - lo))

/-- What follows a write at a key: QUEUE_DEAD where it brought a WIDX in HBM to its end (R41). -/
def State.written (s : State) (k : Nat) : State := if isHbm k then s.deadQueues k else s

end Sys2Proof.Machine
end

