-- ==== Sys2Proof/Machine/UnitAccess.lean ====
section
/-! DEFINITION. The accesses of the units of IOD-A: Marshal, Podium, Prefix Index and queue consumers (R374). -/

namespace Sys2Proof.Machine

open Sys2Proof

/-! ### Accesses of the units of IOD-A: Marshal, Podium, Prefix Index (R374) -/

/-- The keys of n bytes that a unit reaches through a capability for a virtual device, granule by granule, or the cause. Number 32 stands
for supervisor code that runs for no virtual device; spaces 1 to 5 are reached. -/
def State.unitKeys (s : State) (vd : Nat) (c : Cap) (a n perms kind : Nat) (use : Use) : Except Byte (List (Nat × Nat × Bool)) :=
  match c.check a n perms kind with
  | .error f => .error f
  | .ok (sp, x) =>
    if sp > 5 then .error (BitVec.ofNat 8 (0x18 + kind))
    else (pieces x n).foldl (fun acc p =>
      match acc with
      | .error f => .error f
      | .ok ks =>
        match s.keyOf s.cur (if vd < 32 then some vd else none) (vd ≥ 32) sp p.1 p.2 use 0x34 with
        | .error f => .error f
        | .ok (k, cm) => .ok (ks ++ [(k, p.2, cm)])) (.ok [])

/-- A unit's read of n bytes: the bytes, or the cause of the failed access. -/
def State.unitRead (s : State) (vd : Nat) (c : Cap) (a n : Nat) : Except Byte (List Byte) :=
  match s.unitKeys vd c a n permLoad kindRead Use.read with
  | .error f => .error f
  | .ok ks =>
    match ks.find? (fun p => s.anyBad p.1 p.2.1) with
    | some p => .error (class3 p.1 0)
    | none => .ok (ks.flatMap (fun p => s.rd p.1 p.2.1))

/-- A unit's write: the state after it, or the cause; a failed write leaves everything as it was (R374). -/
def State.unitWrite (s : State) (vd : Nat) (c : Cap) (a : Nat) (bs : List Byte) : Except Byte State :=
  match s.unitKeys vd c a bs.length permStore kindWrite Use.store with
  | .error f => .error f
  | .ok ks =>
    let go := ks.foldl (fun (acc : Except Byte (State × List Byte)) p =>
      match acc with
      | .error f => .error f
      | .ok (t, rest) =>
        let mine := plain (rest.take p.2.1)
        match t.refuses p.1 mine p.2.2 1 with
        | some f => .error f
        | none => .ok ((t.applyWrite p.1 mine p.2.2).written p.1, rest.drop p.2.1)) (.ok (s, bs))
    match go with
    | .error f => .error f
    | .ok (t, _) => .ok t

/-- One aligned word that a unit changes by an atomic (R62), and what it was; or the cause. Its capability is checked as an atomic's (R122). -/
def State.unitAtomic (s : State) (vd : Nat) (c : Cap) (a n : Nat) (f : Nat → Nat) : Except Byte (Nat × State) :=
  match s.unitKeys vd c a n (permLoad + permStore) kindAtomic Use.store with
  | .error e => .error e
  | .ok ks =>
    match ks with
    | (k, _, cm) :: _ =>
      if s.anyBad k n then .error (class3 k 2)
      else
        let old := leNat (s.rd k n)
        let bs := plain (leBytes n (f old))
        match s.refuses k bs cm 2 with
        | some e => .error e
        | none => .ok (old, (s.applyWrite k bs cm).written k)
    | [] => .error 0x14

/-- The log record of a unit's failed access (R32, R374): unit 0 Marshal, 1 Podium, 2 Prefix Index. -/
def State.unitFail (s : State) (unit : Nat) (cause : Byte) (a : Nat) : State := s.log 7 unit cause.toNat (BitVec.ofNat 64 a)

/-- A unit's write that goes on, with a log record, where it fails. -/
def State.unitTry (s : State) (unit vd : Nat) (c : Cap) (a : Nat) (bs : List Byte) : State :=
  match s.unitWrite vd c a bs with
  | .ok t => t
  | .error f => s.unitFail unit f a

end Sys2Proof.Machine
end

