-- ==== Sys2Proof/Machine/TaskBase.lean ====
section
/-! DEFINITION. The Marshal's record of a task and its TCB in memory: state codes, state writes, ready lists, accepted trigger runs
(R60, R62, R64, R68, R73, R74). -/

namespace Sys2Proof.Machine

open Sys2Proof

/-- The STATE codes of R64. -/
def TaskState.code : TaskState → Nat
  | .unlaunched => 0
  | .waiting => 1
  | .ready => 2
  | .running => 3
  | .frozen => 4
  | .cancelling => 5
  | .retired => 6
  | .faulted => 7
  | .cancelled => 8
  | .armed => 9
  | .runningTrig => 10

def TaskState.final : TaskState → Bool
  | .retired => true
  | .faulted => true
  | .cancelled => true
  | _ => false

/-- Fields of SCHED (R60). -/
def schedPrio (w : Word) : Nat := bitsOf w.toNat 0 3
def schedGang (w : Word) : Nat := bitsOf w.toNat 8 6
def schedFpol (w : Word) : Nat := bitsOf w.toNat 14 2
def schedHeat (w : Word) : Nat := bitsOf w.toNat 16 8
def schedHv (w : Word) : Bool := w.getLsbD 24
def schedSib (w : Word) : Nat := bitsOf w.toNat 25 6
/-- The gang size: 0 and 1 mean one region (R60). -/
def Task.gang (t : Task) : Nat := max 1 (schedGang t.sched)

/-- The address of a TCB field: TCB capabilities hold their TCB at the cursor. -/
def Task.at_ (t : Task) (off : Nat) : Nat := t.tcb.cursor.toNat + off

def State.task (s : State) (id : Nat) : Option Task := AMap.find s.tasks id
def State.putTask (s : State) (id : Nat) (t : Task) : State := { s with tasks := AMap.put s.tasks id t }
def State.onTask (s : State) (id : Nat) (f : Task → Task) : State :=
  match s.task id with
  | none => s
  | some t => s.putTask id (f t)

/-- The Marshal's write of STATE, one atomic on DEP (R62, R64); a failed write is logged and changes nothing (R374). A task restored from another
module has no TCB here (R359). -/
def State.writeState (s : State) (t : Task) (st : TaskState) : State :=
  if !t.tcb.tag then s
  else match s.unitAtomic t.vd t.tcb (t.at_ 0x10) 8 (fun w => w - bitsOf w 16 4 * 65536 + st.code * 65536) with
  | .ok (_, s') => s'
  | .error f => s.unitFail 0 f (t.at_ 0x10)

/-- A task takes a state, in the Marshal's record and in the TCB (R64). -/
def State.taskState (s : State) (id : Nat) (st : TaskState) : State :=
  match s.task id with
  | none => s
  | some t => (s.writeState t st).putTask id { t with st := st }

/-! ### Ready lists (R68) -/

def State.onVd (s : State) (v : Nat) (f : Vd → Vd) : State :=
  match AMap.find s.vds v with
  | none => s
  | some d => { s with vds := AMap.put s.vds v (f d) }

def Vd.list (d : Vd) (p : Nat) : List Nat := d.ready.getD p []
def Vd.setList (d : Vd) (p : Nat) (l : List Nat) : Vd :=
  { d with ready := (List.range 8).map (fun i => if i == p then l else d.list i) }

/-- A task leaves every ready list. -/
def Vd.drop (d : Vd) (id : Nat) : Vd := { d with ready := (List.range 8).map (fun i => (d.list i).filter (· != id)) }

/-- A task joins the ready list of its priority, at its tail or its head (R68, R124). -/
def State.enlist (s : State) (id : Nat) (head : Bool) : State :=
  match s.task id with
  | none => s
  | some t =>
    s.onVd t.vd (fun d =>
      let l := (d.list (schedPrio t.sched)).filter (· != id)
      d.setList (schedPrio t.sched) (if head then id :: l else l ++ [id]))

/-- A task becomes READY: it joins the tail of its list, before those of greater task id that became READY in the same fc (R64, R68). -/
def State.makeReady (s : State) (id : Nat) : State :=
  let s1 := (s.taskState id .ready).onTask id (fun t => { t with since := s.now })
  match s1.task id with
  | none => s1
  | some t =>
    s1.onVd t.vd (fun d =>
      let l := (d.list (schedPrio t.sched)).filter (· != id)
      let later := fun (j : Nat) => j > id && (match s1.task j with | some u => u.st == .ready && u.since == s.now | none => false)
      d.setList (schedPrio t.sched) (l.filter (fun j => !later j) ++ [id] ++ l.filter later))

/-- A trigger's run accepted by the binding to a task: one more run is queued, and an armed task becomes READY (R73, R74). -/
def State.acceptRun (s : State) (id : Nat) (n : Nat) : State :=
  if n == 0 then s
  else
    let s' := s.onTask id (fun t => { t with runs := t.runs + n })
    match s'.task id with
    | some t => if t.st == .armed then s'.makeReady id else s'
    | none => s'

end Sys2Proof.Machine
end

