-- ==== Sys2Proof/Machine/Ports.lean ====
section
/-! DEFINITION. APPLY: what each kind of request does at its port as one transaction, and how a fault it meets is reported
(R122, R130, R143, R148, R157, R167, R176, R177, R236, R274 to R282, R286). A request that cannot be applied yet stays where it is. -/

namespace Sys2Proof.Machine

open Sys2Proof

/-- The cause that an issuer takes for a fault its port finds: a stream engine 0x64 or 0x65 (the engine of an EREQ is element 128 and
above, and its atomics keep the causes of R274), a BTE 0x6A or 0x6B, a Pacer or a GT or PT element the port's own cause (R122, R130, R143, R336,
R338, R339). -/
def causeFor (i : Issuer) (c : Byte) : Byte :=
  let cls := c.toNat / 16
  match i with
  | .engine .. => if cls == 3 then 0x64 else if cls == 7 then 0x65 else c
  | .elem _ _ e => if e < 128 then c else if cls == 3 then 0x64 else if cls == 7 && c.toNat % 4 == 2 then 0x65 else c
  | .bte .. => if cls == 3 then 0x6A else if cls == 7 then 0x6B else c
  | _ => c

/-- The request leaves its queue. -/
def State.dropReq (s : State) (q : Req) : State := { s with reqs := s.reqs.filter (fun r => r.stamp != q.stamp) }

/-- The response of a request (R167). -/
def State.respond (s : State) (q : Req) (bytes : List Byte) (flag : Bool) : State :=
  { s with resps := s.resps ++ [{ stamp := q.stamp, issuer := q.issuer, va := q.va, port := q.port, bytes := bytes, flag := flag, cause := none }] }

/-- The report of a request's fault (R169, R236). -/
def State.report (s : State) (q : Req) (c : Byte) : State :=
  { s with resps := s.resps ++ [{ stamp := q.stamp, issuer := q.issuer, va := q.va, port := q.port, bytes := [], flag := false,
                                  cause := some (causeFor q.issuer c) }] }

/-- A plain write's completion: one that crosses a link returns a completion, and so does a chunk's write, an EREQ store and a peer's
or host's request (R15, R20, R47, R338). -/
def needsDone (q : Req) : Bool :=
  match q.issuer with
  | .bte .. => true
  | .elem .. => true
  | .host _ => !q.posted
  | .peer _ => true
  | _ => match q.port with
    | .host => true
    | .peer _ => true
    | _ => false

def State.finish (s : State) (q : Req) : State := if needsDone q then s.respond q [] true else s

/-- The compute die of a region (R7). -/
def dieOf (r : Nat) : Nat := r / 32

/-- The compute die beside a port: a bank's own, or the one whose stack holds the CHU (R9). -/
def portDie : Port → Option Nat
  | .bank r _ => some (dieOf r)
  | .chu n => some (n / 64)
  | _ => none

/-- The die from which an issuer's requests set out; none: an I/O die. -/
def State.issuerDie (s : State) : Issuer → Option Nat
  | .pacer r => some (dieOf r)
  | .engine r _ _ => some (dieOf r)
  | .elem r _ _ => some (dieOf r)
  | .bte c _ => (AMap.find s.btes c).map (fun b => b.bte / 8)
  | _ => none

/-- A die link that cannot recover lies between a die and a port (R122). -/
def State.cut (s : State) (from_ : Option Nat) (p : Port) : Bool :=
  let there := portDie p
  from_ != there && (s.deadDies.any (fun d => some d == from_ || some d == there))

/-- Why a link does not carry a request from a die to a port (R18, R22, R122). -/
def State.portFault (s : State) (from_ : Option Nat) (p : Port) : Option Byte :=
  if s.cut from_ p then some 0xBD
  else match p with
    | .host => if s.isaudUp then none else some 0xB0
    | .peer r =>
      if s.deadPeers.contains r then some 0xBF
      else if !s.celcen0Up && !s.celcen1Up then some 0xBC
      else none
    | _ => none

/-- Why a link does not carry a request (R18, R22, R122). -/
def State.linkFault (s : State) (q : Req) : Option Byte :=
  match q.issuer with
  | .bank _ => none
  | .window _ => none
  | i => s.portFault (s.issuerDie i) q.port

/-- TVAL of a fault by its class: class 11 shows the link, others the address (R122). -/
def State.tvalOf (s : State) (p : Port) (va : Word) (c : Byte) : Word :=
  if c == 0xBD then 3
  else if c.toNat / 16 == 11 then
    match p with
    | .host => 0
    | .bank _ _ => 3
    | .chu _ => 3
    | .aperture => 3
    | _ => if (s.pathOf p).getD false then 2 else 1
  else va


/-- Requests that a link event faults: each leaves its queue with a report (R18, R22, R122). -/
def State.failReqs (s : State) (p : Req → Bool) (c : Byte) : State :=
  (s.reqs.filter p).foldl (fun t q => (t.dropReq q).report q c) s

/-- Why a contribution cannot reach its window (R22, R122). -/
def State.rpFault (s : State) : Option Byte :=
  if !s.celcen0Up && !s.celcen1Up then some 0xBC else if !s.comm.treeUp then some 0xBE else none

/-- Full/empty after a write (R143, R239, R319): only an SRAM granule has the bit. -/
def State.feAfter (s : State) (k n : Nat) (a : FeAct) : State :=
  if isSram k then
    match a with
    | .keep => s
    | .setEmpty => (granulesOf k n).foldl (fun t g => t.setFull (16 * g) false) s
    | _ => (granulesOf k n).foldl (fun t g => t.setFull (16 * g) true) s
  else s

/-- A word of n bytes changed by an atomic at its port: the state and the old word, or the fault (R148, R274). -/
def State.atomicAt (s : State) (k n : Nat) (cmpr : Bool) (f : Nat → Nat) : Except Byte (State × Nat) :=
  let old := leNat (s.rd k n)
  let bs := plain (leBytes n (f old))
  match s.refuses k bs cmpr 2 with
  | some c => .error c
  | none => .ok (s.applyWrite k bs cmpr, old)

/-- The new word of an AMO (R274). -/
def amoNew (op : AmoOp) (w : Nat) (v cmp : Word) (size : Nat) : Nat :=
  let x := BitVec.ofNat 64 w
  let r : Word := match op with
    | .add => x + v
    | .and => x &&& v
    | .or => x ||| v
    | .xor => x ^^^ v
    | .min => if x.slt v then x else v
    | .max => if x.slt v then v else x
    | .swap => v
    | .cas => if x == cmp then v else x
  r.toNat % 256 ^ size

/-- The new word of one reduction step (R198, R200, R275). -/
def redNew (op : RedOp) (size : Nat) (rmode : BitVec 3) (v : Word) (w : Nat) : Nat :=
  let c := v.toNat % 256 ^ size
  let f := if size == 2 then bf16 else fp32
  match op with
  | .fadd => redAdd f (rmode.getLsbD 2) (rmode.getLsbD 1) (rmode.getLsbD 0) w c
  | .fmax => redExt f true (rmode.getLsbD 1) (rmode.getLsbD 0) w c
  | .fmin => redExt f false (rmode.getLsbD 1) (rmode.getLsbD 0) w c
  | .iadd => (w + c) % 256 ^ size

/-- One reduction step at the port, with its fault reported (R275). -/
def State.redStep (s : State) (q : Req) (op : RedOp) (size : Nat) (rmode : BitVec 3) (v : Word) : State :=
  match s.atomicAt q.key size q.cmpr (redNew op size rmode v) with
  | .error c => s.report q c
  | .ok (t, _) => t.finish q

/-- Ports hold 16 open groups at a CHU and 4 at a DRU; baton slots 64 and 16 (R143, R276). -/
def groupLimit (k : Nat) : Nat := if isSram k then 4 else 16
def batonLimit (k : Nat) : Nat := if isSram k then 16 else 64

/-- The contributions that a group holds for its next ranks are applied, and the group closes after the last (R276). -/
def State.runGroup (s : State) (key : Nat) : Nat → State
  | 0 => s
  | fuel + 1 =>
    match s.groups.find? (fun g => g.key == key) with
    | none => s
    | some g =>
      if g.next == g.n then { s with groups := s.groups.filter (fun (x : Group) => x.key != key) }
      else
        match g.held.find? (fun h => h.1 == g.next) with
        | none => s
        | some (_, q) =>
          let g' := { g with next := g.next + 1, held := g.held.filter (fun h => h.1 != g.next) }
          let s1 : State := { s with groups := s.groups.map (fun x => if x.key == key then g' else x) }
          let s2 := match q.act with
            | .redOrd op size rm v _ _ => s1.redStep q op size rm v
            | _ => s1
          s2.runGroup key fuel

/-- An .ord contribution at its port (R276); none where the port cannot open a group. -/
def State.applyOrd (s : State) (q : Req) (rank n : Nat) : Option State :=
  match s.groups.find? (fun g => g.key == q.key) with
  | some g =>
    if g.n != n || rank < g.next || g.held.any (fun h => h.1 == rank) then some (s.report q 0x0E)
    else
      let g' := { g with held := g.held ++ [(rank, q)] }
      some (({ s with groups := s.groups.map (fun x => if x.key == q.key then g' else x) } : State).runGroup q.key 66)
  | none =>
    if (s.groups.filter (fun g => portOf g.key == portOf q.key)).length ≥ groupLimit q.key then none
    else some (({ s with groups := s.groups ++ [{ key := q.key, n := n, next := 0, held := [(rank, q)] }] } : State).runGroup q.key 66)

/-! ### Barriers (R278, R279) -/

def State.isBarrier (s : State) (k : Nat) : Bool := s.liveAt k && s.w1 k / 2 ^ 56 == 1

/-- A barrier's words: ARRIVED, COUNT and GEN. -/
def barArrived (w0 : Nat) : Nat := bitsOf w0 32 32
def barCount (w0 : Nat) : Nat := bitsOf w0 0 32
def barWord0 (arrived count : Nat) : Nat := arrived * 2 ^ 32 + count
/-- Word 1 with GEN raised by 1 modulo 2^32. -/
def barNextGen (w1 : Nat) : Nat := w1 / 2 ^ 32 * 2 ^ 32 + (w1 + 1) % 2 ^ 32

/-- Why a granule is no barrier. -/
def State.barFault (s : State) (k : Nat) : Option Byte := (s.objFault k).or (if s.isBarrier k then none else some 0x70)

/-- n arrivals: the barrier after them and the GEN before, or the fault (R279). -/
def State.arrive (s : State) (k n : Nat) (cmpr : Bool) : Except Byte (State × Nat) :=
  match s.barFault k with
  | some c => .error c
  | none =>
    let w0 := s.w0 k
    let w1 := s.w1 k
    let a := barArrived w0 + n
    if a > barCount w0 then .error 0x71
    else
      (if a == barCount w0 then s.setObj k (barWord0 0 (barCount w0)) (barNextGen w1) cmpr else s.setObj k (barWord0 a (barCount w0)) w1 cmpr).map
        (fun t => (t, w1 % 2 ^ 32))

/-- One participant leaves (R279). -/
def State.barDrop (s : State) (k : Nat) (cmpr : Bool) : Except Byte State :=
  match s.barFault k with
  | some c => .error c
  | none =>
    let w0 := s.w0 k
    let w1 := s.w1 k
    let c := barCount w0 - 1
    if c < barArrived w0 then .error 0x71
    else if c == 0 then (s.setObj k 0 0 cmpr).map (·.setLive k false)
    else if barArrived w0 == c then s.setObj k (barWord0 0 c) (barNextGen w1) cmpr
    else s.setObj k (barWord0 (barArrived w0) c) w1 cmpr

/-! ### Batons (R280, R281) -/

def batonHeld (w0 : Nat) : Bool := w0.testBit 40
def batonWord0 (region : Nat) (task : BitVec 32) : Nat := 2 ^ 40 + region % 256 * 2 ^ 32 + task.toNat
def batonQlen (w1 : Nat) : Nat := bitsOf w1 0 32
def batonScope (w1 : Nat) : Nat := bitsOf w1 32 3
/-- A memory baton is malformed (R280). -/
def batonBad (w0 w1 : Nat) : Bool :=
  bitsOf w0 41 23 != 0 || bitsOf w1 35 5 != 0 || bitsOf w1 40 24 != 0 || batonQlen w1 != 0 || batonScope w1 > 4

/-- Why a granule is no baton (R280, R281). -/
def State.batonFault (s : State) (k : Nat) : Option Byte :=
  (s.objFault k).or
    (if s.liveAt k then (if s.w1 k / 2 ^ 56 == 2 then none else some 0x74)
     else if batonBad (s.w0 k) (s.w1 k) then some 0x7E
     else none)

/-- The wait of the Pacer that issued a request. -/
def State.pacerWait (s : State) (i : Issuer) (w : Wait) : State :=
  match i with
  | .pacer r => s.onRegion r (fun g => { g with wait := w })
  | _ => s

/-- An acquire: the grant names the holder's region. -/
def State.acquire (s : State) (q : Req) (region : Nat) (task : BitVec 32) : State :=
  match s.batonFault q.key with
  | some c => s.report q c
  | none =>
    let w0 := s.w0 q.key
    let w1 := s.w1 q.key
    if !batonHeld w0 then
      match s.setObj q.key (batonWord0 region task) w1 q.cmpr with
      | .error c => s.report q c
      | .ok t => t.respond q [BitVec.ofNat 8 region] true
    else if s.liveAt q.key then
      match s.setObj q.key w0 (w1 + 1) q.cmpr with
      | .error c => s.report q c
      | .ok t => { t with batons := t.batons.map (fun b => if b.key == q.key / 16 then { b with fifo := b.fifo ++ [q] } else b) }
    else s.pacerWait q.issuer (.monitor (q.key / 16))

/-- A release: the holder clears HELD, and a port baton grants the head of its FIFO (R281). -/
def State.releaseBaton (s : State) (k region : Nat) (task : BitVec 32) (cmpr : Bool) : Except Byte State :=
  match s.batonFault k with
  | some c => .error c
  | none =>
    let w1 := s.w1 k
    if s.w0 k != batonWord0 region task then .error 0x75
    else
      match (s.batons.find? (fun b => b.key == k / 16)).map (·.fifo) with
      | some (q :: rest) =>
        let (holder, reg) := match q.act with
          | .batonAcq r t => (batonWord0 r t, r)
          | _ => (0, 0)
        (s.setObj k holder (w1 - 1) cmpr).map (fun t =>
          ({ t with batons := t.batons.map (fun b => if b.key == k / 16 then { b with fifo := rest } else b) } : State).respond q [BitVec.ofNat 8 reg] true)
      | _ => s.setObj k 0 w1 cmpr

/-- The least number below n that is not in the list. -/
def leastFree (used : List Nat) (n : Nat) : Option Nat := (List.range n).find? (fun i => !used.contains i)

def State.allocBaton (s : State) (q : Req) (scope : Nat) : State :=
  if s.liveAt q.key then s.report q 0x7F
  else if let some c := s.metaFault q.key then s.report q c
  else
    let used := (s.batons.filter (fun b => portOf (16 * b.key) == portOf q.key)).map (·.slot)
    match leastFree used (batonLimit q.key) with
    | none => s.respond q [1] true
    | some i =>
      match s.setObj q.key 0 (2 * 2 ^ 56 + i * 2 ^ 40 + scope * 2 ^ 32) q.cmpr with
      | .error c => s.report q c
      | .ok t =>
        let s1 := t.setLive q.key true
        ({ s1 with batons := s1.batons ++ [{ key := q.key / 16, slot := i, fifo := [] }] } : State).respond q [0] true

def State.freeBaton (s : State) (k region : Nat) (task : BitVec 32) (cmpr : Bool) : Except Byte State :=
  if let some c := s.objFault k then .error c
  else if !(s.liveAt k && s.w1 k / 2 ^ 56 == 2) then .error 0x74
  else if batonHeld (s.w0 k) && s.w0 k != batonWord0 region task then .error 0x75
  else if batonQlen (s.w1 k) > 0 then .error 0x0F
  else
    (s.setObj k 0 0 cmpr).map (fun t => { t.setLive k false with batons := t.batons.filter (fun b => b.key != k / 16) })

/-! ### Triggers (R73, R286) -/

def State.isTrigger (s : State) (k : Nat) : Bool := s.liveAt k && s.w1 k / 2 ^ 56 == 3

/-- A post: accepted by the committed binding, or latched in PEND (R73). -/
def State.post (s : State) (k : Nat) (cmpr : Bool) : Except Byte State :=
  if let some c := s.objFault k then .error c
  else if !s.isTrigger k then .error 0x78
  else
    match s.trigs.find? (fun t => t.key == k / 16) with
    | some t => .ok (s.acceptRun t.task 1)
    | none =>
      let w := s.w0 k
      if w % 65536 == 0xFFFF then .error 0x79 else s.setObj k (w + 1) (s.w1 k) cmpr

/-! ### Reduction windows (R180, R201, R277) -/

/-- The reduction of a window's element, on codes of its format. -/
def Window.step (w : Window) (a b : Nat) : Nat :=
  let op := match w.op with | 0 => RedOp.fadd | 1 => .fmax | 2 => .fmin | _ => .iadd
  redNew op (if w.fmt == 2 then 2 else 4) w.rmode (BitVec.ofNat 64 b) a

/-- ReduceTree over contributions in rank order (R201). -/
def reduceTree (f : Nat → Nat → Nat) : Nat → List Nat → Nat
  | 0, cs => cs.headD 0
  | fuel + 1, cs =>
    if cs.length ≤ 1 then cs.headD 0
    else
      let m := 2 ^ (Nat.log2 (2 * cs.length - 1) - 1)
      f (reduceTree f fuel (cs.take m)) (reduceTree f fuel (cs.drop m))

/-! ### Bank rows (R163, R191 to R194) -/

/-- A request has reached the level of a scope below DEV (R166). -/
def stageReached (scope : Nat) (st : Stage) : Bool :=
  match st with
  | .cq .. => scope == 0
  | .rq _ => scope ≤ 1
  | .dq _ => scope ≤ 2
  | .pq => scope ≤ 2
  | .rp _ => scope ≤ 2
  | _ => true

/-- The requests that region r's Pacer made before a stamp have reached a scope (R170, R271). -/
def State.earlierAt (s : State) (r after : Nat) (scope : Option Nat) : Bool :=
  match scope with
  | none => true
  | some sc =>
    s.reqs.all (fun q => q.owners.all (fun o => o.1 != .pacer r || o.2 ≥ after) || stageReached sc q.stage) &&
      s.resps.all (fun q => q.issuer != .pacer r || q.stamp ≥ after || sc < 3 || (q.cause.isNone && (sc == 3 || !q.flag)))

def Bank.size (b : Bank) : Nat := if b.wfmt == 2 then 2 else 1

/-- The values of x as the command's capability reaches them, or the cause. -/
def State.bankX (s : State) (b : Bank) : Except Byte (List Byte) :=
  ({ s with cur := b.region } : State).unitRead b.vd b.xv b.xv.cursor.toNat (2 * b.k)

/-- y of a row from its bytes and those of x, with the sums of an MX element (R163). -/
def bankDot (b : Bank) (w x : List Byte) : Nat :=
  mxOutput ((List.range b.k).map (fun j =>
    (fmtValue b.wfmt (fieldLe w (b.size * j) b.size)).mul (fmtValue 2 (fieldLe x (2 * j) 2)))) none

/-- The CHU's row: none while the command's release waits (R273). -/
def State.bankRow (s : State) (q : Req) (id : Nat) : Option State :=
  match AMap.find s.banks id with
  | none => some s
  | some b =>
    if !s.earlierAt b.region b.after b.scope then none
    else if s.anyBad q.key (b.k * b.size) then some (s.report q (class3 q.key 0))
    else match s.bankX b with
      | .error f => some (s.report q f)
      | .ok x => some (s.respond q (leBytes 4 (bankDot b (s.rd q.key (b.k * b.size)) x)) false)

/-! ### APPLY -/

/-- A response or a fault report. -/
def State.answer (s : State) (q : Req) (r : Except Byte State) : State :=
  match r with
  | .error c => s.report q c
  | .ok t => t.finish q

/-- The write of a request: refused, or applied with its full/empty effect. -/
def State.applyStore (s : State) (q : Req) (bs : List (Byte × Byte)) (fe : FeAct) : State :=
  if (fe == .setEmpty || (fe == .setFull && match q.issuer with | .pacer _ => true | _ => false)) && s.liveAt q.key then s.report q 0x7C
  else
    match (if fe == .waitEmpty then s.metaFault q.key else none).or (s.refuses q.key bs q.cmpr 1) with
    | some c => s.report q c
    | none => ((s.applyWrite q.key bs q.cmpr).feAfter q.key bs.length fe).finish q

/-- The effect of a request that its port serves, or none where it must wait at the head of its granule's queue (R176, R276, R319).
The request has left its queue. -/
def State.applyAct (s : State) (q : Req) : Option State :=
  match q.act with
  | .read n => some (if s.anyBad q.key n then s.report q (class3 q.key 0) else s.respond q (s.rd q.key n) false)
  | .readFe n take =>
    if s.liveAt q.key then some (s.report q 0x7C)
    else if s.anyBadMeta q.key n then some (s.report q (class3 q.key 3))
    else if s.anyBad q.key n then some (s.report q (class3 q.key 0))
    else if s.fullAt q.key then some ((if take then s.setFull q.key false else s).respond q (s.rd q.key n) false)
    else none
  | .write bs fe =>
    if fe == .waitEmpty && !s.liveAt q.key && !s.anyBadMeta q.key 16 && s.fullAt q.key then none else some (s.applyStore q bs fe)
  | .writeDone bs =>
    some (match s.refuses q.key (plain bs) q.cmpr 1 with
      | some c => s.report q c
      | none => (s.applyWrite q.key (plain bs) q.cmpr).respond q [] true)
  | .capRead =>
    some (if s.anyBadMeta q.key 16 then s.report q (class3 q.key 3)
      else if s.anyBad q.key 16 then s.report q (class3 q.key 0) else s.respond q (s.rd q.key 16) (s.tagAt q.key))
  | .capWrite bs tag =>
    match s.refuses q.key (plain bs) q.cmpr 1 with
    | some c => some (s.report q c)
    | none =>
      let s1 := s.applyWrite q.key (plain bs) q.cmpr
      some ((if isSram q.key || isHbm q.key then s1.setTag q.key tag else s1).finish q)
  | .amo op size v cmp =>
    match s.atomicAt q.key size q.cmpr (fun w => amoNew op w v cmp size) with
    | .error c => some (s.report q c)
    | .ok (t, old) => some (t.respond q (leBytes size old) true)
  | .red op size rm v => some (s.redStep q op size rm v)
  | .redOrd _ _ _ _ rank n => s.applyOrd q rank n
  | .waitv v =>
    if s.liveAt q.key then some (s.report q 0x7D)
    else if s.anyBadMeta q.key 8 then some (s.report q (class3 q.key 3))
    else if s.anyBad q.key 8 then some (s.report q (class3 q.key 0))
    else if s.rdWord q.key != v.toNat then some (s.respond q (s.rd q.key 8) false)
    else some (s.pacerWait q.issuer (.monitor (q.key / 16)))
  | .barInit count =>
    some (if s.liveAt q.key then s.report q 0x7F
      else match s.metaFault q.key with
        | some c => s.report q c
        | none => s.answer q ((s.setObj q.key count (2 ^ 56) q.cmpr).map (·.setLive q.key true)))
  | .barArrive n =>
    match s.arrive q.key n q.cmpr with
    | .error c => some (s.report q c)
    | .ok (t, g) => some (t.respond q (leBytes 8 g) true)
  | .barWait g =>
    match s.barFault q.key with
    | some c => some (s.report q c)
    | none =>
      if s.w1 q.key % 2 ^ 32 != g.toNat then some (s.respond q (leBytes 8 (s.w1 q.key)) false)
      else some (s.pacerWait q.issuer (.monitor (q.key / 16)))
  | .barDrop => some (s.answer q (s.barDrop q.key q.cmpr))
  | .batonAlloc scope => some (s.allocBaton q scope)
  | .batonAcq r t =>
    match q.issuer with
    | .elem .. =>
      -- a memory baton that is held keeps a GT element's request at the head of its granule until a write frees it (R281, R336)
      if (s.batonFault q.key).isNone && !s.liveAt q.key && batonHeld (s.w0 q.key) then none else some (s.acquire q r t)
    | _ => some (s.acquire q r t)
  | .batonRel r t => some (s.answer q (s.releaseBaton q.key r t q.cmpr))
  | .batonFree r t => some (s.answer q (s.freeBaton q.key r t q.cmpr))
  | .trigPost => some (s.answer q (s.post q.key q.cmpr))
  | .derived id idxs =>
    match AMap.find s.decls id with
    | none => some (s.report q 0x84)
    | some d =>
      if d.lost then some (s.report q 0x8B)
      else
        let p := portNum q.port
        some { s with decls := AMap.put s.decls id { d with mq := AMap.put d.mq p (AMap.findD d.mq p [] ++ [.reply q.stamp q.issuer q.va q.port idxs]) } }
  | .dsync ids =>
    match ids with
    | id :: _ =>
      match AMap.find s.decls id with
      | none => some (s.respond q [] true)
      | some d =>
        if d.lost then some (s.report q 0x8F)
        else
          let p := portNum q.port
          some { s with decls := AMap.put s.decls id { d with mq := AMap.put d.mq p (AMap.findD d.mq p [] ++ [.syncReply q.stamp q.issuer q.port]) } }
    | [] => some (s.respond q [] true)
  | .claim n =>
    -- key: WIDX, with RIDX in the same block (R9, R284)
    let w := s.rdWord q.key
    let bs := plain (leBytes 8 (w + 1))
    match (s.refuses q.key bs q.cmpr 2).or (if s.anyBad (q.key + 0x40) 8 then some (class3 q.key 2) else none) with
    | some c => some (s.report q c)
    | none =>
      if w - s.rdWord (q.key + 0x40) ≥ n then some (s.respond q (leBytes 8 (2 ^ 64 - 1)) true)
      else some ((s.applyWrite q.key bs q.cmpr).respond q (leBytes 8 w) true)
  | .orBit bit =>
    some (s.answer q ((s.atomicAt q.key 1 q.cmpr (fun b => b ||| 2 ^ (bit % 8))).map (·.1)))
  | .failChunk bit cause =>
    -- key: NFAIL at 0x200 of the object, FIRST beside it (R152)
    some (s.answer q (match s.atomicAt q.key 8 q.cmpr (fun n => n + 1) with
      | .error c => .error c
      | .ok (t, _) => (t.atomicAt (q.key + 8) 8 q.cmpr (fun f => min f (bit * 256 + cause))).map (·.1)))
  | .wred _ _ _ => none
  | .combined _ v size who =>
    -- key: the home element; va: the key of the completion word, which rises in the same transaction (R180); a fault changes nothing and is
    -- reported to the contributors of this device, as one of their stores (the model's choice, log 64)
    some (match (s.atomicAt q.key size q.cmpr (fun _ => v.toNat)).bind (fun r => r.1.atomicAt q.va.toNat 8 q.cmpr (fun n => n + 1)) with
      | .error c => who.foldl (fun t w => t.report { q with issuer := w.1, va := w.2.1 } c) s
      | .ok (u, _) => u.written q.va.toNat)
  | .bankRow id _ => s.bankRow q id

/-- The act may change bytes at the request's key. -/
def Act.mutates : Act → Bool
  | .read _ => false
  | .readFe _ _ => false
  | .capRead => false
  | .waitv _ => false
  | .barWait _ => false
  | .derived _ _ => false
  | .dsync _ => false
  | .wred _ _ _ => false
  | .bankRow _ _ => false
  | _ => true

/-- The bytes that an act touches at the request's key. -/
def Act.width : Act → Nat
  | .read n => n
  | .readFe n _ => n
  | .write bs _ => bs.length
  | .writeDone bs => bs.length
  | .amo _ n _ _ => n
  | .red _ n _ _ => n
  | .redOrd _ n _ _ _ _ => n
  | .waitv _ => 8
  | .claim _ => 8
  | .orBit _ => 1
  | _ => 16

/-- The granules that a request touches. -/
def Req.granules (q : Req) : List Nat := granulesOf q.key q.act.width

/-- A request that waits at the head of its granule's queue keeps later requests to that granule behind it: an .ord contribution (R276); what
waits for a granule to become full, empty or free does not (R176). -/
def Req.holdsTurn (q : Req) : Bool := match q.act with | .redOrd .. => true | _ => false

/-- A request that may change a queue's WIDX: one that changes bytes of HBM (R41). -/
def Req.mayClaim (q : Req) : Bool := isHbm q.key && q.act.mutates

/-- APPLY of a request: none where it must wait; otherwise it leaves its queue and takes effect, or meets a failed link. -/
def State.applyReq (s : State) (q : Req) : Option State :=
  match s.linkFault q with
  | some c => some ((s.dropReq q).report q c)
  | none => ((s.dropReq q).applyAct q).map (fun t => if q.mayClaim then t.deadQueues q.key else t)

/-! ### SERVE (R157, R158, R174) -/

/-- The partials of a port that an entry changes. -/
def Decl.entryParts (d : Decl) (i old new : Nat) : List Nat :=
  if d.expr == 5 then (d.bin old).toList ++ (d.bin new).toList else [i]

/-- The head of a declaration's queue at a port takes effect; one that meets an uncorrectable accumulator loses the declaration (R161). -/
def State.serve (s : State) (p id : Nat) : State :=
  match AMap.find s.decls id with
  | none => s
  | some d =>
    match AMap.findD d.mq p [] with
    | [] => s
    | m :: rest =>
      let d1 := { d with mq := AMap.put d.mq p rest }
      match m with
      | .entry i old new =>
        let d2 := if (d1.entryParts i old new).any (fun j => (d1.part p j).spoilt) then { d1 with lost := true } else d1.serveEntry p i old new
        { s with decls := AMap.put s.decls id d2 }
      | .rescan i => { s with decls := AMap.put s.decls id (s.rescan d1 p i) }
      | .reply st iss va port idxs =>
        let d2 := if idxs.any (fun i => (d1.part p i).spoilt) then { d1 with lost := true } else d1
        { s with
          decls := AMap.put s.decls id d2,
          resps := s.resps ++
            [{ stamp := st, issuer := iss, va := va, port := port, flag := false, bytes := idxs.flatMap (fun i => (d2.part p i).bytes),
               cause := if d2.lost then some 0x8B else none }] }
      | .syncReply st iss port =>
        { s with
          decls := AMap.put s.decls id d1,
          resps := s.resps ++ [{ stamp := st, issuer := iss, va := 0, port := port, flag := true, bytes := [], cause := if d1.lost then some 0x8F else none }] }

/-- A port serves n entries of a declaration. -/
def State.serveAll (s : State) (p id : Nat) : Nat → State
  | 0 => s
  | n + 1 => (s.serve p id).serveAll p id n

/-- A declaration ends at every port; the reads that its ports have accepted are answered first (R160, R161, R174, R175). An entry calls for
one rescan at most. -/
def State.dropDecl (s : State) (id : Nat) : State :=
  match AMap.find s.decls id with
  | none => s
  | some d =>
    let t := d.mq.foldl (fun t m => t.serveAll m.1 id (2 * m.2.length)) s
    { t with decls := AMap.del t.decls id }

end Sys2Proof.Machine
end

