-- ==== Sys2Proof/Machine/Order.lean ====
section
/-! DEFINITION. The ordering machine: creating requests, PASS, ADMIT and APPLY, and the conditions of fences and releases
(R165 to R170, R181). -/

namespace Sys2Proof.Machine

open Sys2Proof

/-! ### Creating requests -/

/-- One request of an access: key, address, merging flag and act. -/
structure NewReq where
  key : Nat
  va : Word
  port : Port
  cmpr : Bool
  act : Act
deriving DecidableEq, Repr

/-- Requests enter a stage in order; their stamps (R165, R167). -/
def State.enter (s : State) (i : Issuer) (st : Stage) (rs : List NewReq) : State × List Nat :=
  let qs := (List.range rs.length).zipWith (fun j (r : NewReq) =>
    ({ stamp := s.stamp + j, born := s.now, issuer := i, stage := st, port := r.port, key := r.key, va := r.va, cmpr := r.cmpr, posted := false,
       act := r.act } : Req)) rs
  ({ s with reqs := s.reqs ++ qs, stamp := s.stamp + rs.length }, qs.map (·.stamp))

/-- A Pacer's requests enter RQ (R167). -/
def State.enterPacer (s : State) (rs : List NewReq) : State × List Nat := s.enter (.pacer s.cur) (.rq s.cur) rs

/-- The current region's Pacer waits for responses (R235). -/
def State.await (s : State) (c : Cont) (ids : List Nat) : State := s.onReg (fun g => { g with wait := .resp c ids [] })

/-- A stop waits for the instruction once its transaction is made (R131, R256). -/
def Cont.isHeld : Cont → Bool
  | .held _ => true
  | .spawnClaim .. => true
  | .spawnBody .. => true
  | .spawnLast .. => true
  | .view _ _ _ k => k.isHeld
  | .deferred k => k.isHeld
  | .failed _ _ _ k => k.isHeld
  | _ => false

/-- A fault that the instruction's port finds is a deferred store fault (R256). -/
def Cont.isDeferred : Cont → Bool
  | .deferred _ => true
  | .spawnClaim .. => true
  | .spawnBody .. => true
  | .spawnLast .. => true
  | .failed _ _ _ k => k.isDeferred
  | _ => false

/-- The X register that the instruction writes when it completes. -/
def Cont.dest : Cont → Option XReg
  | .toX d _ _ => some d
  | .spawnClaim d _ _ => some d
  | .spawnBody d _ _ _ => some d
  | .spawnLast d _ => some d
  | .held k => k.dest
  | .deferred k => k.dest
  | .failed _ _ _ k => k.dest
  | _ => none

/-- A response has brought a fault: the fault of the instruction's earliest request is kept (R235). -/
def Cont.fail (c : Cont) (stamp : Nat) (cause : Byte) (tval : Word) : Cont :=
  match c with
  | .failed st f v k => if stamp < st then .failed stamp cause tval k else .failed st f v k
  | k => .failed stamp cause tval k

/-! ### PASS and ADMIT (R167) -/

/-- The stage that a level and unit name on the current region: a unit of CQ is slot × 128 + FIFO, where FIFOs 0 to 7 are the stream engines'
and 8 + e is that of GT or PT element e (log 20); a unit of DQ is a die. -/
def levelStage (cur : Nat) (l : Level) (unit : Nat) : Stage :=
  match l with
  | .cq => .cq cur (unit / 128) (unit % 128)
  | .rq => .rq cur
  | .dq => .dq unit

/-- The stage after a level. -/
def nextStage : Stage → Option Stage
  | .cq r _ _ => some (.rq r)
  | .rq r => some (.dq (dieOf r))
  | .dq _ => some .pq
  | _ => none

/-- The request at the head of a stage's FIFO for a port. -/
def State.headOf (s : State) (st : Stage) (p : Port) : Option Req := s.reqs.find? (fun q => q.stage == st && q.port == p)

/-- A request moves to the tail of a stage. -/
def State.moveReq (s : State) (q : Req) (st : Stage) : State :=
  { s with reqs := s.reqs.filter (fun r => r.stamp != q.stamp) ++ [{ q with stage := st }] }

/-- PASS: the head of a FIFO moves to the next level; nothing where the FIFO is empty. -/
def State.pass (s : State) (l : Level) (unit : Nat) (p : Port) : State :=
  match s.headOf (levelStage s.cur l unit) p with
  | none => s
  | some q =>
    match nextStage q.stage with
    | none => s
    | some st => s.moveReq q st

/-- Whether the head of an inbound FIFO may be admitted (R16, R21, R167): a host request waits for its issuer's earlier posted writes,
a peer request for every earlier request of its issuer. -/
def State.admissible (s : State) (q : Req) : Bool :=
  match q.stage with
  | .inHost t => !s.reqs.any (fun e => e.stage == .pq && e.issuer == .host t && e.posted)
  | .inPeer r => !s.reqs.any (fun e => e.stage == .pq && e.issuer == .peer r)
  | _ => false

def inStage (fromPeer : Bool) (n : Nat) : Stage := if fromPeer then .inPeer n else .inHost n

/-- ADMIT. -/
def State.admitReq (s : State) (fromPeer : Bool) (n : Nat) : State :=
  match s.reqs.find? (fun q => q.stage == inStage fromPeer n) with
  | none => s
  | some q => if s.admissible q then s.moveReq q .pq else s

/-! ### APPLY -/

/-- The first request that its port can apply, with granules whose queues are held up by an earlier request (R167, R176, R276). -/
def State.tryPast (s : State) (shut : List Nat) : List Req → Option State
  | [] => none
  | q :: qs =>
    if q.granules.any shut.contains then s.tryPast shut qs
    else match s.applyReq q with
      | some t => some t
      | none => s.tryPast (if q.holdsTurn then q.granules ++ shut else shut) qs

/-- The first request that its port can apply (R167, R176, R276). -/
def State.tryApply (s : State) (qs : List Req) : Option State := s.tryPast [] qs

/-- The requests that wait at a port, oldest first. -/
def State.portReqs (s : State) (p : Port) : List Req := s.reqs.filter (fun q => q.stage == .pq && q.port == p)

/-- APPLY(p): requests of PQ in order; one that waits for its granule lets those behind it pass (R176) but as R276 says. The slot table decides when a
class is served and, since some waiting class always is, never whether (R146, log 9). -/
def State.applyPort (s : State) (p : Port) : State :=
  (s.tryApply (s.portReqs p)).getD s

/-! ### COMBINE (R180, R201, R277) -/

/-- The contributions to an element, oldest first: each rank's first one. -/
def State.contribution (s : State) (w e rank : Nat) : Option (Req × Word) :=
  s.reqs.findSome? (fun q => match q.stage, q.act with
    | .rp v, .wred r f x => if v == w && f == e && r == rank then some (q, x) else none
    | _, _ => none)

/-- COMBINE: with a contribution of every rank, the merged value enters PQ of the home port as one request. -/
def State.combineWin (s : State) (w e : Nat) : State :=
  match AMap.find s.windows w with
  | none => s
  | some win =>
    let cs := (List.range win.n).map (fun r => s.contribution w e r)
    if cs.all Option.isSome && win.n > 0 then
      let ps := cs.filterMap id
      let size := if win.fmt == 2 then 2 else 4
      let v := reduceTree win.step 64 (ps.map (fun p => p.2.toNat % 256 ^ size))
      let s1 := { s with reqs := s.reqs.filter (fun q => !ps.any (fun p => p.1.stamp == q.stamp)) }
      (s1.enter (.window w) .pq
        [{ key := win.home + size * e, va := BitVec.ofNat 64 win.completion, port := portOf (win.home + size * e), cmpr := false,
           act := .combined e (BitVec.ofNat 64 v) size
             (ps.filterMap (fun p => if p.1.issuer.here then some (p.1.issuer, p.1.va, p.1.stamp) else none)) }]).1
    else s

/-! ### Fences and releases (R166, R169, R170) -/

/-- Every request of the issuers, as far as a merged result that carries it on, has reached a scope's level; at DEV and SYS every fault report is back, and at
SYS every completion of HOST and PEER writes (R166, R169). -/
def State.reached (s : State) (who : Issuer → Bool) (scope : Nat) : Bool :=
  s.reqs.all (fun q => !q.owners.any (fun o => who o.1) || stageReached scope q.stage) &&
    s.resps.all (fun r => !who r.issuer || scope < 3 || (r.cause.isNone && (scope == 3 || !r.flag)))

/-- The current region's Pacer may release at a scope; CFG acts as RGN (R166, R169). -/
def State.released (s : State) (scope : Nat) : Bool := s.reached (fun i => i == .pacer s.cur) scope

/-- Everything that a task of region r has issued, Pacer and Field (R66, R72). -/
def ofRegion (r : Nat) (i : Issuer) : Bool :=
  match i with
  | .pacer q => q == r
  | .engine q _ _ => q == r
  | .elem q _ _ => q == r
  | _ => false

/-- A qualified instruction's release at its own scope: kind bit 1 of OK (R170, R206). -/
def State.qualReleased (s : State) (sc : BitVec 3) (ok : BitVec 2) : Bool := !ok.getLsbD 1 || s.released sc.toNat

/-- The waiting of a FENCE (R169): an acquire waits for nothing more, since the Pacer's loads and atomics complete in order. -/
def State.fenceReady (s : State) (scope kind : Nat) : Bool :=
  match kind with
  | 1 => true
  | 2 => s.released scope
  | _ => s.released (max scope 3)

/-! ### An agent's own port, reached at once -/

/-- The requests of one port in the stages of a list, farthest first, are applied in order, each as far as its port lets it: what the agent
that reads next at that port finds applied, because requests of one issuer to one port keep their order (R168). -/
def State.flush (s : State) (sts : List Stage) (p : Port) : Nat → State
  | 0 => s
  | fuel + 1 =>
    match s.tryApply (sts.flatMap (fun st => s.reqs.filter (fun q => q.stage == st && q.port == p))) with
    | none => s
    | some t => t.flush sts p fuel

/-- The stages that a Pacer's requests pass, farthest first. -/
def pacerStages (r : Nat) : List Stage := [.pq, .dq (dieOf r), .rq r]

end Sys2Proof.Machine
end

