-- ==== Sys2Proof/Machine/Access.lean ====
section
/-! DEFINITION. A Pacer's access to memory: the checks of R234 and R255 in their order, the split into one piece per granule (R165), and
direct reads and writes by instructions that complete only when they have made them (R216, R235). -/

namespace Sys2Proof.Machine

open Sys2Proof

/-- One granule's piece of an access: key, address as the instruction used it, size, merging flag. -/
structure Piece where
  key : Nat
  va : Word
  size : Nat
  cmpr : Bool
deriving DecidableEq, Repr

/-- A task-mode access whose bytes include DBGDADDR raises 0xA9 at the boundary that follows (R122, R126). -/
def State.noteAccess (s : State) (a : Word) (n : Nat) : State :=
  let p := s.reg.pacer
  if !p.mode && p.dbgctl.getLsbD 2 && decide (a.toNat ≤ p.dbgdaddr.toNat) && decide (p.dbgdaddr.toNat < a.toNat + n) then
    s.onReg (fun g => { g with dataBrk := some a })
  else s

/-- The key and number of bytes that a plain load of n bytes at an RWIN address reads: of the completion word of an open window, at offset
0xFF_FFF8, which is all that an LDQ there finds (R241, R277). -/
def State.windowKey (s : State) (a n : Nat) : Except Byte (Nat × Nat) :=
  match s.windowAt a with
  | none => .error 0x2F
  | some w =>
    let o := a % 2 ^ 24
    if o == 0xFFFFF8 && n == 16 then .ok (w.completion, 8)
    else if o ≥ 0xFFFFF8 && o + n ≤ 2 ^ 24 then .ok (w.completion + (o - 0xFFFFF8), n)
    else .error 0x0E

/-- Translation of every piece (R234, step 4). -/
def State.locate (s : State) (sp x a n : Nat) (use : Use) : Except Byte (List Piece) :=
  if sp == 6 then (s.windowKey x n).map (fun k => [{ key := k.1, va := BitVec.ofNat 64 a, size := k.2, cmpr := false }])
  else (pieces x n).foldl (fun acc p =>
    match acc with
    | .error f => .error f
    | .ok ps =>
      match s.keyOf s.cur s.vd s.sup sp p.1 p.2 use 0x34 with
      | .error f => .error f
      | .ok (k, cm) => .ok (ps ++ [{ key := k, va := BitVec.ofNat 64 (a + (p.1 - x)), size := p.2, cmpr := cm }])) (.ok [])

/-- The pieces of an access of n bytes at a through c: capability, space, translation (R234, R255). The alignment check comes first and
is the instruction's own. The space resolved to is returned as well. -/
def State.access (s : State) (c : Cap) (a n perms kind : Nat) (spaces : List Nat) (use : Use) : Except Byte (Nat × List Piece) :=
  match c.check a n perms kind with
  | .error f => .error f
  | .ok (sp, x) =>
    if !spaces.contains sp then .error 0x0E
    else (s.locate sp x a n use).map (fun ps => (sp, ps))

/-- The pieces of n bytes at a that an agent other than a Pacer reaches through c, in the spaces of a list: for region r, virtual device
vd, with or without supervisor rights; bad: the agent's cause for an uncorrectable page-table entry (R141, R144, R373). A space outside
the list gives the class-1 cause of a missing permission. -/
def State.piecesFor (s : State) (r : Nat) (vd : Option Nat) (sup : Bool) (c : Cap) (a n perms kind : Nat) (spaces : List Nat) (use : Use)
    (bad : Byte) : Except Byte (List Piece) :=
  match c.check a n perms kind with
  | .error f => .error f
  | .ok (sp, x) =>
    if !spaces.contains sp then .error (BitVec.ofNat 8 (0x18 + kind))
    else
      (pieces x n).foldl (fun acc p =>
        match acc with
        | .error f => .error f
        | .ok ps =>
          match s.keyOf r vd sup sp p.1 p.2 use bad with
          | .error f => .error f
          | .ok (k, cm) => .ok (ps ++ [{ key := k, va := BitVec.ofNat 64 (a + (p.1 - x)), size := p.2, cmpr := cm }])) (.ok [])

/-- An access fault: class 0 shows the instruction word, every other class the first byte's address (R122). -/
def State.failAt (s : State) (i : Instr) (a : Word) (cause : Byte) : Out :=
  if cause.toNat < 0x10 then s.fail0 cause i
  else s.fail cause (s.tvalOf (if cause == 0xB0 then .host else .peer (a.toNat / 2 ^ 48 % 256)) a cause)

/-- An instruction completes whose transaction its port refuses: the fault is a deferred store fault (R236, R256). -/
def State.deferred (s : State) (c : Byte) (tval : Word) : Out := .next ((s.pendFault s.cur c tval false).advance)

/-- The same for an instruction with a result, for which no rule gives a value (log 79). -/
def State.deferredTo (s : State) (d : XReg) (c : Byte) (tval : Word) : Out :=
  let (w, t) := (s.pendFault s.cur c tval false).drawWord
  .next (t.wx d w).advance

/-- The caches after the walks of an access (R145). -/
def State.walked (s : State) (sp x n : Nat) : State :=
  if sp == 3 then (pieces x n).foldl (fun t p => t.fillTlb t.vd p.1) s else s

/-! ### Direct accesses of the current region's Pacer: its own earlier requests to the same port come first (R168) -/

/-- What the Pacer finds at the ports of an access. -/
def State.flushFor (s : State) (ps : List Piece) : State :=
  ps.foldl (fun t p => t.flush (pacerStages t.cur) (portOf p.key) 10000) s

/-- A direct read: the bytes, or the cause. -/
def State.readNow (s : State) (ps : List Piece) : Except Byte (List Byte) :=
  match ps.findSome? (fun p => (s.portFault (some (dieOf s.cur)) (portOf p.key)) <|> if s.anyBad p.key p.size then some (class3 p.key 0) else none) with
  | some f => .error f
  | none => .ok (ps.flatMap (fun p => s.rd p.key p.size))

/-- A direct write, piece by piece; the first refusal ends it. -/
def State.writeNow (s : State) (ps : List Piece) (bs : List Byte) : Except Byte State :=
  let go := ps.foldl (fun (acc : Except Byte (State × List Byte)) p =>
    match acc with
    | .error f => .error f
    | .ok (t, rest) =>
      match (t.portFault (some (dieOf t.cur)) (portOf p.key)) <|> t.refuses p.key (plain (rest.take p.size)) p.cmpr 1 with
      | some f => .error f
      | none => .ok ((t.applyWrite p.key (plain (rest.take p.size)) p.cmpr).written p.key, rest.drop p.size)) (.ok (s, bs))
  go.map (·.1)

def memSpaces : List Nat := [1, 2, 3]
/-- The spaces of a record that an instruction reads where its section gives no space check (R234). -/
def recordSpaces : List Nat := [1, 2, 3, 4, 5]
def loadSpaces : List Nat := [1, 2, 3, 4, 5, 6, 7]
def storeSpaces : List Nat := [1, 2, 3, 4, 5, 7]

/-- A direct read of n bytes at a through c with the checks of R234: the state with earlier requests applied, and the bytes. -/
def State.fetchData (s : State) (c : Cap) (a n perms : Nat) (spaces : List Nat) : Except Byte (State × List Byte) :=
  match s.access c a n perms kindRead spaces Use.read with
  | .error f => .error f
  | .ok (_, ps) =>
    let t := s.flushFor ps
    (t.readNow ps).map (fun bs => (t.noteAccess (BitVec.ofNat 64 a) n, bs))

/-- The first piece of an access at which a port finds cause f. -/
def State.foundAt (s : State) (ps : List Piece) (f : Byte) : Option Piece :=
  ps.find? (fun p => s.portFault (some (dieOf s.cur)) (portOf p.key) == some f || (f == class3 p.key 0 && s.anyBad p.key p.size) ||
    (f == class3 p.key 3 && s.anyBadMeta p.key p.size))

/-- A direct read of n bytes at a by an instruction of chapter 13 has failed: precisely in one of its checks, or at a port, where done ends the
instruction with the cause and the granule's address as a deferred store fault (R256, log 79). -/
def State.failRead (s : State) (i : Instr) (c : Cap) (a n perms : Nat) (spaces : List Nat) (f : Byte) (done : State → Byte → Word → Out) : Out :=
  match s.access c a n perms kindRead spaces Use.read with
  | .error _ => s.failAt i (BitVec.ofNat 64 a) f
  | .ok (_, ps) =>
    let t := s.flushFor ps
    match t.foundAt ps f with
    | none => s.failAt i (BitVec.ofNat 64 a) f
    | some p => done t f (t.tvalOf (portOf p.key) (BitVec.ofNat 64 (p.va.toNat / 16 * 16)) f)

/-- The same for data that LOAD alone lets through, with a result in X(d). -/
def State.failData (s : State) (i : Instr) (d : XReg) (c : Cap) (a n : Nat) (f : Byte) : Out :=
  s.failRead i c a n permLoad memSpaces f (fun t => t.deferredTo d)

end Sys2Proof.Machine
end

