-- ==== Sys2Proof/Machine/Journal.lean ====
section
/-! DEFINITION. Queues and the accepted-command journal: descriptors and slots in memory, journal entries, acceptance and outcomes
(R36 to R44, R56 to R58). -/

namespace Sys2Proof.Machine

open Sys2Proof

/-! ### Rings and capability tables -/

/-- The key of a queue's slot for a sequence number (R37). -/
def State.slotLoc (s : State) (q : Queue) (seq : Nat) : Option (Nat × Bool) := s.queueLoc q (q.ring + 64 * (seq % q.slots))
def State.slotKey (s : State) (q : Queue) (seq : Nat) : Option Nat := (s.slotLoc q seq).map (·.1)

/-- The PHASE that a packet of a sequence number carries (R37). -/
def Queue.phase (q : Queue) (seq : Nat) : Nat := (seq / q.slots + 1) % 2

/-- A capability-table entry with its tag (R42); the table lies in supervisor HBM, whose addresses are physical (log 14). -/
def State.capEntry (s : State) (q : Queue) (ix : Nat) : Cap :=
  let k := hbmKey (q.capt + 16 * ix)
  Cap.ofBytes (s.rd k 16) (s.tagAt k)

/-- The granule of an entry holds uncorrectable data or metadata, so that the access that reads the entry faults (R8, R130, R374). -/
def State.entryBad (s : State) (q : Queue) (ix : Nat) : Bool :=
  s.anyBad (hbmKey (q.capt + 16 * ix)) 16 || NSet.has s.badMeta (hbmKey (q.capt + 16 * ix) / 16)

/-- Entry ix with its cursor set to base + offset (R42). -/
def State.capAt (s : State) (q : Queue) (ix offset : Nat) : Cap :=
  let c := s.capEntry q ix
  c.withCursor (BitVec.ofInt 64 (c.base + offset))

/-! ### The journal (R56 to R58) -/

/-- CRC-32 of IEEE 802.3, one bit at a time (R57). -/
def crc32Bits : Nat → Nat → Nat
  | 0, c => c
  | k + 1, c => crc32Bits k (if c % 2 == 1 then (c / 2) ^^^ 0xEDB88320 else c / 2)
def crc32 (bs : List Byte) : Nat := (bs.foldl (fun c b => crc32Bits 8 (c ^^^ b.toNat)) 0xFFFFFFFF) ^^^ 0xFFFFFFFF

/-- The packet's bytes with PHASE taken as 0 (R57). -/
def noPhase (bs : List Byte) : List Byte := bs.take 63 ++ (bs.drop 63).map (· &&& 0x7F)

/-- The words of a packet (R44). -/
def pktWord (bs : List Byte) (i : Nat) : Nat := fieldLe bs (8 * i) 8

/-- Room in the journal (R57), less the room of the SKIP entry of each Q.SKIP packet that has been accepted and not carried out. -/
def State.room (s : State) : Int :=
  let skips : Nat := s.queues.foldl (fun (n : Nat) p => n + if p.2.kind == 3 then (p.2.pend.filter (fun x => fieldLe x.bytes 0 1 == 0x22)).length else 0) 0
  (2 ^ s.jnl.log2j : Nat) - ((s.jnl.wr : Int) - s.jnl.rd) - s.jnl.resv - (skips : Int)

/-- The 32 bytes of an entry (R57). -/
def entryBytes (pos seq qid kind slot res opc id digest vd cause : Nat) : List Byte :=
  leBytes 8 pos ++ leBytes 8 (seq % 2 ^ 48 + qid * 2 ^ 48 + kind * 2 ^ 60) ++
    leBytes 8 (slot % 65536 + res * 2 ^ 16 + opc * 2 ^ 24 + id % 2 ^ 32 * 2 ^ 32) ++
    leBytes 8 (digest + vd * 2 ^ 32 + cause * 2 ^ 40)

/-- An entry written whole at the next position, and JNL_WR advanced (R57). -/
def State.journalRaw (s : State) (qid seq kind slot res opc id digest vd cause : Nat) : State :=
  let s1 := s.put (apKey (0x01000000 + 32 * (s.jnl.wr % 2 ^ s.jnl.log2j))) (entryBytes s.jnl.wr seq qid kind slot res opc id digest vd cause)
  { s1 with jnl := { s1.jnl with wr := s1.jnl.wr + 1 } }

/-- The virtual device that a queue's entries name: 0 for the control queue (R57). -/
def Queue.jvd (q : Queue) : Nat := if q.kind == 3 then 0 else q.vd

/-- The entry of a packet of queue qid. -/
def State.journal (s : State) (qid seq kind res cause id : Nat) (pkt : List Byte) : State :=
  match s.queue qid with
  | none => s
  | some q => s.journalRaw qid seq kind (seq % q.slots) res (fieldLe pkt 0 1) id (crc32 (noPhase pkt)) q.jvd cause

/-- UTAG of a packet (R44). -/
def utag (bs : List Byte) : Nat := bitsOf (pktWord bs 0) 32 32

/-- The identifier of a packet's entries: the task id of a LAUNCH, UTAG otherwise (R57). -/
def Pkt.id (p : Pkt) : Nat := p.taskId

/-- Outcome codes (R57). -/
def resOk : Nat := 0
def resFault : Nat := 1
def resCancelled : Nat := 2
def resCrossed : Nat := 3
def resCapfault : Nat := 4
def resBadpkt : Nat := 5
def resPartial : Nat := 6
def resStopped : Nat := 8
def resNotfound : Nat := 9
def resBusy : Nat := 10
def resWrongState : Nat := 11
def resBadarg : Nat := 12

/-- The outcome entry of a packet, which leaves the queue; its reservation is used. -/
def State.outcomeOf (s : State) (qid : Nat) (p : Pkt) (res cause : Nat) : State :=
  let s1 := s.journal qid p.seq 1 res cause p.id p.bytes
  let s2 := { s1 with jnl := { s1.jnl with resv := s1.jnl.resv - 1 } }
  match s2.queue qid with
  | none => s2
  | some q => s2.putQueue qid { q with pend := q.pend.filter (fun x => x.seq != p.seq) }

/-- The outcome OK of a control packet, if it still waits for one. -/
def State.destroyed (s : State) (c : Nat × Nat) : State :=
  match (s.queue c.1).bind (fun q => q.pend.find? (fun x => x.seq == c.2)) with
  | none => s
  | some p => s.outcomeOf c.1 p resOk 0

/-- A queue that Q.DESTROY has closed is gone after its last outcome, and the outcomes of the control packets that closed it follow (R49,
R58). -/
def State.closeQueue (s : State) (qid : Nat) : State :=
  match s.queue qid with
  | none => s
  | some q =>
    if q.destroying.isEmpty || !q.pend.isEmpty then s
    else q.destroying.foldl State.destroyed { s with queues := AMap.del s.queues qid }

/-- The outcome entry of an accepted packet (R57, R58). -/
def State.outcome (s : State) (qid seq res cause : Nat) : State :=
  match (s.queue qid).bind (fun q => q.pend.find? (fun p => p.seq == seq)) with
  | none => s
  | some p => (s.outcomeOf qid p res cause).closeQueue qid

/-- Every earlier packet of the queue has its outcome entry (R44 ORDERED, R45 NOTIFY). -/
def Queue.earlierDone (q : Queue) (seq : Nat) : Bool := q.pend.all (fun p => p.seq ≥ seq)

end Sys2Proof.Machine
end

