-- ==== Sys2Proof/Machine/Bte.lean ====
section
/-! DEFINITION. Block transfer engines: commands, chunks, completion bits and outcomes (R47, R48, R54, R128, R130, R151, R152, R270,
R271). A command's number is the stamp at which it was handed over. -/

namespace Sys2Proof.Machine

open Sys2Proof

/-- Chunks per row, and the chunks of the command (R47). -/
def Bte.perRow (b : Bte) : Nat := (b.rowlen + 511) / 512
def Bte.chunks (b : Bte) : Nat := b.rows * b.perRow
/-- The row, the offset in the row and the length of chunk j (R47). -/
def Bte.row (b : Bte) (j : Nat) : Nat := j / b.perRow
def Bte.col (b : Bte) (j : Nat) : Nat := 512 * (j % b.perRow)
def Bte.len (b : Bte) (j : Nat) : Nat := min 512 (b.rowlen - b.col j)

/-- A direct command needs ENGINE as well (R42, R270). -/
def Bte.perm (b : Bte) (p : Nat) : Nat := if b.queue.isSome then p else p + permEngine
/-- Spaces that a BTE reaches; SLICE needs an issuing region. -/
def Bte.spaces (b : Bte) : List Nat := if b.queue.isSome then [2, 3, 4, 5] else [1, 2, 3, 4, 5]

/-- A BTE's cause for a fault of its checks: class 1, 2 and 3 have causes of class 6 (R122, R128). -/
def bteCause (c : Byte) : Byte :=
  match c.toNat / 16 with
  | 1 => 0x68
  | 2 => 0x69
  | 3 => 0x6A
  | _ => c

def State.onBte (s : State) (id : Nat) (f : Bte → Bte) : State :=
  match AMap.find s.btes id with
  | none => s
  | some b => { s with btes := AMap.put s.btes id (f b) }

/-- The virtual device for which a command translates: none for supervisor commands on a region that no virtual device owns (R373). -/
def Bte.owner (b : Bte) : Option Nat := if b.sup then none else some b.vd

def State.btePieces (s : State) (b : Bte) (c : Cap) (off n perm kind : Nat) (spaces : List Nat) (use : Use) : Except Byte (List Piece) :=
  s.piecesFor b.region b.owner b.sup c ((c.cursor.toNat + off) % 2 ^ 64) n (b.perm perm) kind spaces use 0x34

/-- The key of n bytes of the completion object, and whether its page stores compressed; in SRAM and HBM only, and SLICE only for a command that a
region issued (R152). -/
def State.objKey (s : State) (b : Bte) (off n : Nat) : Option (Nat × Bool) :=
  match s.btePieces b b.cmpl off n permStore kindWrite (b.spaces.filter (· ≤ 3)) Use.store with
  | .ok (p :: _) => some (p.key, p.cmpr)
  | _ => none

/-- Source and destination of the whole command overlap (R122 0x6E; log 15): the address ranges in one space. -/
def Bte.overlaps (b : Bte) : Bool :=
  b.mode != 2 && b.src.space == b.dst.space &&
    decide (b.src.cursor.toNat < b.dst.cursor.toNat + (b.rows - 1) * b.dstride + b.rowlen) &&
    decide (b.dst.cursor.toNat < b.src.cursor.toNat + (b.rows - 1) * b.sstride + b.rowlen)

/-! ### Starting a command (R44 ORDERED, R48, R54, R271) -/

/-- Two commands of one queue: the same copy queue, or the same region's direct queue at one BTE. -/
def Bte.sameQueue (b c : Bte) : Bool :=
  match b.queue, c.queue with
  | some p, some q => p.1 == q.1
  | none, none => b.region == c.region && b.bte == c.bte
  | _, _ => false

/-- The issuer's requests from before the command have reached its scope (R170, R271). -/
def State.bteReleased (s : State) (b : Bte) : Bool := s.earlierAt b.region b.after b.scope

/-- The command's virtual device runs. -/
def State.bteRuns (s : State) (b : Bte) : Bool :=
  !b.stopped && (b.sup || match AMap.find s.vds b.vd with | some d => !d.stopped | none => true)

def State.bteReady (s : State) (id : Nat) (b : Bte) : Bool :=
  s.bteRuns b && s.bteReleased b &&
    s.btes.all (fun p => p.1 ≥ id || !b.sameQueue p.2 || p.2.started) &&
    match b.queue with
    | none => true
    | some (q, seq) =>
      match s.queue q with
      | some qu => !(bitsOf (pktWord b.body 0) 8 1 == 1) || qu.earlierDone seq
      | none => true

/-- Bit i of the completion object as the BTE reads it; one that cannot be reached or read correctly counts as clear, and the chunk's own OR
then meets the fault (R130, R152). -/
def State.bteBit (s : State) (b : Bte) (i : Nat) : Bool :=
  match s.objKey b (i / 8) 1 with
  | some (k, _) => !s.anyBad k 1 && (Memory.get s.mem k).toNat.testBit (i % 8)
  | none => false

/-- The command starts; with RESUME, chunks whose bit is set count as landed (R48). -/
def State.bteStart (s : State) (id : Nat) : State :=
  match AMap.find s.btes id with
  | none => s
  | some b =>
    let have_ := if b.resume then b.todo.filter (fun j => s.bteBit b (b.firstbit + j)) else []
    { s with btes := AMap.put s.btes id { b with started := true, todo := b.todo.filter (fun j => !have_.contains j), landed := b.landed ++ have_ } }

/-- The queue of a command among those of its BTE: a copy queue's QID, or a region's direct queue (R48, R271). -/
def Bte.key (b : Bte) : Nat := match b.queue with | some (q, _) => q | none => 4096 + b.region

/-- A command that has a chunk to give: it has started, or may. -/
def State.bteCan (s : State) (id : Nat) (b : Bte) : Bool := !b.todo.isEmpty && if b.started then s.bteRuns b else s.bteReady id b

/-- The queue that BTE n takes its next chunk from: of those that have one, the next after the last one served (R48). -/
def State.bteTurn (s : State) (n : Nat) : Option Nat :=
  let last := AMap.findD s.bteLast n 8191
  let after := fun (k : Nat) => (k + 8191 - last) % 8192
  (s.btes.filter (fun p => p.2.bte == n && s.bteCan p.1 p.2)).foldl (fun (m : Option Nat) p =>
    match m with
    | none => some p.2.key
    | some k => if after p.2.key < after k then some p.2.key else some k) none

/-! ### The end of a command (R48) -/

/-- The failed chunk of lowest index. -/
def Bte.worst (b : Bte) : Option (Nat × Nat) :=
  b.failed.foldl (fun (m : Option (Nat × Nat)) c => match m with
    | none => some c
    | some d => if c.1 < d.1 then some c else m) none

/-- The command ends once no chunk is left; a direct command writes no journal entry. A command that VD.STOP halted stays listed for
VD.EXPORT (R55). -/
def State.bteEnd (s : State) (id : Nat) : State :=
  match AMap.find s.btes id with
  | none => s
  | some b =>
    if !b.flight.isEmpty || !b.started || !(b.todo.isEmpty || b.stopped) then s
    else
      let s1 := if b.stopped then s else { s with btes := AMap.del s.btes id }
      match b.queue with
      | none => s1
      | some (q, seq) =>
        if b.stopped then s1.outcome q seq resStopped 0
        else match b.worst with
          | some (_, c) => s1.outcome q seq resPartial c
          | none => s1.outcome q seq resOk 0

/-! ### Chunks -/

def State.putChunk (s : State) (id j : Nat) (c : ChunkIo) : State := s.onBte id (fun b => { b with flight := AMap.put b.flight j c })

/-- Requests of a chunk enter DQ of the BTE's die (R167). -/
def State.enterBte (s : State) (b : Bte) (id j : Nat) (rs : List NewReq) : State × List Nat := s.enter (.bte id j) (.dq (b.bte / 8)) rs

/-- A chunk is over. -/
def State.chunkOver (s : State) (id j : Nat) (cause : Option Nat) : State :=
  (s.onBte id (fun b =>
    { b with
      flight := AMap.del b.flight j,
      landed := if cause.isNone then b.landed ++ [j] else b.landed,
      failed := match cause with | some c => b.failed ++ [(j, c)] | none => b.failed })).bteEnd id

/-- A failed chunk adds 1 to NFAIL and applies its minimum to FIRST; with no reachable object there is nothing to write (R152). -/
def State.chunkFail (s : State) (id j cause : Nat) : State :=
  match AMap.find s.btes id with
  | none => s
  | some b =>
    match s.objKey b 0x200 16 with
    | none => s.chunkOver id j (some cause)
    | some (k, cm) =>
      let (s1, ids) := s.enterBte b id j
        [{ key := k, va := BitVec.ofNat 64 k, port := portOf k, cmpr := cm, act := .failChunk (b.firstbit + j) cause }]
      s1.putChunk id j { phase := .failing, reads := [], got := [], writes := ids, cause := some cause }

/-- A chunk fails in a check of R122's classes 1 and 2, whose cause the command's record keeps behind 0x68 and 0x69 (R373). -/
def State.chunkRefused (s : State) (id j : Nat) (c : Byte) : State :=
  (s.onBte id (fun b => { b with detail := if bteCause c == c then b.detail else AMap.put b.detail j c.toNat })).chunkFail id j (bteCause c).toNat

/-- The sectors that a chunk is reading of a block that is stored compressed fail their decompression check (R151). -/
def State.spoilChunk (s : State) (id j : Nat) : State :=
  match AMap.find s.btes id with
  | none => s
  | some b =>
    match AMap.find b.flight j, s.btePieces b b.src (b.row j * b.sstride + b.col j) (b.len j) permLoad kindRead b.spaces Use.read with
    | some c, .ok ps =>
      if c.phase == .reading && c.cause.isNone && ps.any (fun p => isHbm p.key && NSet.has s.merge (p.key / 2048)) then
        s.putChunk id j { c with cause := some 0x6D }
      else s
    | _, _ => s

/-- The bit of a chunk whose bytes have reached their ports is set by one atomic OR (R152). -/
def State.chunkBit (s : State) (id j : Nat) : State :=
  match AMap.find s.btes id with
  | none => s
  | some b =>
    match s.objKey b ((b.firstbit + j) / 8) 1 with
    | none => s.chunkFail id j 0x6C
    | some (k, cm) =>
      let (s1, ids) := s.enterBte b id j
        [{ key := k, va := BitVec.ofNat 64 k, port := portOf k, cmpr := cm, act := .orBit (b.firstbit + j) }]
      s1.putChunk id j { phase := .bit, reads := [], got := [], writes := ids, cause := none }

/-- The bytes of a chunk enter its destination, granule by granule; SRAM granules become full (R143). -/
def State.chunkWrite (s : State) (id j : Nat) (bs : List Byte) : State :=
  match AMap.find s.btes id with
  | none => s
  | some b =>
    match s.btePieces b b.dst (b.row j * b.dstride + b.col j) (b.len j) permStore kindWrite b.spaces Use.store with
    | .error c => s.chunkRefused id j c
    | .ok ps =>
      let rs := (ps.foldl (fun (acc : List NewReq × List Byte) p =>
        (acc.1 ++ [{ key := p.key, va := p.va, port := portOf p.key, cmpr := p.cmpr, act := .write (plain (acc.2.take p.size)) .setFull }],
          acc.2.drop p.size)) ([], bs)).1
      let (s1, ids) := s.enterBte b id j rs
      s1.putChunk id j { phase := .writing, reads := [], got := [], writes := ids, cause := none }

/-- VALUE repeated little-endian (R47). -/
def fillBytes (v : Word) (n : Nat) : List Byte := (List.range n).map (fun i => BitVec.ofNat 8 (v.toNat / 256 ^ (i % 8)))

/-- A chunk starts: it reads its source, or writes its fill (R47, R48). -/
def State.chunkStart (s : State) (id j : Nat) : State :=
  match AMap.find s.btes id with
  | none => s
  | some b0 =>
    let s := s.onBte id (fun b => { b with todo := b.todo.filter (· != j) })
    let b := { b0 with todo := b0.todo.filter (· != j) }
    let n := b.len j
    let s := s.putChunk id j { phase := .reading, reads := [], got := [], writes := [], cause := none }
    if (s.objKey b 0 1).isNone || (s.objKey b 0x200 16).isNone then s.chunkOver id j (some 0x6C)
    else if b.overlaps then s.chunkFail id j 0x6E
    else if b.mode == 2 then s.chunkWrite id j (fillBytes b.value n)
    else
      match s.btePieces b b.src (b.row j * b.sstride + b.col j) n permLoad kindRead b.spaces Use.read,
            s.btePieces b b.dst (b.row j * b.dstride + b.col j) n permStore kindWrite b.spaces Use.store with
      | .error c, _ => s.chunkRefused id j c
      | _, .error c => s.chunkRefused id j c
      | .ok ps, .ok _ =>
        let (s1, ids) := s.enterBte b id j
          (ps.map (fun p => { key := p.key, va := p.va, port := portOf p.key, cmpr := p.cmpr, act := .read p.size }))
        s1.putChunk id j { phase := .reading, reads := ids, got := [], writes := [], cause := none }

/-- A response reaches a chunk (R167). -/
def State.chunkResp (s : State) (id j : Nat) (r : Resp) : State :=
  match (AMap.find s.btes id).bind (fun b => AMap.find b.flight j) with
  | none => s
  | some c =>
    let cause := c.cause.or (r.cause.map (fun x => (bteCause x).toNat))
    match c.phase with
    | .reading =>
      let c' := { c with got := c.got ++ [(r.stamp, r.bytes)], cause := cause }
      if c'.got.length < c'.reads.length then s.putChunk id j c'
      else match cause with
        | some x => s.chunkFail id j x
        | none => s.chunkWrite id j (c'.reads.flatMap (fun i => ((c'.got.find? (fun p => p.1 == i)).map (·.2)).getD []))
    | .writing =>
      let c' := { c with writes := c.writes.filter (· != r.stamp), cause := cause }
      if !c'.writes.isEmpty then s.putChunk id j c'
      else match cause with
        | some x => s.chunkFail id j x
        | none => s.chunkBit id j
    | .bit => if r.cause.isSome then s.chunkFail id j 0x6C else s.chunkOver id j none
    | .failing => s.chunkOver id j c.cause

/-- A chunk of command id moves, if it may: chunk j where the turn names one that is left, and only when it is its queue's turn at the BTE; or the
command ends (R48). -/
def execBteChunk (id j : Nat) (s : State) : Out :=
  match AMap.find s.btes id with
  | none => .next s
  | some b =>
    let s1 := if b.started then s else if s.bteReady id b then s.bteStart id else s
    match AMap.find s1.btes id with
    | none => .next s
    | some b1 =>
      if !b1.started || !s1.bteRuns b1 then .next s
      else if b1.todo.contains j then
        if s1.bteTurn b1.bte == some b1.key then .next (({ s1 with bteLast := AMap.put s1.bteLast b1.bte b1.key } : State).chunkStart id j) else .next s1
      else .next (s1.bteEnd id)

end Sys2Proof.Machine
end

