-- ==== Sys2Proof/Machine/FieldSpec.lean ====
section
/-! DEFINITION. What each operation of a Field element is by its words: the fields of MODE and of the extension word, their limits
(loader check 6), the ports it reads, the formats they accept and the formats of its outputs (R97, R98, R106, R107, R214, R292 to R340). -/

namespace Sys2Proof.Machine

open Sys2Proof

/-! ### Fields -/

def ElemWord.m (w : ElemWord) (lo n : Nat) : Nat := bitsOf w.mode.toNat lo n
def ElemWord.x (w : ElemWord) (lo n : Nat) : Nat := bitsOf (w.ext.getD 0).toNat lo n

/-- Kinds with an extension word: MX, AG, RN (R106). -/
def hasExt (kind : Nat) : Bool := kind == 0 || kind == 4 || kind == 9
/-- Elements of each kind in a Field (R97). -/
def kindCount (kind : Nat) : Nat := [8, 16, 4, 4, 8, 4, 4, 4, 8, 2, 4, 6].getD kind 0
/-- Operations of each kind (R214). -/
def opCount (kind : Nat) : Nat := [5, 17, 5, 7, 6, 4, 2, 5, 5, 2, 4, 5].getD kind 0

/-- A consumer field (R107). -/
structure Con where
  tgt : Nat
  port : Nat
  slots : Nat
  fmt : Nat
  pc : Bool
  v : Bool
deriving DecidableEq, Repr

def conOf (c : BitVec 20) : Con :=
  { tgt := bitsOf c.toNat 13 7, port := bitsOf c.toNat 10 3, slots := bitsOf c.toNat 7 3, fmt := bitsOf c.toNat 2 5,
    pc := c.getLsbD 1, v := c.getLsbD 0 }

/-! ### Format codes (R268) -/

def fRaw32 : Nat := 0
def fFp32 : Nat := 1
def fBf16 : Nat := 2
def fInt32 : Nat := 0x0B
def fInt16 : Nat := 0x0C
def fInt8 : Nat := 0x0D
def fInt4 : Nat := 0x0E
def fUe8m0 : Nat := 0x0F
def fPred : Nat := 0x10
def fIdx32 : Nat := 0x11

/-- A format converts to another on a link (R103). -/
def linkOk (a b : Nat) : Bool :=
  a == b || ((isFloatFmt a || isIntFmt a) && (isFloatFmt b || isIntFmt b))

/-- The width class of an MX operand format: 16, 8, 6 or 4 bits; 0 for none (R298). -/
def mxClass (f : Nat) : Nat :=
  if f == 2 || f == 3 then 16 else if f == 4 || f == 5 || f == 9 then 8 else if f == 6 || f == 7 || f == 10 then 6 else if f == 8 then 4 else 0
/-- The K that one firing covers (R298), and the K of one token of it (R299). -/
def mxKf (f : Nat) : Nat := match mxClass f with | 16 => 8 | 8 => 16 | _ => 32
def mxKc (f : Nat) : Nat := if mxClass f == 6 then 16 else mxKf f

/-! ### MX fields (R297, R298) -/
def ElemWord.afmt (w : ElemWord) : Nat := w.x 59 5
def ElemWord.bfmt (w : ElemWord) : Nat := w.x 54 5
def ElemWord.sfmt (w : ElemWord) : Nat := w.x 49 5
def ElemWord.klen (w : ElemWord) : Nat := w.x 34 15
def ElemWord.tsfmt (w : ElemWord) : Nat := w.x 32 2
def ElemWord.ts (w : ElemWord) : Nat := w.x 0 32

/-! ### VX fields (R304) -/
def ElemWord.vtype (w : ElemWord) : Nat := w.m 0 2
def ElemWord.opx (w : ElemWord) : Nat := w.m 5 7
def vxFmt (t : Nat) : Nat := [fFp32, fBf16, fInt32, fRaw32].getD t 0

/-! ### AG fields (R315, R316) -/
def ElemWord.agWrite (w : ElemWord) : Bool := w.op == 1 || ((w.op == 4 || w.op == 5) && w.mode.getLsbD 0)
def ElemWord.prm (w : ElemWord) : Bool := w.mode.getLsbD 3
def ElemWord.creg (w : ElemWord) : Nat := w.x 60 4
def ElemWord.se (w : ElemWord) : Nat := w.x 57 3
def ElemWord.mfmt (w : ElemWord) : Nat := w.x 52 5
def ElemWord.rot (w : ElemWord) : Bool := w.x 51 1 == 1
def ext0Of (n : Nat) : Nat := if n == 0 then 64 else n
def extOf (n : Nat) : Nat := if n == 0 then 256 else n
/-- Stride in bytes of a stride code (R316). -/
def strideOf (c : Nat) : Nat := if c == 31 then 0 else (1 + 2 * (c / 32)) * 2 ^ (c % 32) * 16

/-! ### QX fields (R322) -/
def ElemWord.tfmt (w : ElemWord) : Nat := w.m 0 5
def ElemWord.qblock (w : ElemWord) : Nat := 8 * 2 ^ w.m 5 2
def ElemWord.qscale (w : ElemWord) : Nat := if w.m 7 1 == 1 then 4 else fUe8m0
def ElemWord.qflag (w : ElemWord) : Bool := w.m 8 1 == 1
def ElemWord.qtexp (w : ElemWord) : Int := toInt 3 (w.m 9 3)

/-! ### GT and PT fields (R334 to R339) -/
def ElemWord.gtCreg (w : ElemWord) : Nat := w.m 8 4
def ElemWord.sect (w : ElemWord) : Nat := w.m 0 7
def ElemWord.ptSe (w : ElemWord) : Nat := w.m 0 3
/-- The C register whose capability a PT or GT element copies at arm (R336, R338, R339): 0 for none. -/
def ElemWord.capReg (w : ElemWord) : Nat :=
  match w.kind, w.op with
  | 0xA, 0 => w.gtCreg
  | 0xA, 1 => w.gtCreg
  | 0xB, 2 => w.m 3 4
  | 0xB, 4 => w.m 0 4
  | _, _ => 0

/-! ### Loader check 6 (R108, R214): OP listed, undefined bits zero, fields within their limits -/

def mxOk (w : ElemWord) : Bool :=
  (if w.op == 1 then w.m 4 8 == 0 && w.m 2 2 != 3 else w.mode == 0) &&
    !(w.tsfmt == 0 && w.ts != 0) &&
    if w.op == 3 then w.afmt == 0 && w.bfmt == 0 && w.klen == 0 && w.sfmt == 0
    else
      mxClass w.afmt != 0 && mxClass w.afmt == mxClass w.bfmt && !(w.op == 1 && mxClass w.afmt == 6) &&
      (match w.op with
        | 2 => w.klen == 32
        | 4 => w.klen == 0
        | _ => w.klen ≥ 1) &&
      if w.op == 1 && w.m 0 2 != 0 then w.sfmt == 0x0F || w.sfmt == 4 || w.sfmt == 5 else w.sfmt == 0

def vxOk (w : ElemWord) : Bool :=
  let t := w.vtype
  !(t ≥ 2 && w.m 2 2 != 0) && !(t == 3 && w.m 4 1 == 1) &&
    (match w.op with
      | 0x08 => t ≤ 2 && !(w.m 5 3 ≥ 6 && t == 2) && w.m 9 3 == 0
      | 0x0E => t == 0 && w.m 8 4 == 0
      | 0x0F => t ≤ 2
      | 0x10 => t ≤ 2
      | op => w.opx == 0 && if 9 ≤ op && op ≤ 0x0D then t ≥ 2 else t ≤ 2)

def agOk (w : ElemWord) : Bool :=
  let one := fun (lo : Nat) => w.x lo 8 == 1
  w.m 8 4 == 0 &&
    (w.op == 4 || w.m 4 4 == 0) && (w.op == 4 || w.m 1 2 == 0) && !(w.op == 4 && w.agWrite && w.m 2 1 == 1) &&
    (w.op == 2 || w.op == 4 || w.op == 5 || w.m 0 1 == 0) &&
    w.creg != 0 && w.mfmt ≤ 0x11 && w.mfmt != fPred && w.x 0 3 == 0 &&
    w.x 31 6 != 63 && w.x 17 6 != 63 && w.x 3 6 != 63 &&
    (match w.op with
      | 3 => one 23 && one 9 && w.x 17 6 == 0 && w.x 3 6 == 0
      | 4 => !w.rot && w.x 17 6 == 0
      | 5 => one 37 && one 23 && one 9 && w.x 17 6 == 0 && w.x 3 6 == 0
      | _ => true)

def qxOk (w : ElemWord) : Bool :=
  let t := w.tfmt
  let any := (2 ≤ t && t ≤ 0x0A) || t == 0x0D || t == 0x0E
  w.m 5 2 != 3 &&
    match w.op with
    | 0 => any
    | 1 => any && !w.qflag && w.m 9 3 == 0
    | 2 => t == 0 && !w.qflag
    | _ => 2 ≤ t && t ≤ 0x0A && w.m 5 3 == 0 && w.m 9 3 == 0

/-- Values per token of the link into port 0, where its format is one (R292, R328). -/
def perToken (f : Option Nat) : Option Nat := f.bind (fun c => if c ≤ 0x11 then some (fmtCount c) else none)

def pmOk (w : ElemWord) (f0 : Option Nat) : Bool :=
  let below := fun (v : Nat) => match perToken f0 with | none => true | some n => v < n
  match w.op with
  | 0 => w.m 3 9 == 0
  | 1 => below (w.m 1 7)
  | 2 => w.m 8 4 ≤ 1
  | _ => w.m 4 8 == 0 && below (2 ^ w.m 0 4)

/-- Check 6 of one element; f0 is the format of the link into its port 0. -/
def ElemWord.ok (w : ElemWord) (f0 : Option Nat) : Bool :=
  w.op < opCount w.kind &&
    match w.kind with
    | 0 => mxOk w
    | 1 => vxOk w
    | 2 => w.m 1 7 == 0 && !(w.m 0 1 == 1 && w.op > 2)
    | 3 => w.mode == 0 || (w.op == 6 && w.m 1 11 == 0)
    | 4 => agOk w
    | 5 => qxOk w
    | 6 => if w.op == 0 then w.m 6 6 == 0 else 1 ≤ w.m 6 6 && w.m 6 6 ≤ (if w.m 0 6 == 0 then 64 else w.m 0 6)
    | 7 => pmOk w f0
    | 8 => if w.op == 4 then w.m 4 8 == 0 && w.m 0 4 ≤ 6 else w.mode == 0
    | 9 => if w.op == 0 then w.m 1 11 == 0 else true
    | 0xA => if w.op == 2 then w.mode == 0 else if w.op == 3 then w.m 7 5 == 0 else w.m 7 1 == 0
    | _ => match w.op with
      | 0 => w.m 2 10 == 0
      | 1 => w.m 3 9 == 0
      | 2 => w.m 7 5 == 0
      | 3 => w.m 3 9 == 0
      | _ => w.m 4 8 == 0

/-! ### Ports (R292) -/

/-- The ports that the element's operation has. -/
def ElemWord.ports (w : ElemWord) : List Nat :=
  match w.kind, w.op with
  | 0, 3 => [0]
  | 0, 2 => if mxClass w.afmt == 6 then [0, 2, 3, 6, 7] else [0, 2, 3]
  | 0, 1 => [0, 1, 2, 3] ++ (if w.m 0 1 == 1 then [4, 5] else []) ++ (if w.m 1 1 == 1 then [6, 7] else [])
  | 0, _ => if mxClass w.afmt == 6 then [0, 1, 2, 3, 4, 5, 6, 7] else [0, 1, 2, 3]
  | 1, 3 => [0, 1, 2]
  | 1, op => if op == 6 || op == 7 || op ≥ 0x0E then [0] else [0, 1]
  | 2, _ => [0]
  | 3, op => if op == 6 then [0, 1] else [0]
  | 4, op =>
    (if w.agWrite || op == 3 || op == 5 then [0] else []) ++ (if w.prm then [1] else []) ++ (if op == 5 && w.agWrite then [2] else [])
  | 5, 0 => if w.qflag then [0] else [0, 4]
  | 5, 1 => [0, 4]
  | 5, 2 => [0]
  | 5, _ => if w.qflag then [0, 1] else [0]
  | 6, op => if op == 0 then [0] else [0, 1]
  | 7, _ => [0]
  | 8, 0 => [0, 1, 2]
  | 8, 1 => [0, 1, 2]
  | 8, 2 => [0, 2]
  | 8, 3 => [0]
  | 8, _ => if w.m 0 4 == 0 then [0, 1] else [0]
  | 9, _ => [0]
  | 0xA, 0 => if w.gtCreg == 0 then [0, 1] else [0]
  | 0xA, 3 => [0, 1]
  | 0xA, _ => [0]
  | _, 0 => []
  | _, 3 => []
  | _, _ => [0]

/-- The number of outputs. -/
def ElemWord.outs (w : ElemWord) : Nat :=
  match w.kind, w.op with
  | 0, 2 => 2
  | 2, 3 => 2
  | 4, op => if w.agWrite && op != 1 then 0 else 1
  | 5, 0 => 2
  | 8, 2 => 2
  | 0xA, 1 => if w.gtCreg == 0 then 2 else 1
  | 0xB, op => if op == 0 || op == 3 then 1 else 0
  | _, _ => 1

/-- The port accepts a link of format f; p0 is the format of the link into port 0 (R292). -/
def ElemWord.accepts (w : ElemWord) (port f : Nat) (p0 : Option Nat) : Bool :=
  let any := f != fPred
  let like0 := match p0 with | none => any | some g => f == g
  match w.kind, w.op with
  | 0, 3 => any
  | 0, 2 => if port == 0 then f == fFp32 else f == w.bfmt
  | 0, 1 => if port ≥ 4 then f == w.sfmt else if port ≤ 1 then f == w.afmt else f == w.bfmt
  | 0, _ => if port % 4 ≤ 1 then f == w.afmt else f == w.bfmt
  | 1, 0x0E => f == (if w.m 7 1 == 1 then fInt32 else fFp32)
  | 1, op => if (op == 0x0C || op == 0x0D) && port == 1 then f == fInt32 else f == vxFmt w.vtype
  | 2, _ => f == (if w.m 0 1 == 1 then fInt32 else fFp32)
  | 3, 6 => f == (if port == 0 then fIdx32 else fRaw32)
  | 3, _ => f == fFp32
  | 4, op => if port == 1 then f == fRaw32 else if port == 0 && (op == 3 || op == 5) then f == fIdx32 else f == w.mfmt
  | 5, op => if port == 4 then f == w.qscale else if port == 1 then f == fRaw32 else if op == 1 then f == w.tfmt else f == fFp32
  | 6, _ => if port == 0 then any else like0
  | 8, 0 =>
    (match port with
      | 0 => any
      | 1 => like0
      | _ => match perToken p0 with
        | some 64 => f == fInt32
        | some 128 => f == fInt16
        | some 256 => f == fInt8
        | some 512 => f == fInt4
        | _ => false)
  | 8, 1 => if port == 2 then f == fInt32 else if port == 0 then any else like0
  | 8, 2 => if port == 2 then f == fInt32 else any
  | 9, _ => if w.m 0 1 == 1 then f == fIdx32 else any
  | 0xB, 1 => f == fFp32 || f == fInt32 || f == fRaw32 || f == fIdx32
  | 0xB, 2 => f == fRaw32
  | _, _ => any

/-- The format of output o; p0 and p1 are the formats of the links into ports 0 and 1. -/
def ElemWord.outFmt (w : ElemWord) (o : Nat) (p0 p1 : Option Nat) : Option Nat :=
  match w.kind, w.op with
  | 0, _ => some fFp32
  | 1, 0x08 => some (if w.m 8 1 == 1 then (if w.vtype == 1 then fInt16 else fInt32) else vxFmt w.vtype)
  | 1, 0x0E => some (if w.m 7 1 == 1 then fFp32 else fInt32)
  | 1, _ => some (vxFmt w.vtype)
  | 2, _ => some (if o == 1 then fIdx32 else if w.m 0 1 == 1 then fInt32 else fFp32)
  | 3, 6 => some fRaw32
  | 3, _ => some fFp32
  | 4, op => if op == 1 then some fInt32 else some w.mfmt
  | 5, 0 => some (if o == 1 then w.qscale else w.tfmt)
  | 5, 2 => some w.qscale
  | 5, _ => some fFp32
  | 8, 4 => if w.m 0 4 == 0 then p1 else some (if w.m 0 4 == 6 then fRaw32 else fFp32)
  | 9, 0 => some fRaw32
  | 9, _ => some fInt32
  | 0xA, 1 => if o == 1 then some fInt32 else p0
  | 0xB, _ => some fRaw32
  | _, _ => p0

end Sys2Proof.Machine
end

