-- ==== Sys2Proof/Machine/FieldLoad.lean ====
section
/-! DEFINITION. Configuration blocks: reading a block through a capability, the loader's checks 1 to 16 in order, and the links and
initial state of a configuration that the Field loads (R98 to R111, R257, R268). -/

namespace Sys2Proof.Machine

open Sys2Proof

/-! ### Header fields (R106) -/

def Block.elemCount (b : Block) : Nat := bitsOf b.h0.toNat 20 7
def Block.nscope (b : Block) : Nat := bitsOf b.h0.toNat 28 2
def Block.start (b : Block) (i : Nat) : Nat := if i == 0 then 0 else bitsOf b.h0.toNat (25 + 7 * i) 7
def Block.scopeCode (b : Block) (i : Nat) : Nat := bitsOf b.h1.toNat (3 * i) 3
def Block.entry (b : Block) : Nat := bitsOf b.h1.toNat 12 8
def Block.exit (b : Block) : Nat := bitsOf b.h1.toNat 20 8
def Block.blkid (b : Block) : Nat := bitsOf b.h1.toNat 28 16
def Block.nostarve (b : Block) : Bool := b.h1.getLsbD 44
def Block.crc (b : Block) : Nat := bitsOf b.h1.toNat 48 16
/-- The element of an index; a word of no kind beyond the end. -/
def Block.el (b : Block) (i : Nat) : ElemWord := b.elems.getD i { kind := 0xF, op := 0, mode := 0, conA := 0, conB := 0, ext := none }
/-- The subgraph scope that holds an element (R106). -/
def Block.scopeOf (b : Block) (i : Nat) : Nat := ((List.range (b.nscope + 1)).filter (fun j => b.start j ≤ i)).length - 1
/-- The lowest-numbered ENTRY engine (R111). -/
def Block.lowest (b : Block) : Nat := ((List.range 8).find? (fun e => b.entry.testBit e)).getD 8

/-! ### CRC-16 (R106) -/

def crc16Bits : Nat → Nat → Nat
  | 0, c => c
  | k + 1, c => crc16Bits k (if c ≥ 0x8000 then (2 * c) % 65536 ^^^ 0x1021 else 2 * c)
def crc16 (bs : List Byte) : Nat := bs.foldl (fun c b => crc16Bits 8 (c ^^^ (b.toNat * 256))) 0xFFFF

/-! ### Links -/

/-- The links that the consumer fields name, in order of producers: an element with two outputs sends output 1 by CONB (R107). -/
def Block.cons (b : Block) : List (Nat × Nat × Con) :=
  (List.range b.elems.length).flatMap (fun i =>
    let w := b.el i
    [(i, 0, conOf w.conA), (i, if w.outs == 2 then 1 else 0, conOf w.conB)].filter (fun c => c.2.2.v))

/-- The format of the link into a port. -/
def Block.portFmt (b : Block) (e p : Nat) : Option Nat := (b.cons.find? (fun c => c.2.2.tgt == e && c.2.2.port == p)).map (·.2.2.fmt)

/-- The format in which an element writes an output. -/
def Block.outFmt (b : Block) (e o : Nat) : Option Nat := (b.el e).outFmt o (b.portFmt e 0) (b.portFmt e 1)

/-! ### The loader's checks (R108) -/

/-- Elements that the zero-slot links among the remaining ones leave without an incoming link are removed; a cycle keeps some. -/
def zeroCycle : Nat → List (Nat × Nat) → Bool
  | 0, zs => !zs.isEmpty
  | fuel + 1, zs =>
    if zs.isEmpty then false
    else zeroCycle fuel (zs.filter (fun z => zs.any (fun y => y.2 == z.1)))

/-- Check 4. -/
def headerOk (b : Block) : Bool :=
  let n := b.nscope
  bitsOf b.h0.toNat 53 11 == 0 && bitsOf b.h0.toNat 30 2 == 0 && bitsOf b.h0.toNat 27 1 == 0 && bitsOf b.h1.toNat 45 3 == 0 &&
    b.entry != 0 &&
    (List.range 4).all (fun i =>
      if i ≤ n then b.scopeCode i ≤ 4 && b.start i < b.elemCount && (i == 0 || b.start (i - 1) < b.start i)
      else b.start i == 0 && b.scopeCode i == 0)

/-- An EXIT has the ENTRY of its CREG in the block (R335). -/
def exitPaired (b : Block) (w : ElemWord) : Bool :=
  !(w.kind == 0xA && w.op == 1) || b.elems.any (fun v => v.kind == 0xA && v.op == 0 && v.gtCreg == w.gtCreg)

/-- Check 9. -/
def consOk (b : Block) : Bool :=
  b.elems.all (fun w => [w.conA, w.conB].all (fun c =>
    let k := conOf c
    if k.v then k.tgt < b.elemCount && (b.el k.tgt).ports.contains k.port else c == 0))

/-- Check 11: every link's format suits its consumer's port and, where the producer's output has a format, that one. -/
def fmtsOk (b : Block) : Bool :=
  b.cons.all (fun c =>
    let w := b.el c.1
    let v := b.el c.2.2.tgt
    w.outs > 0 && v.accepts c.2.2.port c.2.2.fmt (b.portFmt c.2.2.tgt 0) &&
      match b.outFmt c.1 c.2.1 with
      | none => true
      | some f => linkOk f c.2.2.fmt && !(v.kind == 0 && v.op == 1 && c.2.2.port < 4 && f != c.2.2.fmt))

/-- Check 12. -/
def portsOk (b : Block) : Bool :=
  let ends := b.cons.map (fun c => (c.2.2.tgt, c.2.2.port))
  ends.all (fun e => (ends.filter (· == e)).length == 1) &&
    (List.range b.elems.length).all (fun i => (b.el i).ports.all (fun p => ends.contains (i, p)))

/-- Check 14. -/
def scopesOk (b : Block) : Bool :=
  b.cons.all (fun c => b.scopeOf c.1 == b.scopeOf c.2.2.tgt || ((b.el c.2.2.tgt).kind == 0xA && (b.el c.2.2.tgt).op == 2))

/-- Check 15 (R108, R340). -/
def enginesOk (b : Block) : Bool :=
  let ags := b.elems.filter (fun w => w.kind == 4)
  let ses := ags.map ElemWord.se
  let req := (b.elems.filter (fun w => w.kind == 0xB && w.op == 2)).map ElemWord.ptSe
  let rsp := (b.elems.filter (fun w => w.kind == 0xB && w.op == 3)).map ElemWord.ptSe
  let count := fun (l : List Nat) (e : Nat) => (l.filter (· == e)).length
  (List.range 8).all (fun e =>
    count ses e ≤ 1 && count req e ≤ 1 && count rsp e == count req e && (count req e == 0 || count ses e == 0) &&
      b.entry.testBit e == ags.any (fun w => w.se == e && !w.agWrite) &&
      b.exit.testBit e == ags.any (fun w => w.se == e && w.agWrite))

/-- The first failing check among 1 to 16; old: the BLKID and CRC that a refetched block must have. -/
def blockFault (b : Block) (bytes : List Byte) (old : Option (Nat × Nat)) : Option Byte :=
  let crc := crc16 (bytes.take 14 ++ [0, 0] ++ bytes.drop 16)
  if !(bitsOf b.h0.toNat 0 16 == 0xCF1B && bitsOf b.h0.toNat 16 4 == 1) then some 0x40
  else if !(1 ≤ b.elemCount && b.elemCount ≤ 72) then some 0x41
  else if crc != b.crc then some 0x42
  else if !headerOk b then some 0x43
  else if !b.elems.all (fun w => w.kind ≤ 0xB) then some 0x44
  else if !(List.range b.elems.length).all (fun i => (b.el i).ok (b.portFmt i 0) && exitPaired b (b.el i)) then some 0x45
  else if !b.elems.all (fun w => w.ext.isSome == hasExt w.kind) then some 0x46
  else if !(List.range 12).all (fun k => (b.elems.filter (fun w => w.kind == k)).length ≤ kindCount k) then some 0x47
  else if !consOk b then some 0x48
  else if !b.cons.all (fun c => c.2.2.fmt ≤ 0x11) then some 0x49
  else if !fmtsOk b then some 0x4A
  else if !portsOk b then some 0x4B
  else if zeroCycle 80 ((b.cons.filter (fun c => c.2.2.slots == 0)).map (fun c => (c.1, c.2.2.tgt))) then some 0x4C
  else if !scopesOk b then some 0x4D
  else if !enginesOk b then some 0x4E
  else match old with
    | some o => if (b.blkid, b.crc) == o then none else some 0x4F
    | none => none

/-! ### Reading a block (R257, step 2) -/

/-- An element word from its 8 bytes. -/
def elemOf (w : Nat) (ext : Option Word) : ElemWord :=
  { kind := bitsOf w 60 4, op := bitsOf w 52 8, mode := BitVec.ofNat 12 (bitsOf w 40 12), conA := BitVec.ofNat 20 (bitsOf w 20 20),
    conB := BitVec.ofNat 20 (bitsOf w 0 20), ext := ext }

/-- The element words from an address on: the state after the reads, the words and their bytes, or the cause and the address. -/
def State.readElems (s : State) (c : Cap) (a : Nat) : Nat → Except (Byte × Nat) (State × List ElemWord × List Byte)
  | 0 => .ok (s, [], [])
  | n + 1 =>
    match s.fetchData c (a % 2 ^ 64) 8 (permLoad + permEngine) memSpaces with
    | .error f => .error (f, a)
    | .ok (s1, bs) =>
      let w := leNat bs
      if hasExt (bitsOf w 60 4) then
        match s1.fetchData c ((a + 8) % 2 ^ 64) 8 (permLoad + permEngine) memSpaces with
        | .error f => .error (f, a + 8)
        | .ok (s2, xs) =>
          match s2.readElems c (a + 16) n with
          | .error f => .error f
          | .ok (s3, es, rest) => .ok (s3, elemOf w (some (BitVec.ofNat 64 (leNat xs))) :: es, bs ++ xs ++ rest)
      else
        match s1.readElems c (a + 8) n with
        | .error f => .error f
        | .ok (s3, es, rest) => .ok (s3, elemOf w none :: es, bs ++ rest)

/-- A block read through a capability at its cursor, with its bytes. -/
def State.readBlock (s : State) (c : Cap) : Except (Byte × Nat) (State × Block × List Byte) :=
  let a := c.cursor.toNat
  match s.fetchData c a 16 (permLoad + permEngine) memSpaces with
  | .error f => .error (f, a)
  | .ok (s1, hd) =>
    let h0 := fieldLe hd 0 8
    match s1.readElems c (a + 16) (bitsOf h0 20 7) with
    | .error f => .error f
    | .ok (s2, es, rest) =>
      .ok (s2, { h0 := BitVec.ofNat 64 h0, h1 := BitVec.ofNat 64 (fieldLe hd 8 8), elems := es }, hd ++ rest)

/-! ### A configuration in the Field (R111) -/

def ElemSt.empty : ElemSt :=
  { acc := [], accLive := [], cnt := [], held := [], out0 := [], out1 := [], col0 := [], col1 := [], scales := [], open_ := false,
    taken := false, pipe := [] }

def Block.links (b : Block) : List LinkSt :=
  b.cons.map (fun c =>
    { src := c.1, out := c.2.1, dst := c.2.2.tgt, port := c.2.2.port, slots := c.2.2.slots, fmt := c.2.2.fmt,
      from_ := (b.outFmt c.1 c.2.1).getD c.2.2.fmt, pc := c.2.2.pc, q := [], buf := [], part := none, pos := 0, scl := [], mark := none })

/-- A configuration as the Field loads it: initial state in every element; taken: whether its elements hold their words already. -/
def mkInst (slot : Nat) (b : Block) (caps : List Cap) (taken : Bool) : Inst :=
  { slot := slot, block := b, elems := b.elems.map (fun _ => { ElemSt.empty with taken := taken }), links := b.links,
    caps := b.elems.map (fun w => caps.getD w.capReg Cap.null), closed := false, tiles := 0, due := [], load := 0 }

/-! ### Slots -/

def Slot.empty : Slot := { stored := false, store := Cap.null, blkid := 0, crc := 0, block := none, arm := none, passed := 0, ctl := [], ebb := false }
def Region.slot (g : Region) (k : Nat) : Slot := AMap.findD g.slots k Slot.empty
def Region.setSlot (g : Region) (k : Nat) (x : Slot) : Region := { g with slots := AMap.put g.slots k x }

def EngSlot.empty : EngSlot := { reg := none, entry := [], parms := [], commanded := 0, started := 0, mark := none }
def Engine.empty : Engine := { slots := [], cmds := [], round := none, fetches := [], erq := [], ers := [] }
def Region.engine (g : Region) (se : Nat) : Engine := AMap.findD g.engines se Engine.empty
def Region.setEngine (g : Region) (se : Nat) (e : Engine) : Region := { g with engines := AMap.put g.engines se e }
def Engine.slot (e : Engine) (k : Nat) : EngSlot := AMap.findD e.slots k EngSlot.empty
def Engine.setSlot (e : Engine) (k : Nat) (x : EngSlot) : Engine := { e with slots := AMap.put e.slots k x }
def Region.engSlot (g : Region) (se k : Nat) : EngSlot := (g.engine se).slot k
def Region.setEngSlot (g : Region) (se k : Nat) (x : EngSlot) : Region := g.setEngine se ((g.engine se).setSlot k x)

/-- A link holds a token. -/
def LinkSt.busy (l : LinkSt) : Bool := !l.q.isEmpty || !l.buf.isEmpty || l.part.isSome
/-- An element holds tokens that it will still emit: those of a DL, those of results that leave one by one, and those in a VX. -/
def ElemSt.busy (e : ElemSt) : Bool := !e.out0.isEmpty || !e.out1.isEmpty || e.pipe.any Option.isSome

/-- Output 1 of an EXIT whose baton is a token (R335). -/
def Block.batonOut (b : Block) (e out : Nat) : Bool := (b.el e).kind == 0xA && (b.el e).op == 1 && (b.el e).gtCreg == 0 && out == 1

/-- The links that carry only batons: those from such an output, and those from elements to which only such links lead, the nth of these found
along a path. -/
def Inst.batonLink (i : Inst) : Nat → LinkSt → Bool
  | 0, l => i.block.batonOut l.src l.out
  | n + 1, l => i.block.batonOut l.src l.out ||
      (i.links.any (fun m => m.dst == l.src) && i.links.all (fun m => m.dst != l.src || i.batonLink n m))

/-- An EXIT of the block emits a baton. -/
def Inst.hasBaton (i : Inst) : Bool := (List.range i.block.elems.length).any (fun e => i.block.batonOut e 1)

/-- The link may hold a token of a round: a baton between two sections is none (R111, R120, R335; log 34). -/
def Inst.roundLink (i : Inst) (l : LinkSt) : Bool := !(i.hasBaton && i.batonLink 8 l)

/-- Element e holds a token of a round, or an EXIT owes the release of one: a baton that an EXIT or an element on the batons' way still has
to emit does not count. -/
def Inst.elemBusy (i : Inst) (e : Nat) : Bool :=
  let st := i.elems.getD e ElemSt.empty
  let w := i.block.el e
  if i.block.batonOut e 1 then !st.out0.isEmpty
  else (w.kind == 0xA && w.op == 1 && st.cnt.getD 2 0 != 0) ||
    (st.busy && !(i.links.any (fun l => l.dst == e) && i.links.all (fun l => l.dst != e || !i.roundLink l)))

/-- The Field holds a token of a round of the configuration. -/
def Inst.busy (i : Inst) : Bool := i.links.any (fun l => l.busy && i.roundLink l) || (List.range i.elems.length).any i.elemBusy

/-- The engine has an entry-queue token, or a read in flight, for a slot. -/
def Engine.waiting (e : Engine) (k : Nat) : Bool := !(e.slot k).entry.isEmpty
def Engine.reading (e : Engine) (k : Nat) : Bool := e.fetches.any (fun f => f.slot == k)

/-- The rounds of a slot that a reading engine has still to give to the Field: their END tokens wait, are being read, or will be. -/
def Engine.toCome (e : Engine) (k : Nat) : Nat :=
  (e.cmds.filter (fun c => c.1 == k)).foldl (fun n c => n + c.2) 0 + (if e.round.any (fun x => x.slot == k) then 1 else 0) +
    (e.fetches.filter (fun f => f.slot == k && f.last)).length + ((e.slot k).entry.filter (·.last)).length

/-- The engine holds a request token of the slot, or owes its ERSP a response (R173, R338). -/
def Engine.owes (e : Engine) (k : Nat) : Bool := e.erq.any (fun q => q.slot == k) || e.ers.any (fun q => q.slot == k)

/-- The Field holds a token of the slot's configuration, or is still to be given one by an ERSP (R111, R120). -/
def Region.fieldBusy (g : Region) (k : Nat) : Bool :=
  g.insts.any (fun i => i.slot == k && i.busy) || g.engines.any (fun e => e.2.owes k)

/-- A token of the slot stands in the Field or in an entry queue (R120, R257). -/
def Region.slotBusy (g : Region) (k : Nat) : Bool := g.fieldBusy k || (List.range 8).any (fun se => (g.engine se).waiting k)

def Ctl.node (c : Ctl) (n : Nat) : CtlNode :=
  (c.nodes.find? (fun x => x.id == n)).getD { id := n, kind := .seq, depth := 1, iters := 0, kids := [] }

/-- A node, or one below it, arms the slot; nodes nest at most eight deep (R119). -/
def Ctl.below (c : Ctl) (slot : Nat) : Nat → Nat → Bool
  | 0, _ => false
  | depth + 1, n => (c.node n).kids.any (fun k => match k with | .arm s _ _ _ => s == slot | .node m => c.below slot depth m)

/-- The slot belongs to a running controller tree (R262): not to one that is still open, nor to one that has ended. -/
def Ctl.names (c : Ctl) (slot : Nat) : Bool := c.runs.any (fun x => c.below slot 8 x.node)

/-- A slot belongs to a running controller tree. -/
def Region.inTree (g : Region) (k : Nat) : Bool := g.ctl.names k

/-- A slot holds an arm, or counts as armed while its controller tree runs (R262). -/
def Region.armed (g : Region) (k : Nat) : Bool := (g.slot k).arm.isSome || g.inTree k

/-- Commanded rounds that are dropped: a parameter that waited for one of them takes effect at the next round that is commanded (R116). -/
def EngSlot.dropRounds (e : EngSlot) : EngSlot :=
  { e with commanded := e.started, parms := e.parms.map (fun p => { p with after := min p.after e.started }) }

/-- Engine e without the commands, the round and the reads of a slot. -/
def Engine.dropSlot (e : Engine) (k : Nat) : Engine :=
  { e with
    cmds := e.cmds.filter (fun c => c.1 != k), fetches := e.fetches.filter (fun f => f.slot != k),
    round := match e.round with | some r => if r.slot == k then none else some r | none => none }

/-- CFG.LOAD empties the slot for the block that replaces what it held: values on its control ports and in its parameter queues wait for the
new configuration (R116, R117, R257). -/
def Region.replaceSlot (g : Region) (k : Nat) : Region :=
  let g1 := { g with slots := AMap.put g.slots k { Slot.empty with ctl := (g.slot k).ctl } }
  (List.range 8).foldl (fun h se =>
    let e := (h.engine se).dropSlot k
    h.setEngine se (e.setSlot k { EngSlot.empty with parms := (e.slot k).dropRounds.parms, started := (e.slot k).started, commanded := (e.slot k).started })) g1

/-- The slot holds nothing any more (R108). -/
def Region.loseSlot (g : Region) (k : Nat) : Region :=
  let g1 := { g with slots := AMap.del g.slots k }
  (List.range 8).foldl (fun h se =>
    let e := h.engine se
    h.setEngine se { e.dropSlot k with slots := AMap.del e.slots k }) g1

/-- An engine of a disarmed slot starts none of its commanded rounds any more (R260). -/
def Engine.dropCommands (e : Engine) (k : Nat) : Engine :=
  ({ e with cmds := e.cmds.filter (fun c => c.1 != k) } : Engine).setSlot k (e.slot k).dropRounds

end Sys2Proof.Machine
end

