-- ==== Sys2Proof/Machine/FieldOps.lean ====
section
/-! DEFINITION. What the elements MX, VX, RX, FX, QX, DL, PM, SM and RN compute (R292 to R314, R322 to R333). A firing is described by
the ports it reads, the element's new state and the token it appends to each output. An operation lists the firings that its state and
the tokens at its ports allow, the preferred one first; which of them its output links can take is Machine.FieldFire's question (R101). -/

namespace Sys2Proof.Machine

open Sys2Proof

/-- One firing: the ports whose head tokens it consumes, the state after it, the tokens for outputs 0 and 1. -/
structure Firing where
  reads : List Nat
  st : ElemSt
  o0 : Option Token
  o1 : Option Token
deriving DecidableEq, Repr

/-- The possible firings of an element, each a firing or a runtime fault. -/
abbrev Firings := List (Except Byte Firing)

/-- The token at the head of a port, with the predicate bits that the consumer receives (R105). -/
abbrev Inputs := Nat → Option Token

def mkTok (vals : List Nat) (live : List Bool) (last : Bool) : Token := { vals := vals, live := live, last := last, stamp := 0 }
/-- n equal values, all live. -/
def constTok (n v : Nat) (last : Bool) : Token := mkTok (List.replicate n v) (List.replicate n true) last
/-- n zero values, all dead. -/
def deadTok (n : Nat) (last : Bool) : Token := mkTok (List.replicate n 0) (List.replicate n false) last
def Token.val (t : Token) (i : Nat) : Nat := t.vals.getD i 0
def Token.liveAt (t : Token) (i : Nat) : Bool := t.live.getD i false
def andLive (a b : List Bool) : List Bool := List.zipWith (· && ·) a b

/-- A firing that takes in tokens and has produced a list of tokens for each output: the first of each goes out with it, the others
follow one per firing (R101). -/
def emitting (reads : List Nat) (st : ElemSt) (ts us : List Token) : Firing :=
  { reads := reads, st := { st with out0 := ts.drop 1, out1 := us.drop 1 }, o0 := ts.head?, o1 := us.head? }

/-- The firing that only emits a waiting token of each output. -/
def drainFiring (st : ElemSt) : Firing := emitting [] st st.out0 st.out1

/-- While tokens wait to be emitted the element emits them; then it may take in. -/
def drainFirst (st : ElemSt) (k : Firings) : Firings := if st.out0.isEmpty && st.out1.isEmpty then k else [.ok (drainFiring st)]

/-- A one-to-one operation on the tokens of some ports, whose END bits must agree, else the kind's fault (R293). -/
def withPorts (kind : Nat) (ps : List Nat) (inp : Inputs) (k : List Token → Except Byte Firing) : Firings :=
  let ts := ps.filterMap inp
  if ts.length < ps.length then []
  else match ts with
    | [] => []
    | t :: rest => if rest.all (fun u => u.last == t.last) then [k ts] else [.error (BitVec.ofNat 8 (0x50 + kind))]

/-! ### Collecting (R293) -/

/-- Values collected into tokens of n: full tokens, and at END the rest with zeros of predicate 0; the last token carries END. -/
def collect (n : Nat) (last : Bool) : Nat → List (Nat × Bool) → List Token × List (Nat × Bool)
  | 0, vs => ([], vs)
  | fuel + 1, vs =>
    if vs.length > n || (vs.length == n && !last) then
      let (ts, rest) := collect n last fuel (vs.drop n)
      (mkTok ((vs.take n).map (·.1)) ((vs.take n).map (·.2)) false :: ts, rest)
    else if last then
      let vs' := vs ++ List.replicate (n - vs.length) (0, false)
      ([mkTok (vs'.map (·.1)) (vs'.map (·.2)) true], [])
    else ([], vs)

/-- New values joined to those collected before. -/
def collected (n : Nat) (last : Bool) (old new : List (Nat × Bool)) : List Token × List (Nat × Bool) :=
  collect n last (old.length + new.length + 1) (old ++ new)

/-! ### VX (R304 to R309) -/

/-- The six stages, S1 first. -/
def ElemSt.stages (st : ElemSt) : List (Option Token) := if st.pipe.isEmpty then List.replicate 6 none else st.pipe

/-- st with its stages; six empty ones are []. -/
def ElemSt.withStages (st : ElemSt) (p : List (Option Token)) : ElemSt := { st with pipe := if p.all Option.isNone then [] else p }

/-- The stages of a pipeline whose S6 cannot leave: those before the last empty one advance, x enters S1; none where no stage is empty. -/
def advanced (x : Option Token) (p : List (Option Token)) : Option (List (Option Token)) :=
  match (List.range p.length).reverse.find? (fun j => (p.getD j none).isNone) with
  | none => none
  | some j => some (x :: p.take j ++ p.drop (j + 1))

/-- One fc of a VX whose operation allows the firings ins (R101, R309): the result in S6 leaves where its links can take it and every
stage advances, with a firing into S1 or without; where it cannot leave, the stages behind the last empty one advance. -/
def pipelined (st : ElemSt) (ins : Firings) : Firings :=
  let p := st.stages
  let out := p.getD 5 none
  let stay : Option (List (Option Token)) → ElemSt → List Nat → Firings := fun q s' rs =>
    match q with
    | none => []
    | some q => [.ok { reads := rs, st := s'.withStages q, o0 := none, o1 := none }]
  let fire : Except Byte Firing → Firings := fun f =>
    match f with
    | .error c => [.error c]
    | .ok f =>
      .ok { f with st := f.st.withStages (f.o0 :: p.take 5), o0 := out } ::
        (if out.isSome then stay (advanced f.o0 p) f.st f.reads else [])
  ins.flatMap fire ++
    (if p.all Option.isNone then []
     else .ok { reads := [], st := st.withStages (none :: p.take 5), o0 := out, o1 := none } ::
      (if out.isSome && (advanced none p).any (fun q => q != p) then stay (advanced none p) st [] else []))

/-- Width of the values of a TYPE. -/
def vxFloat (t : Nat) : FloatFmt := if t == 1 then bf16 else fp32

/-- An INT32 result that wraps, or saturates with SAT (R305). -/
def vxInt (sat : Bool) (i : Int) : Nat := if sat then satInt 32 i else ofInt 32 i

/-- A rounded FP result; a NaN result is canonical with CAN, else the first NaN operand, quieted (R305). -/
def vxRound (f : FloatFmt) (sat can ftz : Bool) (ops : List Nat) (x : Ext) : Nat :=
  if x.isNan then pickNan f can ops else (roundFloat f 0 sat ftz x).code

/-- The result of an arithmetic operation on values of TYPE t (R305). -/
def vxValue (w : ElemWord) (a b c : Nat) : Nat :=
  let t := w.vtype
  let ftz := w.m 2 1 == 1
  let can := w.m 3 1 == 1
  let sat := w.m 4 1 == 1
  if t ≤ 1 then
    let f := vxFloat t
    let a' := f.flush ftz a
    let b' := f.flush ftz b
    let c' := f.flush ftz c
    let r := vxRound f sat can ftz
    match w.op with
    | 0 => r [a', b'] (Ext.add false (f.value a') (f.value b'))
    | 1 => r [a', b'] (Ext.add false (f.value a') (f.value b').neg)
    | 2 => r [a', b'] ((f.value a').mul (f.value b'))
    | 3 => r [a', b', c'] (Ext.add false ((f.value a').mul (f.value b')) (f.value c'))
    | 4 => redExt f false can ftz a b
    | 5 => redExt f true can ftz a b
    | op =>
      let half := 2 ^ (f.width - 1)
      if can && f.isNan a then f.nanCode
      else if op == 6 then a % half else if a ≥ half then a - half else a + half
  else
    let x := toInt 32 a
    let y := toInt 32 b
    match w.op with
    | 0 => vxInt sat (x + y)
    | 1 => vxInt sat (x - y)
    | 2 => vxInt sat (x * y)
    | 3 => vxInt sat (x * y + toInt 32 c)
    | 4 => if x < y then a else b
    | 5 => if x < y then b else a
    | 6 => vxInt sat (if x < 0 then -x else x)
    | 7 => vxInt sat (-x)
    | 9 => a &&& b
    | 0xA => a ||| b
    | 0xB => a ^^^ b
    | 0xC => a * 2 ^ (b % 32) % 2 ^ 32
    | _ => if t == 2 then ofInt 32 (x / 2 ^ (b % 32)) else a / 2 ^ (b % 32)

/-- COND of CMP on codes of TYPE t (R306). -/
def vxHolds (w : ElemWord) (a b : Nat) : Bool :=
  let cond := w.m 5 3
  if w.vtype ≤ 1 then
    let f := vxFloat w.vtype
    let ftz := w.m 2 1 == 1
    fpHolds cond (f.value (f.flush ftz a)) (f.value (f.flush ftz b))
  else fpHolds cond (.ofInt (toInt 32 a)) (.ofInt (toInt 32 b))

/-- The value that CMP passes on: a as a result of its TYPE (R305, R306). -/
def vxPass (w : ElemWord) (a : Nat) : Nat :=
  if w.vtype ≤ 1 then
    let f := vxFloat w.vtype
    let a' := f.flush (w.m 2 1 == 1) a
    if f.isNan a' then pickNan f (w.m 3 1 == 1) [a'] else a'
  else a

/-- One token of a one-to-one VX operation. -/
def vxMap (w : ElemWord) (inp : Inputs) (st : ElemSt) : Firings :=
  withPorts 1 w.ports inp (fun ts =>
    let a := ts.getD 0 (deadTok 0 false)
    let b := ts.getD 1 a
    let c := ts.getD 2 a
    let n := a.vals.length
    let live := ts.foldl (fun l t => andLive l t.live) a.live
    .ok (emitting w.ports st [mkTok ((List.range n).map (fun i => vxValue w (a.val i) (b.val i) (c.val i))) live a.last] []))

def vxCmp (w : ElemWord) (inp : Inputs) (st : ElemSt) : Firings :=
  withPorts 1 [0, 1] inp (fun ts =>
    let a := ts.getD 0 (deadTok 0 false)
    let b := ts.getD 1 a
    let n := a.vals.length
    let both := andLive a.live b.live
    let hold := (List.range n).map (fun i => vxHolds w (a.val i) (b.val i))
    .ok (emitting [0, 1] st
      [if w.m 8 1 == 1 then mkTok (hold.map (fun h => if h then 1 else 0)) both a.last
       else mkTok (a.vals.map (vxPass w)) (andLive both hold) a.last] []))

/-- CVT (R307). -/
def vxCvt (w : ElemWord) (inp : Inputs) (st : ElemSt) : Firings :=
  let rm := w.m 5 2
  let conv := fun (c : Nat) =>
    if w.m 7 1 == 1 then (roundFloat fp32 rm false false (.ofInt (toInt 32 c))).code
    else match fp32.value (fp32.flush (w.m 2 1 == 1) c) with
      | .nan => 0
      | .inf s => if s then 2 ^ 31 else 2 ^ 31 - 1
      | .fin s n d e => satInt 32 (roundInt rm s n d e).1
  withPorts 1 [0] inp (fun ts =>
    let a := ts.getD 0 (deadTok 0 false)
    .ok (emitting [0] st [mkTok (a.vals.map conv) a.live a.last] []))

/-- ACC and SCAN (R308): acc holds each running value, accLive whether a live input has entered it, cnt the tokens of the segment (L0)
and the segments since load (L1). -/
def vxAcc (w : ElemWord) (inp : Inputs) (st : ElemSt) : Firings :=
  let add := { w with op := 0, mode := w.mode &&& 0x1F }
  withPorts 1 [0] inp (fun ts =>
    let a := ts.getD 0 (deadTok 0 false)
    let n := a.vals.length
    let l0 := st.cnt.getD 0 0
    let ws := if l0 == 0 then List.replicate n 0 else st.acc
    let ls := if l0 == 0 then List.replicate n false else st.accLive
    let ws' := (List.range n).map (fun i => if a.liveAt i then vxValue add (a.val i) (ws.getD i 0) 0 else ws.getD i 0)
    let ls' := (List.range n).map (fun i => a.liveAt i || ls.getD i false)
    let len := w.opx
    let ends := a.last || (len != 0 && l0 + 1 == len)
    let st' := { st with acc := ws', accLive := ls', cnt := if ends then [0, st.cnt.getD 1 0 + 1] else [l0 + 1, st.cnt.getD 1 0] }
    .ok (emitting [0] st' (if w.op == 0x10 || ends then [mkTok ws' ls' a.last] else []) []))

/-! ### RX (R310 to R312)

acc: the exact sum in two's complement of 1,024 bits, NaN, +∞ and −∞ counters, the extreme (0 for none, else its code + 1), its index;
cnt: values of the segment so far, live values so far, and the index of the first NaN + 1 (0 for none). -/

/-- Exact values as integers: FP32 in units of 2^−300, INT32 as they are. -/
def rxUnits (int : Bool) (sq : Bool) (c : Nat) : Int := if int then toInt 32 c else contribution sq (fp32.value c)

/-- One live value enters a segment. -/
def rxEnter (w : ElemWord) (st : ElemSt) (c : Nat) : ElemSt :=
  let int := w.m 0 1 == 1
  let v : Ext := if int then .ofInt (toInt 32 c) else fp32.value c
  let g := fun i => st.acc.getD i 0
  let pos := st.cnt.getD 0 0
  let live := st.cnt.getD 1 0
  let nanAt := st.cnt.getD 2 0
  let sq := w.op == 4
  let x := toInt 1024 (g 0)
  let ext := g 4
  let better := ext == 0 ||
    (let e : Ext := if int then .ofInt (toInt 32 (ext - 1)) else fp32.value (ext - 1)
     if w.op == 2 then v.lt e else e.lt v)
  let acc' :=
    match v with
    | .nan => [g 0, g 1 + 1, g 2, g 3, ext, g 5]
    | .inf s => [g 0, g 1, if s && !sq then g 2 else g 2 + 1, if s && !sq then g 3 + 1 else g 3, if better then c + 1 else ext, if better then pos else g 5]
    | _ => [ofInt 1024 (x + rxUnits int sq c), g 1, g 2, g 3, if better then c + 1 else ext, if better then pos else g 5]
  { st with acc := acc', cnt := [pos, live + 1, if v.isNan && nanAt == 0 then pos + 1 else nanAt] }

/-- The result of a segment and its index (R311, R312). -/
def rxResult (w : ElemWord) (st : ElemSt) : (Nat × Bool) × (Nat × Bool) :=
  let int := w.m 0 1 == 1
  let g := fun i => st.acc.getD i 0
  let any := st.cnt.getD 1 0 != 0
  let x := toInt 1024 (g 0)
  let r : Nat :=
    match w.op with
    | 1 => ext int any g
    | 2 => if !any then (if int then 2 ^ 31 - 1 else 0x7F800000) else if g 1 > 0 then 0x7FC00000 else g 4 - 1
    | 3 => ext int any g
    | _ =>
      if int then satInt 32 x
      else if g 1 > 0 || (g 2 > 0 && g 3 > 0) then 0x7FC00000
      else if g 2 > 0 then 0x7F800000
      else if g 3 > 0 then 0xFF800000
      else if x == 0 then 0 else roundFp32 (.fin (decide (x < 0)) x.natAbs 1 (-300))
  let ix := if !any then 0xFFFFFFFF else if st.cnt.getD 2 0 != 0 then st.cnt.getD 2 0 - 1 else g 5
  ((r, any), (ix, any))
where
  ext (int any : Bool) (g : Nat → Nat) : Nat :=
    if !any then (if int then 2 ^ 31 else 0xFF800000) else if g 1 > 0 then 0x7FC00000 else g 4 - 1

def rxFresh (st : ElemSt) : ElemSt := { st with acc := [], cnt := [] }

/-- The values of a token enter, and the results of the segments that end. -/
def rxFeed (w : ElemWord) (st : ElemSt) : List (Nat × Bool) → ElemSt × List (Nat × Bool) × List (Nat × Bool)
  | [] => (st, [], [])
  | v :: vs =>
    let s1 := if v.2 then rxEnter w st v.1 else st
    let pos := st.cnt.getD 0 0 + 1
    let s2 := { s1 with cnt := [pos, s1.cnt.getD 1 0, s1.cnt.getD 2 0] }
    let slog := w.m 8 4
    if slog != 15 && pos == 2 ^ slog then
      let r := rxResult w s2
      let (s3, xs, ys) := rxFeed w (rxFresh s2) vs
      (s3, r.1 :: xs, r.2 :: ys)
    else rxFeed w s2 vs

def rxOp (w : ElemWord) (inp : Inputs) (st : ElemSt) : Firings :=
  drainFirst st (withPorts 2 [0] inp (fun ts =>
    let a := ts.getD 0 (deadTok 0 false)
    let (s1, xs, ys) := rxFeed w st (a.vals.zip a.live)
    let open_ := s1.cnt.getD 0 0 != 0
    let r := rxResult w s1
    let xs' := if a.last && open_ then xs ++ [r.1] else xs
    let ys' := if a.last && open_ then ys ++ [r.2] else ys
    let s2 := if a.last then rxFresh s1 else s1
    let (t0, c0) := collected 64 a.last st.col0 xs'
    let (t1, c1) := if w.op == 3 then collected 64 a.last st.col1 ys' else ([], [])
    .ok (emitting [0] { s2 with col0 := c0, col1 := c1 } t0 t1)))

/-! ### FX (R313, R314) -/

def fxMap (w : ElemWord) (inp : Inputs) (st : ElemSt) : Firings :=
  withPorts 3 [0] inp (fun ts =>
    let a := ts.getD 0 (deadTok 0 false)
    .ok (emitting [0] st [mkTok (a.vals.map (fxFun w.op)) a.live a.last] []))

/-- LUT: acc holds the entries that port 1 has brought; 256 make the table. -/
def fxLutOp (w : ElemWord) (inp : Inputs) (st : ElemSt) : Firings :=
  if st.acc.length < 256 then
    match inp 1 with
    | none => []
    | some t => [.ok (emitting [1] { st with acc := st.acc ++ t.vals } [] [])]
  else
    match inp 0 with
    | none => []
    | some a =>
      let clamp := w.m 0 1 == 1
      if !clamp && (a.vals.zip a.live).any (fun v => v.2 && v.1 ≥ 256) then [.error 0x53]
      else
        let look := fun (v : Nat × Bool) => if v.2 then st.acc.getD (min v.1 255) 0 else 0
        let st' := if a.last then { st with acc := [] } else st
        [.ok (emitting [0] st' [mkTok ((a.vals.zip a.live).map look) a.live a.last] [])]

/-! ### QX (R322 to R325) -/

/-- The scale of a block of FP32 values by its live values, and whether any is live (R159, R323). -/
def qxBlockScale (w : ElemWord) (vs : List (Nat × Bool)) : Nat × Bool :=
  let live := (vs.filter (·.2)).map (fun v => fp32.value v.1)
  let mag := fun (x : Ext) => if x.isNeg then x.neg else x
  let m := (live.filter (fun x => !x.isNan)).foldl (fun (a : Ext) x => if a.lt (mag x) then mag x else a) (.ofNat 0)
  (blockScale (w.qscale == 4) (live.any Ext.isNan) m w.qtexp, !live.isEmpty)

def qxBscaleOp (w : ElemWord) (inp : Inputs) (st : ElemSt) : Firings :=
  drainFirst st (withPorts 5 [0] inp (fun ts =>
    let a := ts.getD 0 (deadTok 0 false)
    let ss := (chunksOf w.qblock 64 (a.vals.zip a.live)).map (qxBlockScale w)
    let (t0, c0) := collected 256 a.last st.col0 ss
    .ok (emitting [0] { st with col0 := c0 } t0 [])))

/-- The scales of port 4 that are left (scales), and whether the last scale token read carried END (cnt 0). A firing that needs more
than are left reads one scale token; END must fall on both streams together (R323, R324, R295). -/
def qxScaled (w : ElemWord) (inp : Inputs) (st : ElemSt) (need : Nat)
    (k : Token → List (Nat × Bool) → Bool → ElemSt → Except Byte Firing) : Firings :=
  match inp 0 with
  | none => []
  | some a =>
    let have_ := st.scales.getD 0 []
    let ended := st.cnt.getD 0 0 == 1
    let go := fun (ss : List (Nat × Bool)) (e rd : Bool) =>
      if a.last != e && (a.last || ss.length ≤ need) then .error 0x55
      else k a (ss.take need) rd { st with scales := [if a.last then [] else ss.drop need], cnt := [if a.last then 0 else if e then 1 else 0] }
    if have_.length ≥ need then [go have_ ended false]
    else if ended then [.error 0x55]
    else match inp 4 with
      | none => []
      | some t => if w.op ≤ 1 then [go (have_ ++ t.vals.zip t.live) t.last true] else []

/-- The values of a token with the scale of each value's block. -/
def withScales (blk : Nat) (a : Token) (ss : List (Nat × Bool)) : List ((Nat × Bool) × (Nat × Bool)) :=
  (a.vals.zip a.live).zip ((List.range a.vals.length).map (fun i => ss.getD (i / blk) (0, false)))

def qxQuantOp (w : ElemWord) (inp : Inputs) (st : ElemSt) : Firings :=
  let q := fun (p : (Nat × Bool) × (Nat × Bool)) =>
    (convertValue (Ext.div (fp32.value p.1.1) (fmtValue w.qscale p.2.1)) w.tfmt, p.1.2 && p.2.2)
  let n := fmtCount w.tfmt
  drainFirst st
    (if w.qflag then
      withPorts 5 [0] inp (fun ts =>
        let a := ts.getD 0 (deadTok 0 false)
        let ss := (chunksOf w.qblock 64 (a.vals.zip a.live)).map (qxBlockScale w)
        let (t0, c0) := collected n a.last st.col0 ((withScales w.qblock a (ss.map (fun s => (s.1, true)))).map q)
        let (t1, c1) := collected 256 a.last st.col1 ss
        .ok (emitting [0] { st with col0 := c0, col1 := c1 } t0 t1))
    else
      qxScaled w inp st (64 / w.qblock) (fun a ss rd st' =>
        let (t0, c0) := collected n a.last st.col0 ((withScales w.qblock a ss).map q)
        .ok (emitting (if rd then [0, 4] else [0]) { st' with col0 := c0 } t0 [])))

def qxDeqOp (w : ElemWord) (inp : Inputs) (st : ElemSt) : Firings :=
  let v := fun (p : (Nat × Bool) × (Nat × Bool)) =>
    (roundFp32 ((fmtValue w.tfmt p.1.1).mul (fmtValue w.qscale p.2.1)), p.1.2 && p.2.2)
  drainFirst st
    (qxScaled w inp st (fmtCount w.tfmt / w.qblock) (fun a ss rd st' =>
      let vs := (withScales w.qblock a ss).map v
      let cs := chunksOf 64 16 vs
      .ok (emitting (if rd then [0, 4] else [0]) st'
        ((List.range cs.length).map (fun i =>
          let c := cs.getD i []
          mkTok (c.map (·.1)) (c.map (·.2)) (a.last && i + 1 == cs.length))) [])))

/-- The magnitudes of a format around a finite magnitude that it cannot hold: the codes below and above; none beyond its range. -/
def qxAround (f : Nat) (x : Ext) : Option (Nat × Nat) :=
  let w := fmtWidth f
  let half := 2 ^ (w - 1)
  let top := match floatOf f with | some g => g.maxMag | none => half - 1
  let c := convertValue x f % half
  if (fmtValue f top).lt x then none
  else if (fmtValue f c).lt x then some (c, c + 1)
  else if c == 0 then none else some (c - 1, c)

/-- ROUND of one FP32 value with its random word, if stochastic (R325); RG has one zero (R186). -/
def qxRoundValue (f : Nat) (sr : Option Nat) (c : Nat) : Nat :=
  let x := fp32.value c
  let near := roundFp32 (fmtValue f (convertValue x f))
  match sr, x with
  | some u, .fin s n d e =>
    let m : Ext := .fin false n d e
    if (fmtValue f (convertValue m f)).numEq m then near
    else match qxAround f m with
      | none => near
      | some (lo, hi) =>
        let vl := fmtValue f lo
        let vh := fmtValue f hi
        -- for a negative value the lower neighbour is the greater magnitude
        let (below, above) := if s then (vh, vl) else (vl, vh)
        let dist := if s then Ext.add false vh m.neg else Ext.add false m vl.neg
        let frac := Ext.div dist (Ext.add false vh vl.neg)
        let t : Nat := match frac with | .fin _ a b g => a * 2 ^ 32 * pow2 g / (b * pow2 (-g)) | _ => 0
        let y := if u < t then above else below
        roundFp32 (if s && !((f == 9 || f == 10) && y.numEq (.ofNat 0)) then y.neg else y)
  | _, _ => near

def qxRoundOp (w : ElemWord) (inp : Inputs) (st : ElemSt) : Firings :=
  withPorts 5 w.ports inp (fun ts =>
    let a := ts.getD 0 (deadTok 0 false)
    let u := ts.getD 1 a
    let n := a.vals.length
    .ok (emitting w.ports st
      [mkTok ((List.range n).map (fun i => qxRoundValue w.tfmt (if w.qflag then some (u.val i) else none) (a.val i)))
        (andLive a.live u.live) a.last] []))

/-! ### DL (R326): out0 holds the tokens inside, cnt 0 the tokens of the prime group that have been read -/

def dlOp (w : ElemWord) (inp : Inputs) (st : ElemSt) : Firings :=
  let depth := if w.m 0 6 == 0 then 64 else w.m 0 6
  let pcount := w.m 6 6
  let primed := st.cnt.getD 0 0
  let take : Option (Except Byte (Nat × Token × ElemSt)) :=
    if w.op == 1 && primed < pcount then
      (inp 1).map (fun t =>
        if t.last && primed + 1 < pcount then .error 0x56 else .ok (1, t, { st with cnt := [primed + 1] }))
    else (inp 0).map (fun t => .ok (0, t, if w.op == 1 && t.last then { st with cnt := [0] } else st))
  let out : Firings := if st.out0.isEmpty then [] else [.ok (drainFiring st)]
  match take with
  | none => out
  | some (.error c) => [.error c]
  | some (.ok (p, t, st')) =>
    let q := st.out0 ++ [t]
    -- both at once, the intake alone, or the emission alone
    (if st.out0.isEmpty then [] else [.ok (emitting [p] st' q [])]) ++
      (if st.out0.length < depth then [.ok { reads := [p], st := { st' with out0 := q }, o0 := none, o1 := none }] else []) ++ out

/-! ### PM (R327, R328) -/

/-- The tokens of n values each that hold a list of values; only the last carries END. -/
def tokensOf (n : Nat) (vs : List (Nat × Bool)) (last : Bool) : List Token :=
  let cs := chunksOf n (vs.length + 1) vs
  (List.range cs.length).map (fun i =>
    let c := cs.getD i []
    mkTok (c.map (·.1)) (c.map (·.2)) (last && i + 1 == cs.length))

def pmTransOp (w : ElemWord) (inp : Inputs) (st : ElemSt) : Firings :=
  let rows := 2 ^ w.m 0 3
  drainFirst st (withPorts 7 [0] inp (fun ts =>
    let a := ts.getD 0 (deadTok 0 false)
    let held := st.held ++ [a]
    if held.length < rows then
      if a.last then .error 0x57 else .ok (emitting [0] { st with held := held } [] [])
    else
      let n := a.vals.length
      let vs := (List.range (rows * n)).map (fun j =>
        let t := held.getD (j % rows) a
        (t.val (j / rows), t.liveAt (j / rows)))
      .ok (emitting [0] { st with held := [] } (tokensOf n vs a.last) [])))

def pmBcastOp (w : ElemWord) (inp : Inputs) (st : ElemSt) : Firings :=
  drainFirst st (withPorts 7 [0] inp (fun ts =>
    let a := ts.getD 0 (deadTok 0 false)
    let n := a.vals.length
    let i := w.m 1 7
    let t := if w.m 0 1 == 1 then mkTok (List.replicate n (a.val i)) (List.replicate n (a.liveAt i)) false else { a with last := false }
    .ok (emitting [0] st (List.replicate (w.m 8 4) t ++ [{ t with last := a.last }]) [])))

/-- SHUF on a link of format f: an XOR that leads outside a token of fewer than 256 values selects a free value, which the spec does not
state (log 38). -/
def pmShufOp (f : Nat) (w : ElemWord) (inp : Inputs) (st : ElemSt) : Firings :=
  withPorts 7 [0] inp (fun ts =>
    let a := ts.getD 0 (deadTok 0 false)
    let n := a.vals.length
    let p := w.m 0 8
    let src := fun (v : Nat) => if w.m 8 4 == 0 then (v / 256 * 256 + (v % 256 ^^^ p)) else (v + p) % n
    let val := fun (v : Nat) => if src v < n then a.val (src v) else (Config.outside a.vals (src v)).toNat % 2 ^ fmtWidth f
    let live := fun (v : Nat) => if src v < n then a.liveAt (src v) else (Config.outside a.vals (src v)).getLsbD 63
    .ok (emitting [0] st [mkTok ((List.range n).map val) ((List.range n).map live) a.last] []))

def pmPackOp (w : ElemWord) (inp : Inputs) (st : ElemSt) : Firings :=
  drainFirst st (withPorts 7 [0] inp (fun ts =>
    let a := ts.getD 0 (deadTok 0 false)
    let k := 2 ^ w.m 0 4
    let (t0, c0) := collected a.vals.length a.last st.col0 ((a.vals.zip a.live).take k)
    .ok (emitting [0] { st with col0 := c0 } t0 [])))

def pmUnpackOp (w : ElemWord) (inp : Inputs) (st : ElemSt) : Firings :=
  drainFirst st (withPorts 7 [0] inp (fun ts =>
    let a := ts.getD 0 (deadTok 0 false)
    let n := a.vals.length
    let cs := chunksOf (2 ^ w.m 0 4) (n + 1) (a.vals.zip a.live)
    let pad := fun (c : List (Nat × Bool)) => c ++ List.replicate (n - c.length) (0, false)
    .ok (emitting [0] st ((List.range cs.length).map (fun i =>
      let c := pad (cs.getD i [])
      mkTok (c.map (·.1)) (c.map (·.2)) (a.last && i + 1 == cs.length))) [])))

/-! ### SM (R329 to R331) -/

def smSelOp (inp : Inputs) (st : ElemSt) : Firings :=
  withPorts 8 [0, 1, 2] inp (fun ts =>
    let a := ts.getD 0 (deadTok 0 false)
    let b := ts.getD 1 a
    let c := ts.getD 2 a
    let n := a.vals.length
    let pick := fun (v : Nat) => if c.val v != 0 then a else b
    .ok (emitting [0, 1, 2] st
      [mkTok ((List.range n).map (fun v => (pick v).val v)) ((List.range n).map (fun v => (pick v).liveAt v && c.liveAt v)) a.last] []))

/-- The choices of a control token: its values up to the first dead one; true for any value but 0. -/
def smChoices (t : Token) : List Nat := ((t.vals.zip t.live).takeWhile (·.2)).map (fun v => if v.1 == 0 then 0 else 1)

/-- MERGE and SPLIT: cnt holds the choices of the control token at hand that are left. A control token without a choice is passed
over by a firing of its own. -/
def smRoute (split : Bool) (inp : Inputs) (st : ElemSt) : Firings :=
  let go := fun (ctl : List Nat) (cs : List Nat) =>
    match cs with
    | [] => [.ok { reads := ctl, st := { st with cnt := [] }, o0 := none, o1 := none }]
    | c :: rest =>
      let p := if split then 0 else c
      match inp p with
      | none => []
      | some t =>
        let st' := { st with cnt := rest }
        [.ok { reads := p :: ctl, st := st', o0 := if split && c == 1 then none else some t, o1 := if split && c == 1 then some t else none }]
  if st.cnt.isEmpty then
    match inp 2 with
    | none => []
    | some t => go [2] (smChoices t)
  else go [] st.cnt

/-- FILTER: an END token always leaves with an END token, which may hold no live value. -/
def smFilterOp (inp : Inputs) (st : ElemSt) : Firings :=
  drainFirst st (withPorts 8 [0] inp (fun ts =>
    let a := ts.getD 0 (deadTok 0 false)
    let (t0, c0) := collected a.vals.length a.last st.col0 ((a.vals.zip a.live).filter (·.2))
    .ok (emitting [0] { st with col0 := c0 } t0 [])))

/-- CONST: with KVAL 0 acc holds K once the first port-1 token has brought it; fmt is the format of the port-1 link. -/
def smConstOp (w : ElemWord) (fmt1 : Nat) (inp : Inputs) (st : ElemSt) : Firings :=
  let k := w.m 0 4
  if k == 0 && st.acc.isEmpty then
    match inp 1 with
    | none => []
    | some t => [.ok { reads := [1], st := { st with acc := [t.val 0] }, o0 := none, o1 := none }]
  else
    match inp 0 with
    | none => []
    | some a =>
      let n := if k == 0 then fmtCount fmt1 else 64
      let v := if k == 0 then st.acc.getD 0 0 else [0, 0, 0x3F800000, 0xFF800000, 0x7F800000, 0x7FC00000, 0xFFFFFFFF].getD k 0
      [.ok (emitting [0] st [constTok n v a.last] [])]

/-! ### RN (R332, R333) -/

/-- One of the four rounds of h. -/
def rnStep (kk : Word) (x : Word) (n : Nat) : Word :=
  let x1 := x + kk + BitVec.ofNat 64 n * 0xD1B54A32D192ED03
  let x2 := x1 ^^^ (x1 >>> 31)
  let x3 := x2 * 0x8CB92BA72F3D8DD7
  x3 ^^^ (x3 >>> 29)

def rnHash (layer seed i : Nat) : Nat :=
  let kk := BitVec.ofNat 64 (layer * 2 ^ 48 + seed)
  ((([1, 2, 3, 4].foldl (rnStep kk) (BitVec.ofNat 64 i)).setWidth 32)).toNat

/-- cnt 0: port-0 tokens since load. -/
def rnOp (w : ElemWord) (inp : Inputs) (st : ElemSt) : Firings :=
  let val := fun (i : Nat) =>
    let h := rnHash (w.x 48 16) (w.x 0 48) i
    if w.op == 0 then h else if h < w.m 1 11 * 2 ^ 21 then 1 else 0
  match inp 0 with
  | none => []
  | some a =>
    if w.m 0 1 == 1 then [.ok (emitting [0] st [mkTok (a.vals.map val) a.live a.last] [])]
    else
      let t := st.cnt.getD 0 0
      if t + 1 ≥ 2 ^ 58 then [.error 0x59]
      else [.ok (emitting [0] { st with cnt := [t + 1] }
        [mkTok ((List.range 64).map (fun v => val (64 * t + v))) (List.replicate 64 true) a.last] [])]

end Sys2Proof.Machine
end

