-- ==== Sys2Proof/Machine/FieldMx.lean ====
section
/-! DEFINITION. The matrix elements MX (R192 to R195, R297 to R303). An operation gathers the operand tokens of a tile; the firing that
ends the tile computes it whole and appends its 16 tokens to the tokens that the element still has to emit. -/

namespace Sys2Proof.Machine

open Sys2Proof

/-! ### Firings that take in while tokens of an earlier tile leave -/

/-- The ways in which a state's waiting tokens can leave in one firing: of both outputs, or of one. -/
def emissions (reads : List Nat) (st : ElemSt) : List Firing :=
  (if st.out0.isEmpty || st.out1.isEmpty then [] else [emitting reads st st.out0 st.out1]) ++
    (if st.out0.isEmpty then [] else [{ reads := reads, st := { st with out0 := st.out0.drop 1 }, o0 := st.out0.head?, o1 := none }]) ++
    (if st.out1.isEmpty then [] else [{ reads := reads, st := { st with out1 := st.out1.drop 1 }, o0 := none, o1 := st.out1.head? }])

/-- An intake with or without the emission of waiting tokens. -/
def intake (reads : List Nat) (st : ElemSt) : List Firing := emissions reads st ++ [{ reads := reads, st := st, o0 := none, o1 := none }]

/-- The intakes of an element, a fault among them standing alone, and then its emissions. -/
def mxFirings (st : ElemSt) (ins : Firings) : Firings :=
  if ins.any (fun i => match i with | .error _ => true | .ok _ => false) then ins
  else ins ++ (emissions [] st).map .ok

/-! ### Tiles -/

/-- ts, the exact product of the tensor scales, if there are any (R194, R298). -/
def ElemWord.tensorScale (w : ElemWord) : Option Ext :=
  match w.tsfmt with
  | 0 => none
  | 1 => some ((bf16.value (w.ts / 2 ^ 16)).mul (bf16.value (w.ts % 2 ^ 16)))
  | 2 => some (fp32.value w.ts)
  | _ => some ((ue8m0 (w.ts / 2 ^ 8 % 2 ^ 8)).mul (ue8m0 (w.ts % 2 ^ 8)))

/-- A value and its predicate bit at (row or column i, K index k) of an operand whose low port is p; toks f q is the token of firing f
at port q (R299). -/
def mxOperand (fmt p : Nat) (toks : Nat → Nat → Token) (i k : Nat) : Nat × Bool :=
  let kf := mxKf fmt
  let kc := mxKc fmt
  let o := k % kf
  let t := toks (k / kf) (p + i / 16 + (if o < kc then 0 else 4))
  let x := i % 16 * kc + o % kc
  (t.val x, t.liveAt x)

/-- One output of a tile: the sum over K and the AND of the predicate bits. a, b: operand codes; sa, sb: block scales by K index. -/
def mxCell (w : ElemWord) (kk : Nat) (a b : Nat → Nat × Bool) (sa sb : Nat → Ext × Bool) : Nat × Bool :=
  let ks := List.range kk
  (mxOutput (ks.map (fun k => ((sa k).1.mul (sb k).1).mul ((fmtValue w.afmt (a k).1).mul (fmtValue w.bfmt (b k).1)))) w.tensorScale,
   ks.all (fun k => (a k).2 && (b k).2 && (sa k).2 && (sb k).2))

/-- The 16 tokens of a tile of 32 × 32 values (R300). -/
def tileTokens (cell : Nat → Nat → Nat × Bool) (last : Bool) : List Token :=
  (List.range 16).map (fun t =>
    let vs := (List.range 64).map (fun j => cell (2 * t + j / 32) (j % 32))
    mkTok (vs.map (·.1)) (vs.map (·.2)) (last && t == 15))

/-- No block scale. -/
def noScale : Nat → Nat → Ext × Bool := fun _ _ => (.ofNat 1, true)

/-- The tokens of a tile from its operand tokens, held firing by firing in the order of the ports ps. -/
def mxTile (w : ElemWord) (kk : Nat) (ps : List Nat) (held : List Token) (sa sb : Nat → Nat → Ext × Bool) (last : Bool) : List Token :=
  let toks := fun (f q : Nat) => held.getD (f * ps.length + ps.idxOf q) (deadTok 0 false)
  tileTokens (fun r c =>
    mxCell w kk (mxOperand w.afmt 0 toks r) (mxOperand w.bfmt 2 toks c) (sa r) (sb c)) last

/-- The number of firings of a tile (R299). -/
def ElemWord.mxFirings (w : ElemWord) : Nat := (w.klen + mxKf w.afmt - 1) / mxKf w.afmt

/-! ### MMA and MDRN (R300): held holds the operand tokens of the tile at hand -/

/-- The tokens at the ports of a firing, with their common END bit; a disagreement is 0x50. -/
def mxTake (ps : List Nat) (inp : Inputs) (k : List Token → Bool → Firings) : Firings :=
  let ts := ps.filterMap inp
  if ts.length < ps.length then []
  else
    let e := (ts.headD (deadTok 0 false)).last
    if ts.all (fun t => t.last == e) then k ts e else [.error 0x50]

def mxMmaOp (w : ElemWord) (inp : Inputs) (st : ElemSt) : Firings :=
  mxFirings st
    (if st.out0.length > 16 then []
    else mxTake w.ports inp (fun ts e =>
      let held := st.held ++ ts
      let f := held.length / w.ports.length
      let ends := if w.op == 4 then e else f == w.mxFirings
      if e && !ends then [.error 0x50]
      else if !ends then (intake w.ports { st with held := held }).map .ok
      else
        let kk := if w.op == 4 then f * mxKf w.afmt else w.klen
        (intake w.ports { st with held := [], out0 := st.out0 ++ mxTile w kk w.ports held noScale noScale e }).map .ok))

/-! ### MMA.BS (R301): scales holds the scale values of the tile that ports 4 to 7 have brought, cnt whether the tile's last scale
token of each of these ports carried END -/

def ElemWord.blk (w : ElemWord) : Nat := 8 * 2 ^ w.m 2 2
def ElemWord.scalePorts (w : ElemWord) : List Nat := w.ports.filter (4 ≤ ·)
/-- Scale tokens of a tile at one port. -/
def ElemWord.scaleToks (w : ElemWord) : Nat := (16 * ((w.klen + w.blk - 1) / w.blk) + 255) / 256

/-- The scale of block k / BL of row or column i, from the values of its port. -/
def mxScaleAt (w : ElemWord) (scales : List (List (Nat × Bool))) (on : Bool) (p i k : Nat) : Ext × Bool :=
  if !on then (.ofNat 1, true)
  else
    let v := (scales.getD (p + i / 16 - 4) []).getD (k / w.blk * 16 + i % 16) (0, false)
    (fmtValue w.sfmt v.1, v.2)

def mxBsOp (w : ElemWord) (inp : Inputs) (st : ElemSt) : Firings :=
  let ops := [0, 1, 2, 3]
  let kf := mxKf w.afmt
  let f := st.held.length / 4
  let lastBlk := (min ((f + 1) * kf) w.klen - 1) / w.blk
  let got := fun (p : Nat) => st.scales.getD (p - 4) []
  let reads := w.scalePorts.filter (fun p => (got p).length ≤ 16 * lastBlk)
  let lastTok := w.scaleToks == lastBlk / 16 + 1
  mxFirings st
    (if st.out0.length > 16 || reads.any (fun p => (inp p).isNone) then []
    else mxTake ops inp (fun ts e =>
      let tok := fun (p : Nat) => (inp p).getD (deadTok 0 false)
      let held := st.held ++ ts
      let ends := f + 1 == w.mxFirings
      let scales := [4, 5, 6, 7].map (fun p => if reads.contains p then got p ++ (tok p).vals.zip (tok p).live else got p)
      let flag := fun (p : Nat) => if reads.contains p then (tok p).last else st.cnt.getD (p - 4) 0 == 1
      if e && !ends then [.error 0x50]
      else if !lastTok && reads.any (fun p => (tok p).last) then [.error 0x50]
      else if ends && w.scalePorts.any (fun p => flag p != e) then [.error 0x50]
      else if !ends then
        (intake (ops ++ reads) { st with held := held, scales := scales, cnt := [4, 5, 6, 7].map (fun p => if flag p then 1 else 0) }).map .ok
      else
        let tile := mxTile w w.klen ops held (mxScaleAt w scales (w.m 0 1 == 1) 4) (mxScaleAt w scales (w.m 1 1 == 1) 6) e
        (intake (ops ++ reads) { st with held := [], scales := [], cnt := [], out0 := st.out0 ++ tile }).map .ok))

/-! ### MMA.RC (R302): acc and accLive hold the panel H in AFMT, which a tile takes in first, held the B tokens of the tile at hand, cnt 0
the tiles of the round so far, and col1 the last token for output 1 of the tile before, whose END bit is that of the B operand of the tile at
hand. In the rule's loop that token is the last of the panel, so that the B operand may then go before it (log 35) -/

/-- The B ports. -/
def ElemWord.rcPorts (w : ElemWord) : List Nat := w.ports.filter (fun p => p != 0)

/-- With the panel and the B operand complete the tile is computed; e: the B operand brought END. -/
def mxRcTile (w : ElemWord) (st : ElemSt) : ElemSt :=
  let ps := w.rcPorts
  if st.acc.length < 1024 || st.held.length < 32 / mxKf w.bfmt * ps.length then st
  else
    let e := (st.held.getLastD (deadTok 0 false)).last
    let toks := fun (f q : Nat) => st.held.getD (f * ps.length + ps.idxOf q) (deadTok 0 false)
    let a := fun (r k : Nat) => (st.acc.getD (r * 32 + k) 0, st.accLive.getD (r * 32 + k) false)
    let tile := tileTokens (fun r c => mxCell w 32 (a r) (mxOperand w.bfmt 2 toks c) (noScale r) (noScale c)) false
    let tileE := (tile.take 15) ++ (tile.drop 15).map (fun t => { t with last := e })
    let st' := { st with acc := [], accLive := [], held := [], out0 := st.out0 ++ tileE, cnt := if e then [] else [st.cnt.getD 0 0 + 1] }
    if e then st'
    else
      let t := tile.getLastD (deadTok 0 false)
      { st' with out1 := st.out1 ++ tile.take 15, col1 := t.vals.zip t.live }

def mxRcOp (w : ElemWord) (inp : Inputs) (st : ElemSt) : Firings :=
  let ps := w.rcPorts
  let full := 32 / mxKf w.bfmt * ps.length
  let free := st.out0.length ≤ 16 && st.out1.length ≤ 16
  let paneled := st.acc.length ≥ 1024
  -- all of the panel but its last token, which may be the one that waits for the B operand
  let ahead := st.acc.length ≥ 960 && !st.col1.isEmpty
  let panel : Firings :=
    match inp 0 with
    | none => []
    | some t =>
      if paneled || (st.acc.length ≥ 960 && st.held.length == full && !free) then []
      else
        (intake [0] (mxRcTile w { st with
          acc := st.acc ++ t.vals.map (fun h => convertValue (fp32.value h) w.afmt), accLive := st.accLive ++ t.live })).map .ok
  let operand : Firings :=
    if !(paneled || ahead) || st.held.length == full || (paneled && st.held.length + ps.length == full && !free) then []
    else mxTake ps inp (fun ts e =>
      let held := st.held ++ ts
      let ends := held.length == full
      if e && !ends then [.error 0x50]
      else if e && st.cnt.getD 0 0 == 0 then [.error 0x50]
      else
        let st1 := { st with held := held }
        -- the END bit of the token that waits for output 1 is known with the last firing of the tile that follows it
        let st2 := if ends && !st.col1.isEmpty then
            { st1 with out1 := st.out1 ++ [mkTok (st.col1.map (·.1)) (st.col1.map (·.2)) e], col1 := [] }
          else st1
        (intake ps (mxRcTile w st2)).map .ok)
  mxFirings st (panel ++ operand)

/-! ### MZERO (R303) -/

def mxZeroOp (inp : Inputs) (st : ElemSt) : Firings :=
  mxFirings st
    (if st.out0.length > 16 then []
    else match inp 0 with
      | none => []
      | some t => (intake [0] { st with out0 := st.out0 ++ tileTokens (fun _ _ => (0, true)) t.last }).map .ok)

end Sys2Proof.Machine
end

