-- ==== Sys2Proof/Machine/Engines.lean ====
section
/-! DEFINITION. Stream engines: rounds and their parameters (R115, R116, R264, R317), the addresses that a round visits (R318 to R321),
reads into entry queues (R112, R113), stores (R143, R318, R319), and the requests of PT EREQ (R338). -/

namespace Sys2Proof.Machine

open Sys2Proof

/-! ### Faults of engines and elements (R122, R127) -/

/-- A fault of stream engine se: it freezes the Field; a detail takes the place of the cause in FLTPEND (R317, R321). -/
def Region.engineFault (g : Region) (now se : Nat) (cause : Byte) (detail : Option Byte) : Region :=
  let g1 := g.pendFault now cause (BitVec.ofNat 64 se) true
  match detail, g.pend with
  | some d, none => { g1 with pacer := { g1.pacer with fltpend := fltWord d (BitVec.ofNat 64 se) } }
  | _, _ => g1

def State.engineFault (s : State) (r se : Nat) (cause : Byte) (detail : Option Byte) : State :=
  s.onRegion r (·.engineFault s.now se cause detail)

/-- A runtime fault of element e of the configuration of a slot (R295); of several in one fc, that of the lowest element index is kept, and
the others arrived before its delivery (R127). -/
def State.elemFault (s : State) (r slot e : Nat) (cause : Byte) : State :=
  let v := BitVec.ofNat 64 (e + slot * 256)
  let s1 := s.pendFault r cause v true
  match (s.region r).pend with
  | none => s1.onRegion r (fun g => { g with pend := g.pend.map (fun p => { p with elem := some (e, s.now) }) })
  | some p =>
    if p.elem.any (fun x => x.2 == s.now && e < x.1) then
      s1.onRegion r (fun g => { g with
        pend := some { cause := cause, tval := v, multi := true, elem := some (e, s.now) }, pacer := { g.pacer with fltpend := fltWord cause v } })
    else s1

/-- The fault of an engine whose access fails with a cause: 0x62 with the class-1 detail, 0x63, or the port's own cause (R317, R338). -/
def State.accessFault (s : State) (r se : Nat) (c : Byte) : State :=
  if c.toNat / 16 == 1 then s.engineFault r se 0x62 (some c)
  else if c.toNat / 16 == 2 then s.engineFault r se 0x63 none
  else s.engineFault r se c none

def State.onEngine (s : State) (r se : Nat) (f : Engine → Engine) : State := s.onRegion r (fun g => g.setEngine se (f (g.engine se)))
def State.onEngSlot (s : State) (r se k : Nat) (f : EngSlot → EngSlot) : State :=
  s.onEngine r se (fun e => e.setSlot k (f (e.slot k)))

/-- The spaces that an engine reaches (R318, R373). -/
def engSpaces : List Nat := [1, 2, 3, 4, 5]

/-- An engine's access of n bytes. -/
def State.engPieces (s : State) (r : Nat) (c : Cap) (a n perms kind : Nat) (spaces : List Nat) (use : Use) : Except Byte (List Piece) :=
  s.piecesFor r (s.vdOf r) (s.region r).task.isNone c a n perms kind spaces use 0x64

/-! ### Rounds -/

/-- The round register of an AG element at arm: p is its 16-bit arm parameter, rot the lane rotation offset (R110, R317). -/
def roundReg (w : ElemWord) (cap : Cap) (p rot : Nat) : RoundReg :=
  { op := w.op, mode := w.mode, cap := cap, mfmt := w.mfmt, base := 0, ext0 := ext0Of (w.x 45 6), ext1 := extOf (w.x 37 8),
    ext2 := extOf (w.x 23 8), ext3 := if p == 0 then extOf (w.x 9 8) else p, sd1 := strideOf (w.x 31 6), sd2 := strideOf (w.x 17 6),
    sd3 := strideOf (w.x 3 6), rot := if w.rot then rot * strideOf (w.x 17 6) else 0 }

def RoundReg.wait (g : RoundReg) : Bool := g.op == 4 && g.mode.getLsbD 1
def RoundReg.take0 (g : RoundReg) : Bool := g.op == 4 && !g.mode.getLsbD 0 && g.mode.getLsbD 2
def RoundReg.writes (g : RoundReg) : Bool := g.op == 1 || ((g.op == 4 || g.op == 5) && g.mode.getLsbD 0)
def RoundReg.adv (g : RoundReg) : Nat := bitsOf g.mode.toNat 4 4

/-- An extent that the operation does not use is 1 (R316). -/
def RoundReg.unusedOk (g : RoundReg) : Bool :=
  (g.op != 3 || (g.ext2 == 1 && g.ext3 == 1)) && (g.op != 5 || (g.ext1 == 1 && g.ext2 == 1 && g.ext3 == 1))

/-- The space of a capability, as its cursor gives it for a generic one. -/
def Cap.spaceAt (c : Cap) : Nat := if c.space == 0 then c.cursor.toNat / 2 ^ 56 else c.space.toNat

/-- The checks that give 0x60 at arm and at STRM.GO (R317). -/
def RoundReg.armOk (g : RoundReg) : Bool :=
  !((g.op == 2 || g.wait || g.take0) && g.cap.spaceAt != 1 && g.cap.spaceAt != 2) && !(g.op == 4 && g.ext2 > g.ext1)

/-- The checks that give 0x61 at round start (R317). -/
def RoundReg.startOk (g : RoundReg) : Bool :=
  1 ≤ g.ext0 && g.ext0 ≤ 64 && [g.ext1, g.ext2, g.ext3].all (fun x => 1 ≤ x && x ≤ 65535) && !(g.op == 4 && g.base.toNat ≥ g.ext1) &&
    g.unusedOk

/-- A parameter replaces the base or an extent (R264, R317). -/
def RoundReg.take (g : RoundReg) (p : Parm) : RoundReg :=
  match p.field with
  | 0 => { g with base := p.value }
  | 1 => { g with ext0 := p.value.toNat }
  | 2 => { g with ext1 := p.value.toNat }
  | 3 => { g with ext2 := p.value.toNat }
  | _ => { g with ext3 := p.value.toNat }

/-- The tokens that a round of RD, WR, RDFE or RING visits. -/
def RoundReg.count (g : RoundReg) : Nat := if g.op == 4 then g.ext0 * g.ext2 * g.ext3 else g.ext0 * g.ext1 * g.ext2 * g.ext3

/-- The address of token i of such a round (R318, R319). -/
def RoundReg.addr (g : RoundReg) (i : Nat) : Nat :=
  let i0 := i % g.ext0
  let j := i / g.ext0
  if g.op == 4 then
    let sl := (g.base.toNat + j % g.ext2) % g.ext1
    (g.cap.cursor.toNat + j / g.ext2 * g.sd3 + sl * g.sd1 + i0 * 256) % 2 ^ 64
  else
    (g.cap.cursor.toNat + g.base.toNat + g.rot + j / g.ext1 / g.ext2 * g.sd3 + j / g.ext1 % g.ext2 * g.sd2 + j % g.ext1 * g.sd1 +
      i0 * 256) % 2 ^ 64

/-- The permissions and the act of reading a granule of token i (R318, R319). -/
def RoundReg.readPerms (g : RoundReg) (i : Nat) : Nat × Act :=
  let take := (g.op == 2 && g.mode.getLsbD 0) || (g.take0 && i / g.ext0 % g.ext2 == 0)
  (permLoad + permEngine + (if take then permStore else 0),
   if g.op == 2 || g.wait || take then .readFe 16 take else .read 16)

/-- The round is over: a RING's base advances (R319). -/
def Engine.endRound (e : Engine) (r : Round) : Engine :=
  let es := e.slot r.slot
  let reg := es.reg.map (fun g => if g.op == 4 then { g with base := BitVec.ofNat 64 ((r.reg.base.toNat + g.adv) % r.reg.ext1) } else g)
  { (e.setSlot r.slot { es with reg := reg }) with round := none }

/-- ROUND_START: the next commanded round of engine se begins, with the parameters that are due (R115, R116, R317). -/
def State.roundStart (s : State) (r se : Nat) : State :=
  let g := s.region r
  let e := g.engine se
  match e.round, e.cmds with
  | none, (k, n) :: rest =>
    let es := e.slot k
    match es.reg with
    | none => s
    | some reg =>
      if g.frozen then s
      else
        let due := es.parms.takeWhile (fun p => p.after ≤ es.started)
        let reg' := due.foldl RoundReg.take reg
        if !reg'.startOk then s.engineFault r se 0x61 none
        else
          let e1 := e.setSlot k { es with reg := some reg', parms := es.parms.drop due.length, started := es.started + 1 }
          s.onRegion r (fun g => g.setEngine se { e1 with
            cmds := if n ≤ 1 then rest else (k, n - 1) :: rest,
            round := some { slot := k, reg := reg', i := 0, todo := [], look := none, stores := 0, ended := false } })
  | _, _ => s

/-! ### Reads -/

/-- Entry-queue places that are free for a slot, reads in flight counted (R113). -/
def Engine.place (e : Engine) (k : Nat) : Bool := (e.slot k).entry.length + (e.fetches.filter (fun f => f.slot == k)).length < 16

/-- The values of 256 bytes in a memory format (R99, R182). -/
def tokenVals (f : Nat) (bs : List Byte) : List Nat :=
  let b := fmtBits f
  if b == 4 then bs.flatMap (fun x => [x.toNat % 16, x.toNat / 16])
  else (List.range (256 * 8 / b)).map (fun i => leNat (sliceOf bs (i * (b / 8)) (b / 8)) % 2 ^ fmtWidth f)

/-- Reads that are complete pass into the entry queue in their order. -/
def Engine.land : Nat → Engine → Engine
  | 0, e => e
  | fuel + 1, e =>
    match e.fetches with
    | [] => e
    | f :: fs =>
      let es := e.slot f.slot
      let put := fun (t : Token) => Engine.land fuel { (e.setSlot f.slot { es with entry := es.entry ++ [t] }) with fetches := fs }
      if f.zero then put (deadTok (fmtCount f.mfmt) f.last)
      else if f.got.length < f.ids.length then e
      else
        let bs := f.ids.flatMap (fun i => ((f.got.find? (fun p => p.1 == i)).map (·.2)).getD [])
        put { vals := tokenVals f.mfmt bs, live := List.replicate (fmtCount f.mfmt) true, last := f.last, stamp := 0 }

/-- The engine waits for the response of a request. -/
def Engine.awaits (e : Engine) (id : Nat) : Bool :=
  e.fetches.any (fun f => f.ids.contains id) || (e.round.bind (·.look)).any (fun l => l.ids.contains id)

/-- The response of a granule read; tag: the granule's tag, for a read of a capability. -/
def Engine.arrive (e : Engine) (id : Nat) (bs : List Byte) (tag : Bool) : Engine :=
  Engine.land 64 { e with
    fetches := e.fetches.map (fun f => if f.ids.contains id then { f with got := f.got ++ [(id, bs)] } else f),
    round := e.round.map (fun rd => { rd with look := rd.look.map (fun l => if l.ids.contains id then { l with got := l.got ++ [(id, bs, tag)] } else l) }) }

/-- A token's read is issued: one request per granule into CQ, in address order. -/
def State.issueRead (s : State) (r se k : Nat) (cap : Cap) (a perms mfmt : Nat) (act : Act) (last : Bool) : Except Byte State :=
  match s.engPieces r cap a 256 perms kindRead engSpaces Use.read with
  | .error f => .error f
  | .ok ps =>
    let (s1, ids) := s.enter (.engine r k se) (.cq r k se)
      (ps.map (fun p => { key := p.key, va := p.va, port := portOf p.key, cmpr := p.cmpr,
                          act := match act with | .readFe _ t => .readFe p.size t | _ => .read p.size }))
    .ok (s1.onEngine r se (fun e =>
      { e with fetches := e.fetches ++ [{ slot := k, ids := ids, got := [], zero := false, last := last, mfmt := mfmt }] }))

/-! ### Index and position tokens (R320, R321) -/

/-- A sequence descriptor's header is invalid (R86). -/
def sqdBad (hd : List Byte) (pool : Cap) : Bool :=
  let w := fun (o : Nat) => fieldLe hd o 4
  !pool.tag || !pool.has (permLoad + permStore + permAtomic) || !(1 ≤ w 0x1C && w 0x1C ≤ 4096) || w 0x18 > w 0x1C || w 0x10 > 64 * w 0x18 ||
    !((hd.drop 0x2C).take 20).all (· == 0)

/-- A pool descriptor is invalid (R86). -/
def poolBad (pd : List Byte) : Bool :=
  let nblk := fieldLe pd 0 4
  let bsize := fieldLe pd 4 4
  nblk == 0 || nblk > 2 ^ 24 || bsize == 0 || bsize % 2048 != 0 || fieldLe pd 0x38 8 != 0

/-- What KvSlot gives for a position (R94). -/
inductive KvRes where
  | kept (b slot : Nat)
  | beyond
  | notKept
deriving DecidableEq, Repr

/-- The slot of bit i in a survivor bitmap, if it is set. -/
def survSlot (surv i : Nat) : Option Nat :=
  if surv.testBit i then some (((List.range i).filter (fun j => surv.testBit j)).length) else none

/-- The tokens of a row from an address, through a capability. -/
def RoundReg.row (g : RoundReg) (a : Nat) (c : Cap) : List (Option (Word × Cap)) :=
  (List.range g.ext0).map (fun i => some (BitVec.ofNat 64 (a + i * 256), c))

/-- A row of tokens of zeros, or of tokens to discard. -/
def RoundReg.noRow (g : RoundReg) : List (Option (Word × Cap)) := List.replicate g.ext0 none

/-- The rows of the values of an index token (R320): none where a live index is not below EXT1. -/
def RoundReg.gather (g : RoundReg) : List (Nat × Bool) → Option (List (Option (Word × Cap)))
  | [] => some []
  | (v, live) :: vs =>
    if live && v ≥ g.ext1 then none
    else (g.gather vs).map (fun rest => (if live then g.row (g.cap.cursor.toNat + g.base.toNat + v * g.sd1) g.cap else g.noRow) ++ rest)

/-- The round with the rows of a token's positions, the last of which carries the token's END. -/
def Round.withRows (rd : Round) (last : Bool) (rows : List (Option (Word × Cap))) : Round :=
  { rd with
    look := none, ended := last, todo := (List.range rows.length).zipWith (fun i x => (x, last && i + 1 == rows.length)) rows }

/-- Engine se takes in an index or position token of element e; of a slot that has been disarmed it reads nothing more, and the token is
gone (R260). -/
def State.engineIndex (s : State) (r k se e : Nat) (t : Token) : State :=
  match ((s.region r).engine se).round with
  | none => s
  | some rd =>
    if rd.reg.op == 3 then
      match rd.reg.gather (t.vals.zip t.live) with
      | none => s.elemFault r k e 0x54
      | some rows => s.onEngine r se (fun en => { en with round := some (rd.withRows t.last rows) })
    else
      s.onEngine r se (fun en => { en with round := some { rd with
        look := some { pos := t.vals.zip t.live, last := t.last, rows := [], phase := 0, ids := [], got := [], hd := [], pool := Cap.null, pd := [],
                       blk := 0 } } })

/-- The read that a mapping makes next: its capability, address, bytes and act (R86, R94, R321). -/
def Look.read (l : Look) (g : RoundReg) : Cap × Nat × Nat :=
  let a := g.cap.cursor.toNat
  match l.phase with
  | 0 => (g.cap, a, 64)
  | 1 => (l.pool, l.pool.cursor.toNat, 64)
  | 2 => (g.cap, a + 0x40 + 4 * ((l.pos.headD (0, false)).1 / 64), 4)
  | _ => (l.pool, fieldLe l.pd 8 8 + 32 * l.blk + 8, 8)

/-- The first position left is mapped to rows. -/
def Look.found (l : Look) (rows : List (Option (Word × Cap))) : Look :=
  { l with pos := l.pos.drop 1, rows := l.rows ++ rows, phase := 0, ids := [], got := [] }

/-- What the bytes of a mapping's read decide: the mapping after it, or the engine's fault (R94, R321). tag: of the first granule read. -/
def Look.step (l : Look) (g : RoundReg) (bs : List Byte) (tag : Bool) : Except (Byte × Option Byte) Look :=
  let p := (l.pos.headD (0, false)).1
  let none_ : Except (Byte × Option Byte) Look := if g.writes then .error (0x66, none) else .ok (l.found g.noRow)
  match l.phase with
  | 0 =>
    let pool := Cap.ofBytes (bs.take 16) tag
    if sqdBad bs pool then .error (0x62, some 0x99) else .ok { l with phase := 1, ids := [], got := [], hd := bs, pool := pool }
  | 1 =>
    if poolBad bs then .error (0x62, some 0x9A)
    else if p ≥ fieldLe l.hd 0x10 4 then none_
    else .ok { l with phase := 2, ids := [], got := [], pd := bs }
  | 2 => .ok { l with phase := 3, ids := [], got := [], blk := leNat bs }
  | _ =>
    match survSlot (leNat bs) (p % 64) with
    | none => none_
    | some sl => .ok (l.found (g.row (fieldLe l.pd 0x10 8 + l.blk * fieldLe l.pd 4 4 + sl * g.sd1) l.pool))

/-- Engine se goes on with the mapping of a token of positions: a dead position has a row of zeros, or tokens to discard; for a live one
the engine's next read enters CQ, or has returned and decides (R294, R321). -/
def State.engineLook (s : State) (r se : Nat) (rd : Round) (l : Look) : State :=
  let put := fun (rd' : Round) => s.onEngine r se (fun en => { en with round := some rd' })
  match l.pos with
  | [] => put (rd.withRows l.last l.rows)
  | (_, live) :: _ =>
    if !live then put { rd with look := some (l.found rd.reg.noRow) }
    else if l.ids.isEmpty then
      let (c, a, n) := l.read rd.reg
      match s.engPieces r c a n permLoad kindRead engSpaces Use.read with
      | .error f => s.accessFault r se f
      | .ok ps =>
        let (s1, ids) := s.enter (.engine r rd.slot se) (.cq r rd.slot se)
          (ps.map (fun p => { key := p.key, va := p.va, port := portOf p.key, cmpr := p.cmpr,
                              act := if l.phase == 0 && p.size == 16 && p.key % 16 == 0 then .capRead else .read p.size }))
        s1.onEngine r se (fun en => { en with round := some { rd with look := some { l with ids := ids } } })
    else if l.got.length < l.ids.length then s
    else
      let part := fun (i : Nat) => ((l.got.find? (fun p => p.1 == i)).map (·.2)).getD ([], false)
      match l.step rd.reg (l.ids.flatMap (fun i => (part i).1)) (part (l.ids.headD 0)).2 with
      | .error (c, d) => s.engineFault r se c d
      | .ok l' => put { rd with look := some l' }

/-- Engine se reads for its round, if the round's operation is op: the next token, if the entry queue has a place, or what the mapping of a
position needs (R112, R115, R318 to R321). -/
def State.engineRead (s : State) (r se op : Nat) : State :=
  let g := s.region r
  let e := g.engine se
  match e.round with
  | none => s
  | some rd =>
    if g.frozen || rd.reg.op != op then s
    else match rd.look with
    | some l => s.engineLook r se rd l
    | none =>
    if rd.reg.writes || !e.place rd.slot then s
    else if op == 3 || op == 5 then
      match rd.todo with
      | [] => s
      | (what, last) :: rest =>
        let rd' := { rd with todo := rest }
        let e' := if last then ({ e with round := some rd' } : Engine).endRound rd' else { e with round := some rd' }
        match what with
        | none =>
          s.onRegion r (fun g => g.setEngine se (Engine.land 64 { e' with
            fetches := e'.fetches ++ [{ slot := rd.slot, ids := [], got := [], zero := true, last := last, mfmt := rd.reg.mfmt }] }))
        | some (a, cap) =>
          match (s.onRegion r (fun g => g.setEngine se e')).issueRead r se rd.slot cap a.toNat
              (if op == 5 then permLoad else permLoad + permEngine) rd.reg.mfmt (.read 16) last with
          | .error f => s.accessFault r se f
          | .ok s1 => s1
    else
      let last := rd.i + 1 == rd.reg.count
      let rd' := { rd with i := rd.i + 1 }
      let e' := if last then e.endRound rd' else { e with round := some rd' }
      let (perms, act) := rd.reg.readPerms rd.i
      match (s.onRegion r (fun g => g.setEngine se e')).issueRead r se rd.slot rd.reg.cap (rd.reg.addr rd.i) perms rd.reg.mfmt act last with
      | .error f => s.accessFault r se f
      | .ok s1 => s1

/-! ### Stores (R318, R319, R321) -/

/-- Bytes and masks of a token in its memory format: live values only; 4-bit values mask one nibble (R318). -/
def tokenBytes (f : Nat) (t : Token) : List (Byte × Byte) :=
  let b := fmtBits f
  if b == 4 then
    (List.range 256).map (fun i =>
      (BitVec.ofNat 8 (t.val (2 * i) % 16 + 16 * (t.val (2 * i + 1) % 16)),
       BitVec.ofNat 8 ((if t.liveAt (2 * i) then 0x0F else 0) + (if t.liveAt (2 * i + 1) then 0xF0 else 0))))
  else
    (List.range 256).map (fun i =>
      let j := i / (b / 8)
      (BitVec.ofNat 8 (t.val j % 2 ^ fmtWidth f / 256 ^ (i % (b / 8))), if t.liveAt j then 0xFF else 0))

/-- The granule stores of a token at an address: how many, and the state with them in CQ. -/
def State.issueStore (s : State) (r se k : Nat) (cap : Cap) (a perms mfmt : Nat) (wait : Bool) (t : Token) : Except Byte (State × Nat) :=
  match s.engPieces r cap a 256 perms kindWrite engSpaces Use.store with
  | .error f => .error f
  | .ok ps =>
    let bs := tokenBytes mfmt t
    let go := ps.foldl (fun (acc : List NewReq × List (Byte × Byte)) p =>
      let mine := acc.2.take p.size
      (if mine.any (fun b => b.2 != 0) then
        acc.1 ++ [{ key := p.key, va := p.va, port := portOf p.key, cmpr := p.cmpr, act := .write mine (if wait then .waitEmpty else .setFull) }]
       else acc.1, acc.2.drop p.size)) ([], bs)
    .ok ((s.enter (.engine r k se) (.cq r k se) go.1).1, go.1.length)

/-- Engine se stores a token that the Field hands it; the flag tells that the round ended with it, the number is its store count. -/
def State.engineStore (s : State) (r k se : Nat) (t : Token) : State × Option Nat :=
  let e := (s.region r).engine se
  match e.round with
  | none => (s, none)
  | some rd =>
    let step := fun (s1 : State) (rd' : Round) (last : Bool) =>
      (s1.onEngine r se (fun en => if last then ({ en with round := some rd' } : Engine).endRound rd' else { en with round := some rd' }),
       if last then some rd'.stores else none)
    if rd.reg.op == 5 then
      match rd.todo with
      | [] => (s, none)
      | (what, last) :: rest =>
        match what with
        | none => step s { rd with todo := rest } last
        | some (a, cap) =>
          match s.issueStore r se k cap a.toNat permStore rd.reg.mfmt false t with
          | .error f => (s.accessFault r se f, none)
          | .ok (s1, n) => step s1 { rd with todo := rest, stores := rd.stores + n } last
    else
      match s.issueStore r se k rd.reg.cap (rd.reg.addr rd.i) (permStore + permEngine) rd.reg.mfmt rd.reg.wait t with
      | .error f => (s.accessFault r se f, none)
      | .ok (s1, n) => step s1 { rd with i := rd.i + 1, stores := rd.stores + n } (rd.i + 1 == rd.reg.count)

/-! ### Parameters from the Field (R116, R317) -/

/-- A parameter joins the queue of an engine and slot, if it has fewer than four entries. -/
def Engine.parm (e : Engine) (k field : Nat) (v : Word) : Option Engine :=
  let es := e.slot k
  if es.parms.length ≥ 4 then none
  else some (e.setSlot k { es with parms := es.parms ++ [{ field := field, value := v, after := es.commanded }] })

/-! ### Engine requests of a PT element (R173, R338) -/

/-- The offset of an EREQ token. -/
def ereqOffset (t : Token) : Nat := t.val 1 + t.val 2 * 2 ^ 32
def ereqOp (t : Token) : Nat := t.val 0 % 16
/-- Scope and kind: bits [6:4] and [8:7]. -/
def ereqScope (t : Token) : Nat := bitsOf (t.val 0) 4 3
def ereqKind (t : Token) : Nat := bitsOf (t.val 0) 7 2

def ereqAmo (op : Nat) : AmoOp :=
  match op with | 2 => .add | 3 => .and | 4 => .or | 5 => .xor | 6 => .min | 7 => .max | 8 => .swap | _ => .cas

/-- The values of the token that its request depends on are live: OP and qualifier, the offset, the operand, and CAS's compare value; with a
dead one there is no access, and the result is a dead zero (R294). -/
def ereqLive (t : Token) : Bool :=
  t.liveAt 0 && t.liveAt 1 && t.liveAt 2 && (ereqOp t == 0 || (t.liveAt 3 && t.liveAt 4)) && (ereqOp t != 9 || (t.liveAt 5 && t.liveAt 6))

/-- The token raises 0x5B (R295, R338): a dead value raises nothing (R294). -/
def ereqBad (t : Token) (cursor : Word) : Bool :=
  t.liveAt 0 &&
    (ereqOp t > 9 || (t.liveAt 1 && t.liveAt 2 && ((cursor.toNat + ereqOffset t) % 8 != 0 || ereqOffset t % 8 != 0)) ||
      (ereqOp t ≤ 1 && (ereqScope t != 0 || ereqKind t != 0)))

/-- The first request in ERQ may be turned into a memory request: the response of the one before it has been consumed, and the engine's
requests have reached the scope of its release (R170, R173). -/
def State.ereqMay (s : State) (r se : Nat) : Bool :=
  match (s.region r).engine se with
  | en => en.ers.isEmpty && match en.erq with
    | [] => false
    | q :: _ => !(ereqLive q.tok && (ereqKind q.tok).testBit 1) || s.reached (fun i => i == .elem r q.slot (128 + se)) (ereqScope q.tok)

/-- An engine request's wait for its response. -/
def State.ereqOpen (s : State) (r se : Nat) (q : EngReq) : State := s.onEngine r se (fun e => { e with erq := e.erq.drop 1, ers := e.ers ++ [q] })

/-- The first request of ERQ enters CQ (R173, R338); one that depends on a dead value has its result at once (R294). -/
def State.ereqIssue (s : State) (r se : Nat) : State :=
  match ((s.region r).engine se).erq with
  | [] => s
  | q :: _ =>
    let t := q.tok
    let op := ereqOp t
    let a := (q.cap.cursor.toNat + ereqOffset t) % 2 ^ 64
    let v := BitVec.ofNat 64 (t.val 3 + t.val 4 * 2 ^ 32)
    let cmp := BitVec.ofNat 64 (t.val 5 + t.val 6 * 2 ^ 32)
    let (perms, kind, use) :=
      if op == 0 then (permLoad, kindRead, Use.read) else if op == 1 then (permStore, kindWrite, Use.store) else (permAtomic, kindAtomic, Use.store)
    let spaces := if op ≤ 1 || op == 2 || op ≥ 8 then engSpaces else [1, 2, 3, 5]
    if !ereqLive t then s.ereqOpen r se { slot := q.slot, stamp := 0, last := t.last, live := false, resp := some 0 }
    else match s.engPieces r q.cap a 8 perms kind spaces use with
      | .error f => (s.onEngine r se (fun e => { e with erq := e.erq.drop 1 })).accessFault r se f
      | .ok ps =>
        let act : Act :=
          if op == 0 then .read 8 else if op == 1 then .write (plain (leBytes 8 v.toNat)) .keep else .amo (ereqAmo op) 8 v cmp
        let (s1, ids) := s.enter (.elem r q.slot (128 + se)) (.cq r q.slot se)
          (ps.map (fun p => { key := p.key, va := p.va, port := portOf p.key, cmpr := p.cmpr, act := act }))
        s1.ereqOpen r se { slot := q.slot, stamp := ids.headD 0, last := t.last, live := true, resp := none }

end Sys2Proof.Machine
end

