-- ==== Sys2Proof/Machine/FieldLinks.lean ====
section
/-! DEFINITION. Links of the Field and their routers (R99 to R105), and what a snapshot records as tokens pass (R135). -/

namespace Sys2Proof.Machine

open Sys2Proof

/-! ### Routers (R103, R104) -/

/-- The link converts between its producer's format and its own. -/
def LinkSt.conv (l : LinkSt) : Bool := l.from_ != l.fmt
/-- A link without slots or router buffer: its two ends fire together. -/
def LinkSt.direct (l : LinkSt) : Bool := l.slots == 0 && !l.conv
/-- The conversion crosses between 8 bits or fewer and more, so that a scale applies in it (R104). -/
def LinkSt.crosses (l : LinkSt) : Bool := l.conv && decide (fmtBits l.from_ ≤ 8) != decide (fmtBits l.fmt ≤ 8)

/-- The scale of value k of the round, if its token has come by. -/
def LinkSt.scaleOf (l : LinkSt) (k : Nat) : Option Nat := (l.scl[k / 32 / 256]?).map (fun t => t.val (k / 32 % 256))

/-- One value through the router; scale: the code of its scale. -/
def LinkSt.convert (l : LinkSt) (scale : Option Nat) (c : Nat) : Nat :=
  let v := fmtValue l.from_ c
  match scale with
  | none => convertValue v l.fmt
  | some s => if fmtBits l.from_ ≤ 8 then convertValue (v.mul (ue8m0 s)) l.fmt else convertValue (v.div (ue8m0 s)) l.fmt

/-- The link has a scale companion that its conversion reads. -/
def scaled (ls : List LinkSt) (l : LinkSt) : Bool :=
  l.crosses && ls.any (fun c => c.dst == l.dst && c.port == l.port + 4 && c.fmt == fUe8m0)

/-- A link that is not direct can take a token (R101, R103); sc: it reads scales, and those of this token must be there (R104). -/
def LinkSt.room (l : LinkSt) (sc : Bool) : Bool :=
  if l.conv then l.buf.isEmpty && (!sc || (l.scaleOf (l.pos + fmtCount l.from_ - 1)).isSome) else l.q.length < l.slots

/-- The link takes a token of its producer (R103): stamp is the newest request's, for tokens that enter the slots at once. -/
def LinkSt.put (l : LinkSt) (sc : Bool) (stamp : Nat) (t : Token) : LinkSt :=
  if !l.conv then { l with q := l.q ++ [{ t with stamp := stamp }] }
  else
    let vals := (List.range t.vals.length).map (fun i => l.convert (if sc then l.scaleOf (l.pos + i) else none) (t.val i))
    let n := fmtCount l.fmt
    let pos := if t.last then 0 else l.pos + t.vals.length
    let scl := if t.last then (l.scl.dropWhile (fun c => !c.last)).drop 1 else l.scl
    if n ≤ t.vals.length then { l with buf := tokensOf n (vals.zip t.live) t.last, pos := pos, scl := scl }
    else
      let p := l.part.getD (mkTok [] [] false)
      let all := (p.vals ++ vals).zip (p.live ++ t.live)
      if t.last then
        let pad := all ++ List.replicate (n - all.length) (0, false)
        { l with buf := [mkTok (pad.map (·.1)) (pad.map (·.2)) true], part := none, pos := pos, scl := scl }
      else if all.length == n then { l with buf := [mkTok (all.map (·.1)) (all.map (·.2)) false], part := none, pos := pos, scl := scl }
      else { l with part := some (mkTok (all.map (·.1)) (all.map (·.2)) false), pos := pos, scl := scl }

/-- The token that the consumer finds (R101, R105). -/
def LinkSt.head (l : LinkSt) : Option Token :=
  let t := match l.q with
    | t :: _ => some t
    | [] => if l.slots == 0 then l.buf.head? else none
  t.map (fun t => if l.pc then t else { t with live := List.replicate t.vals.length true })

/-- The consumer takes it. -/
def LinkSt.pop (l : LinkSt) : LinkSt :=
  let l1 := match l.q with
    | _ :: q => { l with q := q }
    | [] => { l with buf := l.buf.drop 1 }
  { l1 with mark := l1.mark.map (· - 1) }

/-- ROUTER_MOVE: the router's oldest finished token goes into a free slot (R103). -/
def LinkSt.move (l : LinkSt) (stamp : Nat) : LinkSt :=
  match l.buf with
  | t :: b => if l.q.length < l.slots then { l with q := l.q ++ [{ t with stamp := stamp }], buf := b } else l
  | [] => l

/-- Tokens of the producer that the link has not yet given to its consumer, as far as a marker behind them counts (R135). -/
def LinkSt.ahead (l : LinkSt) : Nat := l.q.length + l.buf.length

/-- A scale token that enters a companion link is seen by the router of the data link (R104). -/
def seeScale (ls : List LinkSt) (c : LinkSt) (t : Token) : List LinkSt :=
  if c.fmt == fUe8m0 && c.port ≥ 4 then
    ls.map (fun l => if l.dst == c.dst && l.port + 4 == c.port && l.crosses then { l with scl := l.scl ++ [t] } else l)
  else ls

/-! ### An element's links -/

def Inst.inLink (i : Inst) (e p : Nat) : Option LinkSt := i.links.find? (fun l => l.dst == e && l.port == p)
def Inst.el (i : Inst) (e : Nat) : ElemSt := i.elems.getD e ElemSt.empty
def Inst.setEl (i : Inst) (e : Nat) (x : ElemSt) : Inst := { i with elems := i.elems.set e x }

/-- Every output link that a firing writes can take its token; direct links are left to the consumer's firing. -/
def Inst.canEmit (i : Inst) (e : Nat) (f : Firing) : Bool :=
  i.links.all (fun l => l.src != e || l.direct || l.room (scaled i.links l) ||
    (if l.out == 0 then f.o0.isNone else f.o1.isNone))

/-- The firing's tokens enter the output links that are not direct, and the routers of scaled pairs see the scales among them. -/
def Inst.emit (i : Inst) (e stamp : Nat) (f : Firing) : Inst :=
  let out := fun (l : LinkSt) => if l.src == e && !l.direct then (if l.out == 0 then f.o0 else f.o1) else none
  let ls := i.links.map (fun l => match out l with | none => l | some t => l.put (scaled i.links l) stamp t)
  { i with links := i.links.foldl (fun acc l => match out l with | none => acc | some t => seeScale acc l t) ls }

/-- The firing's input tokens leave their links. -/
def Inst.consume (i : Inst) (e : Nat) (ports : List Nat) : Inst :=
  { i with links := i.links.map (fun l => if l.dst == e && !l.direct && ports.contains l.port then l.pop else l) }

/-! ### Snapshots (R135) -/

/-- The element logs a token that it consumes from an input that still owes its marker; more than 64 fail the snapshot. -/
def Snap.note (sn : Snap) (e p : Nat) (t : Token) : Snap :=
  if sn.status == .pending && (AMap.find sn.recorded e).isSome && sn.owed.contains (e, p) then
    let log := AMap.findD sn.logs e []
    if log.length ≥ 64 then { sn with status := .failed } else { sn with logs := AMap.put sn.logs e (log ++ [(p, t)]) }
  else sn

/-- A port of element e has brought its marker: the element records its state at its first one. -/
def Snap.met (sn : Snap) (e p : Nat) (x : ElemSt) : Snap :=
  { sn with recorded := if (AMap.find sn.recorded e).isSome then sn.recorded else AMap.put sn.recorded e x,
            owed := sn.owed.filter (· != (e, p)) }

/-- The snapshot is complete: every element is done and every EXIT engine has its marker. -/
def Snap.over (sn : Snap) : Bool := sn.owed.isEmpty && sn.exits.isEmpty

end Sys2Proof.Machine
end

