-- ==== Sys2Proof/Machine/FieldFire.lean ====
section
/-! DEFINITION. Firing (R98 to R105, R295): the firings that each element's state, its input tokens and the rest of the machine allow,
the common firing of elements joined by links without slots, and its effect; the elements that reach beyond the Field: AG (R315 to
R321), GT (R334 to R336) and PT (R337 to R339); split markers (R135). -/

namespace Sys2Proof.Machine

open Sys2Proof

/-- A firing with what it does outside the Field; ask: it only asks for leave to consume the token that it finds, which stays with its producer. -/
structure Alt where
  f : Firing
  eff : State → State
  ask : Bool := false

abbrev Alts := List (Except Byte Alt)

def pureAlts (fs : Firings) : Alts := fs.map (fun f => f.map (fun x => { f := x, eff := id }))

/-! ### Conditions on the requests of a configuration's AGs -/

/-- Every request that the engines of a list put into CQ for a slot before a stamp has reached a scope's level (R172, R335, R336, R339). -/
def State.agsReached (s : State) (r k : Nat) (ses : List Nat) (stamp scope : Nat) : Bool :=
  let who := fun (i : Issuer) => match i with | .engine q j se => q == r && j == k && ses.contains se | _ => false
  s.reqs.all (fun q => !who q.issuer || q.stamp ≥ stamp || stageReached scope q.stage) &&
    s.resps.all (fun q => !who q.issuer || q.stamp ≥ stamp || scope < 3 || (q.cause.isNone && (scope == 3 || !q.flag)))

/-- The engines of the AGs of a scope, and of all scopes. -/
def Block.sesOf (b : Block) (scope : Option Nat) : List Nat :=
  ((List.range b.elems.length).filter (fun e => (b.el e).kind == 4 && (match scope with | none => true | some j => b.scopeOf e == j))).map
    (fun e => (b.el e).se)

/-! ### What can still happen in a configuration (R111, R114) -/

/-- The rounds of engine se that belong to the first d tiles of the arm of slot k (the model's choice, log 34): in the ratio in which rounds have been
commanded to it and to the lowest ENTRY engine, rounded up; all of them where the lowest has been commanded no more than d; and one for each tile at
least. -/
def Region.share (g : Region) (k : Nat) (a : Arm) (se d : Nat) : Nat :=
  let lowest := ((List.range 8).find? (fun x => (g.engSlot x k).reg.any (fun y => !y.writes))).getD 0
  let mine := AMap.findD a.ends se 0 + (g.engine se).toCome k
  let low := a.done + (g.engine lowest).toCome k
  max d (if low == 0 then 0 else if low ≤ d then mine else (mine * d + low - 1) / low)

/-- Elements to which only control ports lead: CTLIN, and those that such elements alone feed (R117). -/
def Inst.ctlOnly (i : Inst) : Nat → Nat → Bool
  | 0, e => (i.block.el e).kind == 0xB && (i.block.el e).op == 0
  | n + 1, e => ((i.block.el e).kind == 0xB && (i.block.el e).op == 0) ||
      (i.links.any (fun l => l.dst == e) && (i.block.el e).kind != 4 && i.links.all (fun l => l.dst != e || i.ctlOnly n l.src))

/-- Elements of a configuration that hold a token of a round or may still be given one by their inputs; under an arm an engine may still
pass the rest of the rounds that are due to it, and an ERSP its response; a control value may be needed for them (R111, R114, R117). -/
def Region.liveElems (g : Region) (i : Inst) : List Nat :=
  let more := fun (e se : Nat) => match (g.slot i.slot).arm with
    | some a => !i.closed || (i.el e).cnt.getD 0 0 == 1 || AMap.findD a.ends se 0 < AMap.findD i.due se 0
    | none => false
  let start := (List.range i.block.elems.length).filter (fun e =>
    let w := i.block.el e
    i.elemBusy e || i.links.any (fun l => l.dst == e && l.busy && i.roundLink l) || (w.kind == 4 && !w.agWrite && more e w.se) ||
      (w.kind == 0xB && (w.op == 2 || w.op == 3) && (g.engine w.ptSe).owes i.slot))
  let add := fun (es : List Nat) (x : Nat) => if es.contains x then es else es ++ [x]
  let grow := fun (es : List Nat) => i.links.foldl (fun es l =>
    if es.contains l.src then add es l.dst else if es.contains l.dst && i.ctlOnly 8 l.src then add es l.src else es) es
  (List.range 72).foldl (fun es _ => grow es) start

/-! ### AG -/

/-- The token of an entry queue may pass into the configuration (R111): the lowest ENTRY engine's while the arm has tiles left, another engine's while it
has given less than its share of the arm's tiles (log 34); into one that leaves the Field, while rounds of the tiles that are counted are due. -/
def Region.mayPass (g : Region) (i : Inst) (a : Arm) (se : Nat) : Bool :=
  let n := AMap.findD a.ends se 0
  if i.closed then n < AMap.findD i.due se 0
  else if se == i.block.lowest then a.done < a.total
  else n < g.share i.slot a se a.total

/-- The configuration is closed: each ENTRY engine but the lowest still gives it the rounds of the tiles that are counted (R114, log 34). -/
def Region.close (g : Region) (i : Inst) : Inst :=
  if i.closed then i
  else
    let due := match (g.slot i.slot).arm with
      | none => []
      | some a => ((List.range 8).filter (fun se => i.block.entry.testBit se && se != i.block.lowest)).map (fun se =>
          (se, min (AMap.findD a.ends se 0 + (g.engine se).toCome i.slot) (g.share i.slot a se a.done)))
    { i with closed := true, due := due }

/-- The entry token has passed: END tokens are counted, and the lowest engine's end a tile (R111). -/
def State.passed (s : State) (r k se : Nat) (lowest last : Bool) : State :=
  let s1 := s.onEngSlot r se k (fun es => { es with entry := es.entry.drop 1, mark := es.mark.map (· - 1) })
  if !last then s1
  else s1.onRegion r (fun g =>
    let sl := g.slot k
    let g1 := g.setSlot k { sl with arm := sl.arm.map (fun a =>
      { a with ends := AMap.put a.ends se (AMap.findD a.ends se 0 + 1), done := if lowest then a.done + 1 else a.done }) }
    if lowest then { g1 with tiles := g.tiles + 1, starve := 0 } else g1)

/-- The Field's side of AG element e: tokens out of the entry queue (cnt 0: 1 within a round), and tokens to store; a WR's count token
follows the firing of the round's last store (out0), once that store has entered CQ (R172). -/
def State.agField (s : State) (r : Nat) (i : Inst) (e : Nat) (w : ElemWord) (inp : Inputs) : Alts :=
  let g := s.region r
  let se := w.se
  let st := i.el e
  let k := i.slot
  if w.agWrite then
    let p := if w.op == 5 then 2 else 0
    if !st.out0.isEmpty then [.ok { f := drainFiring st, eff := id }]
    else match (g.engine se).round, inp p with
    | some rd, some t =>
      if rd.slot != k || rd.reg.op != w.op || (w.op == 5 && rd.todo.isEmpty) then []
      else
        -- the round's last token leaves a count token where CONA has a link (R318)
        let n := (s.engineStore r k se t).2
        let count := if w.op == 1 && (conOf w.conA).v then n.map (fun c => mkTok (c :: List.replicate 63 0) (List.replicate 64 true) true) else none
        [.ok { f := { reads := [p], st := { st with out0 := count.toList }, o0 := none, o1 := none },
               eff := fun u => (u.engineStore r k se t).1 }]
    | _, _ => []
  else
    match (g.engSlot se k).entry, (g.slot k).arm with
    | t :: _, some a =>
      if g.mayPass i a se then
        [.ok { f := { reads := [], st := { st with cnt := [if t.last then 0 else 1] }, o0 := some t, o1 := none }, eff := fun u => u.passed r k se (se == i.block.lowest) t.last }]
      else []
    | _, _ => []

/-- The engine's side of AG element e that consumes tokens: indices and positions, and parameters. An index or position that reads for a
slot whose arm has been released by CFG.DISARM passes out of the Field and reads nothing (R260, log 34); a parameter token whose FIELD is
above 4 and dead, or whose parameter is dead, has no effect (R294, log 38). -/
def State.agEngine (s : State) (r : Nat) (i : Inst) (e : Nat) (w : ElemWord) (inp : Inputs) : Alts :=
  let g := s.region r
  let se := w.se
  let st := i.el e
  let k := i.slot
  let index : Alts :=
    if w.op == 3 || w.op == 5 then
      let rd := (g.engine se).round
      match inp 0 with
      | none => []
      | some t =>
        if rd.any (fun x => x.slot == k && x.reg.op == w.op && x.todo.isEmpty && x.look.isNone && !x.ended) then
          [.ok { f := { reads := [0], st := st, o0 := none, o1 := none }, eff := fun u => u.engineIndex r k se e t }]
        else if (g.slot k).ebb && !w.agWrite && !rd.any (fun x => x.slot == k) then
          [.ok { f := { reads := [0], st := st, o0 := none, o1 := none }, eff := id }]
        else []
    else []
  let parm : Alts :=
    match (if w.prm then inp 1 else none) with
    | none => []
    | some t =>
      let field := t.val 2 % 8
      if field > 4 then (if t.liveAt 2 then [.error 0x54] else [.ok { f := { reads := [1], st := st, o0 := none, o1 := none }, eff := id }])
      else if !t.liveAt 0 || !t.liveAt 1 then [.ok { f := { reads := [1], st := st, o0 := none, o1 := none }, eff := id }]
      else if ((g.engine se).parm k field 0).isNone then []
      else
        [.ok { f := { reads := [1], st := st, o0 := none, o1 := none },
               eff := fun u => u.onEngine r se (fun en => (en.parm k field (BitVec.ofNat 64 (t.val 0 + t.val 1 * 2 ^ 32))).getD en) }]
  index ++ parm

/-! ### GT: cnt 0 the tokens of the open section, cnt 1 the sections opened (ENTRY) or closed (EXIT) since load, cnt 2 the stamp + 1 of
an acquire or of the token behind which EXIT releases (0: none), cnt 3 the region for which the baton of ENTRY was granted; open_ an ENTRY or ACQ section
is open -/

/-- The section ends with this token: at END, or as its SECT-th. -/
def sectEnds (w : ElemWord) (count : Nat) (t : Token) : Bool := if w.sect == 0 then t.last else count + 1 == w.sect

/-- The state after a token of a section has been forwarded. -/
def sectStep (w : ElemWord) (st : ElemSt) (t : Token) (opening : Bool) : ElemSt :=
  let ended := sectEnds w (st.cnt.getD 0 0) t
  { st with
    open_ := !ended,
    cnt := [if ended then 0 else st.cnt.getD 0 0 + 1, st.cnt.getD 1 0 + (if opening then 1 else 0), st.cnt.getD 2 0] ++ st.cnt.drop 3 }

/-- Forwarding of one token. -/
def forward (reads : List Nat) (st : ElemSt) (t : Token) : Alt :=
  { f := { reads := reads, st := st, o0 := some t, o1 := none }, eff := id }

/-- A request of GT or PT element e through its capability at the cursor, with its checks (R281, R336, R339): it enters CQ in a FIFO of the
element's own, numbered 8 + e behind the engines' (log 20). -/
def State.elemRequest (s : State) (r : Nat) (i : Inst) (e : Nat) (act : Act) : State × Option Nat :=
  let c := i.caps.getD e Cap.null
  let a := c.cursor
  match (if a.toNat % 16 != 0 then .error 0x0E else s.engPieces r c a.toNat 16 permAtomic kindAtomic [1, 2, 3] Use.store) with
  | .error f => (s.pendFault r f a true, none)
  | .ok ps =>
    let (s1, ids) := s.enter (.elem r i.slot e) (.cq r i.slot (8 + e))
      (ps.map (fun p => { key := p.key, va := p.va, port := portOf p.key, cmpr := p.cmpr, act := act }))
    (s1, ids.head?)

/-- Element e of one load of a configuration changed. -/
def State.onElem (s : State) (r load e : Nat) (f : ElemSt → ElemSt) : State :=
  s.onRegion r (fun g => { g with insts := g.insts.map (fun i => if i.load == load then i.setEl e (f (i.el e)) else i) })

def gtEntryAlts (s : State) (r : Nat) (i : Inst) (e : Nat) (w : ElemWord) (inp : Inputs) : Alts :=
  let st := i.el e
  match inp 0 with
  | none => []
  | some t =>
    if st.open_ then [.ok (forward [0] (sectStep w st t false) t)]
    else if w.gtCreg == 0 then
      match inp 1 with
      | none => []
      | some _ => [.ok (forward [0, 1] (sectStep w st t true) t)]
    else if st.cnt.getD 2 0 != 0 then []
    else
      let task := (s.region r).pacer.taskid.setWidth 32
      -- the acquire is created; the section opens with its grant
      [.ok { ask := true, f := { reads := [], st := st, o0 := none, o1 := none },
             eff := fun u =>
               let (u1, id) := u.elemRequest r i e (.batonAcq r task)
               match id with
               | none => u1
               | some n => u1.onElem r i.load e (fun x => { x with cnt := [x.cnt.getD 0 0, x.cnt.getD 1 0, n + 1] ++ x.cnt.drop 3 }) }]

/-- The scope word of the baton that EXIT releases. -/
def State.batonScopeAt (s : State) (r : Nat) (i : Inst) (e : Nat) : Nat :=
  let c := i.caps.getD e Cap.null
  match s.engPieces r c c.cursor.toNat 16 permAtomic kindAtomic [1, 2, 3] Use.store with
  | .error _ => 0
  | .ok ps => match ps with | p :: _ => batonScope (s.w1 p.key) | [] => 0

/-- The ENTRY that an EXIT is paired with. -/
def Inst.entryOf (i : Inst) (w : ElemWord) : Nat :=
  ((List.range i.block.elems.length).find? (fun j => (i.block.el j).kind == 0xA && (i.block.el j).op == 0 && (i.block.el j).gtCreg == w.gtCreg)).getD 127

/-- The release that EXIT still owes a port or memory baton, as the holder that its ENTRY's grant named: a held baton stays the task's across FCAP and
FRST (R336; log 72). Or the baton tokens that it still owes its output 1 (R335); cnt 3 is 1
once the baton of the load has been emitted. -/
def gtExitOwed (s : State) (r : Nat) (i : Inst) (e : Nat) (w : ElemWord) : Alts :=
  let st := i.el e
  if w.gtCreg != 0 then
    let mark := st.cnt.getD 2 0
    if mark != 0 && s.agsReached r i.slot (i.block.sesOf none) (mark - 1) (s.batonScopeAt r i e) then
      let task := (s.region r).pacer.taskid.setWidth 32
      [.ok { f := { reads := [], st := { st with cnt := [st.cnt.getD 0 0, st.cnt.getD 1 0, 0, 1] }, o0 := none, o1 := none },
             eff := fun u => (u.elemRequest r i e (.batonRel ((i.el (i.entryOf w)).cnt.getD 3 r) task)).1 }]
    else []
  else if st.cnt.getD 3 0 == 0 then
    [.ok { f := { reads := [], st := { st with cnt := [0, 0, 0, 1] }, o0 := none, o1 := some (constTok 64 0 true) }, eff := id }]
  else if st.out1.isEmpty then []
  else [.ok { f := { reads := [], st := { st with out1 := st.out1.drop 1 }, o0 := none, o1 := st.out1.head? }, eff := id }]

/-- The stamp from which on requests were made after the token at a port entered its link: that of the token, or, on a link without slots,
which it enters as it is consumed, the next request's (R172). -/
def State.linkEntry (s : State) (i : Inst) (e p : Nat) (t : Token) : Nat :=
  match i.inLink e p with
  | some l => if l.slots == 0 then s.stamp else t.stamp
  | none => t.stamp

def gtExitAlts (s : State) (r : Nat) (i : Inst) (e : Nat) (w : ElemWord) (inp : Inputs) : Alts :=
  let st := i.el e
  let owed := gtExitOwed s r i e w
  if w.gtCreg == 0 && st.cnt.getD 3 0 == 0 then owed
  else match inp 0 with
    | none => owed
    | some t =>
      let closed := st.cnt.getD 1 0
      if (i.el (i.entryOf w)).cnt.getD 1 0 ≤ closed then [.error 0x5A]
      else if st.cnt.getD 2 0 != 0 then owed
      else
        let ended := sectEnds w (st.cnt.getD 0 0) t
        let st' := { st with cnt := [if ended then 0 else st.cnt.getD 0 0 + 1, if ended then closed + 1 else closed,
                                     if ended && w.gtCreg != 0 then s.linkEntry i e 0 t + 1 else 0, 1] }
        if ended && w.gtCreg == 0 then
          .ok { f := { reads := [0], st := st', o0 := some t, o1 := some (constTok 64 0 true) }, eff := id } ::
            .ok (forward [0] { st' with out1 := st.out1 ++ [constTok 64 0 true] } t) :: owed
        else .ok (forward [0] st' t) :: owed

/-- BOUND (R109, R172): the requests of the producer's scope have reached the wider scope. -/
def gtBoundAlts (s : State) (r : Nat) (i : Inst) (e : Nat) (inp : Inputs) : Alts :=
  match inp 0, i.inLink e 0 with
  | some t, some l =>
    let from_ := i.block.scopeOf l.src
    let wide := max (i.block.scopeCode from_) (i.block.scopeCode (i.block.scopeOf e))
    if s.agsReached r i.slot (i.block.sesOf (some from_)) (s.linkEntry i e 0 t) wide then [.ok (forward [0] (i.el e) t)] else []
  | _, _ => []

/-- ACQ (R334): a section opens with a signal token. -/
def gtAcqAlts (i : Inst) (e : Nat) (w : ElemWord) (inp : Inputs) : Alts :=
  let st := i.el e
  match inp 0 with
  | none => []
  | some t =>
    if st.open_ then [.ok (forward [0] (sectStep w st t false) t)]
    else match inp 1 with
      | none => []
      | some _ => [.ok (forward [0, 1] (sectStep w st t true) t)]

/-! ### PT -/

/-- A token of two live values. -/
def pairToken (v : Nat) (live : Bool) (last : Bool) : Token :=
  mkTok (v % 2 ^ 32 :: v / 2 ^ 32 % 2 ^ 32 :: List.replicate 62 0) (true :: true :: List.replicate 62 live) last

/-- CTLIN; under an old configuration that leaves the Field it takes only values that tokens of the Field may still need (R114, R117). -/
def ptCtlinAlts (s : State) (r : Nat) (i : Inst) (e : Nat) (w : ElemWord) : Alts :=
  let port := w.m 0 2
  if i.closed && !((s.region r).liveElems i).contains e then [] else
  match AMap.findD ((s.region r).slot i.slot).ctl port [] with
  | [] => []
  | v :: rest =>
    [.ok { f := { reads := [], st := i.el e, o0 := some (pairToken v.toNat false true), o1 := none },
           eff := fun u => u.onRegion r (fun g => g.setSlot i.slot { g.slot i.slot with ctl := AMap.put (g.slot i.slot).ctl port rest }) }]

/-- Kn := v, valid, with bit 0 of EV (R118, R252). -/
def Pacer.setK (p : Pacer) (n : BitVec 3) (v : Word) : Pacer :=
  { p with k := p.k.set n.toNat v n.isLt, kValid := p.kValid ||| (1 <<< n.toNat), ev := p.ev ||| 1 }

/-- An older configuration that leaves the Field may still write Kn: its values come before those of this one (R118). -/
def Region.olderSink (g : Region) (i : Inst) (n : BitVec 3) : Bool :=
  (g.insts.takeWhile (fun o => o.load != i.load)).any (fun o =>
    (g.liveElems o).any (fun j => (o.block.el j).kind == 0xB && (o.block.el j).op == 1 && BitVec.ofNat 3 ((o.block.el j).m 0 3) == n))

def ptSinkAlts (s : State) (r : Nat) (i : Inst) (e : Nat) (w : ElemWord) (inp : Inputs) : Alts :=
  let n := BitVec.ofNat 3 (w.m 0 3)
  match inp 0 with
  | none => []
  | some t =>
    if (s.region r).pacer.kValid.getLsbD n.toNat || (s.region r).olderSink i n then []
    else
      [.ok { f := { reads := [0], st := i.el e, o0 := none, o1 := none },
             eff := fun u => u.onRegion r (fun g =>
               { g with pacer := g.pacer.setK n (BitVec.ofNat 64 (t.val 0 + t.val 1 * 2 ^ 32)) }) }]

/-- EREQ (R173, R338): the engine turns the first request of ERQ into a memory request, or the element puts its token into ERQ. -/
def ptEreqAlts (s : State) (r : Nat) (i : Inst) (e : Nat) (w : ElemWord) (inp : Inputs) : Alts :=
  let cap := i.caps.getD e Cap.null
  let se := w.ptSe
  let st := i.el e
  (if s.ereqMay r se then [.ok { f := { reads := [], st := st, o0 := none, o1 := none }, eff := fun u => u.ereqIssue r se }] else []) ++
    match inp 0 with
    | none => []
    | some t =>
      if ereqBad t cap.cursor then [.error 0x5B]
      else
        [.ok { f := { reads := [0], st := st, o0 := none, o1 := none },
               eff := fun u => u.onEngine r se (fun en => { en with erq := en.erq ++ [{ slot := i.slot, cap := cap, tok := t }] }) }]

/-- ERSP (R173, R338): the response that it consumes frees the engine for its next request. -/
def ptErspAlts (s : State) (r : Nat) (i : Inst) (e : Nat) (w : ElemWord) : Alts :=
  match ((s.region r).engine w.ptSe).ers with
  | q :: rest =>
    match (if q.slot == i.slot then q.resp else none) with
    | some v =>
      [.ok { f := { reads := [], st := i.el e, o0 := some (if q.live then pairToken v.toNat true q.last else deadTok 64 q.last), o1 := none },
             eff := fun u => u.onEngine r w.ptSe (fun en => { en with ers := rest }) }]
    | none => []
  | [] => []

/-- TRIG (R339): the requests of the configuration's AGs before the token have reached DEV level. -/
def ptTrigAlts (s : State) (r : Nat) (i : Inst) (e : Nat) (inp : Inputs) : Alts :=
  match inp 0 with
  | none => []
  | some t =>
    if s.agsReached r i.slot (i.block.sesOf none) (s.linkEntry i e 0 t) 3 then
      [.ok { f := { reads := [0], st := i.el e, o0 := none, o1 := none }, eff := fun u => (u.elemRequest r i e .trigPost).1 }]
    else []

/-! ### Every element -/

/-- The firings of element e of a configuration; side: for an AG the Field's side (true), its engine's side (false), or both. -/
def State.alts (s : State) (r : Nat) (i : Inst) (e : Nat) (side : Option Bool) (inp : Inputs) : Alts :=
  let w := i.block.el e
  let st := i.el e
  if !st.taken then []
  else
    match w.kind, w.op with
    | 0, 0 => pureAlts (mxMmaOp w inp st)
    | 0, 1 => pureAlts (mxBsOp w inp st)
    | 0, 2 => pureAlts (mxRcOp w inp st)
    | 0, 3 => pureAlts (mxZeroOp inp st)
    | 0, _ => pureAlts (mxMmaOp w inp st)
    | 1, 8 => pureAlts (pipelined st (vxCmp w inp st))
    | 1, 0xE => pureAlts (pipelined st (vxCvt w inp st))
    | 1, 0xF => pureAlts (pipelined st (vxAcc w inp st))
    | 1, 0x10 => pureAlts (pipelined st (vxAcc w inp st))
    | 1, _ => pureAlts (pipelined st (vxMap w inp st))
    | 2, _ => pureAlts (rxOp w inp st)
    | 3, 6 => pureAlts (fxLutOp w inp st)
    | 3, _ => pureAlts (fxMap w inp st)
    | 4, _ =>
      (if side == some false then [] else s.agField r i e w inp) ++ (if side == some true then [] else s.agEngine r i e w inp)
    | 5, 0 => pureAlts (qxQuantOp w inp st)
    | 5, 1 => pureAlts (qxDeqOp w inp st)
    | 5, 2 => pureAlts (qxBscaleOp w inp st)
    | 5, _ => pureAlts (qxRoundOp w inp st)
    | 6, _ => pureAlts (dlOp w inp st)
    | 7, 0 => pureAlts (pmTransOp w inp st)
    | 7, 1 => pureAlts (pmBcastOp w inp st)
    | 7, 2 => pureAlts (pmShufOp ((i.block.portFmt e 0).getD 0) w inp st)
    | 7, 3 => pureAlts (pmPackOp w inp st)
    | 7, _ => pureAlts (pmUnpackOp w inp st)
    | 8, 0 => pureAlts (smSelOp inp st)
    | 8, 1 => pureAlts (smRoute false inp st)
    | 8, 2 => pureAlts (smRoute true inp st)
    | 8, 3 => pureAlts (smFilterOp inp st)
    | 8, _ => pureAlts (smConstOp w ((i.block.portFmt e 1).getD 0) inp st)
    | 9, _ => pureAlts (rnOp w inp st)
    | 0xA, 0 => gtEntryAlts s r i e w inp
    | 0xA, 1 => gtExitAlts s r i e w inp
    | 0xA, 2 => gtBoundAlts s r i e inp
    | 0xA, _ => gtAcqAlts i e w inp
    | _, 0 => ptCtlinAlts s r i e w
    | _, 1 => ptSinkAlts s r i e w inp
    | _, 2 => ptEreqAlts s r i e w inp
    | _, 3 => ptErspAlts s r i e w
    | _, _ => ptTrigAlts s r i e inp

/-! ### Common firing (R101) -/

/-- An element and the firing chosen for it. -/
structure Pick where
  e : Nat
  alt : Alt

/-- The elements that direct links join to those of a list, step by step. -/
def Inst.joined (i : Inst) : Nat → List Nat → List Nat
  | 0, es => es
  | fuel + 1, es =>
    let more := i.links.flatMap (fun l => if l.direct then (if es.contains l.src then [l.dst] else if es.contains l.dst then [l.src] else []) else [])
    match more.find? (fun x => !es.contains x) with
    | none => es
    | some x => i.joined fuel (es ++ [x])

/-- The elements of a list in the order of the direct links among them. -/
def Inst.sorted (i : Inst) : Nat → List Nat → List Nat
  | 0, es => es
  | fuel + 1, es =>
    match es.find? (fun x => !i.links.any (fun l => l.direct && l.dst == x && es.contains l.src)) with
    | none => es
    | some x => x :: i.sorted fuel (es.filter (· != x))

/-- What direct links offer element x by the firings chosen so far. -/
def Inst.offered (i : Inst) (ps : List Pick) (x : Nat) : List (Nat × Token) :=
  i.links.flatMap (fun l =>
    if l.direct && l.dst == x then
      match ps.find? (fun p => p.e == l.src) with
      | none => []
      | some p =>
        match (if l.out == 0 then p.alt.f.o0 else p.alt.f.o1) with
        | none => []
        | some t => [(l.port, if l.pc then t else { t with live := List.replicate t.vals.length true })]
    else [])

/-- The input tokens of element x. -/
def Inst.inputs (i : Inst) (off : List (Nat × Token)) (x : Nat) : Inputs := fun p =>
  match off.find? (fun o => o.1 == p) with
  | some o => some o.2
  | none => match i.inLink x p with
    | none => none
    | some l => if l.direct then none else l.head

/-- A configuration with the states of the elements after the firings chosen so far. -/
def Inst.withPicks (i : Inst) (ps : List Pick) : Inst := ps.foldl (fun j p => j.setEl p.e p.alt.f.st) i

/-- Firings for the elements of a list, in the order of the direct links among them, such that the target fires and every token on a
direct link is consumed by the firing of its consumer; or the runtime fault that an element on the way raises. Where a consumer only asks for leave to
consume what it would be offered (R336), that alone takes place. -/
def State.search (s : State) (r : Nat) (i : Inst) (target : Nat) (side : Option Bool) :
    List Nat → List Pick → Except (Nat × Byte) (Option (List Pick))
  | [], ps => .ok (some ps)
  | x :: xs, ps =>
    let off := i.offered ps x
    let as := s.alts r (i.withPicks ps) x (if x == target then side else none) (i.inputs off x)
    let bound := x == target || !off.isEmpty
    match (if bound then as.findSome? (fun a => match a with | .error c => some c | .ok _ => none) else none) with
    | some c => .error (x, c)
    | none =>
      let ok := as.filterMap (fun a => match a with
        | .ok b => if b.ask || (i.canEmit x b.f && off.all (fun o => b.f.reads.contains o.1)) then some b else none
        | .error _ => none)
      let idle : Except (Nat × Byte) (Option (List Pick)) := if bound then .ok none else s.search r i target side xs ps
      ok.foldl (fun acc b => match acc with
        | .ok none => if b.ask then .ok (some [{ e := x, alt := b }]) else s.search r i target side xs (ps ++ [{ e := x, alt := b }])
        | other => other) idle

/-- The firing of element e with those that must fire with it, if it can fire. -/
def State.firing (s : State) (r : Nat) (i : Inst) (e : Nat) (side : Option Bool) : Except (Nat × Byte) (Option (List Pick)) :=
  s.search r i e side (i.sorted 80 (i.joined 80 [e])) []

/-! ### Effects -/

/-- The configuration after one of the chosen firings, and its snapshot log. -/
def Inst.fire (i : Inst) (stamp : Nat) (p : Pick) : Inst :=
  let seen := i.links.foldl (fun ls l =>
    match (if l.direct && l.src == p.e then (if l.out == 0 then p.alt.f.o0 else p.alt.f.o1) else none) with
    | none => ls
    | some t => seeScale ls l t) i.links
  ((({ i with links := seen } : Inst).consume p.e p.alt.f.reads).emit p.e stamp p.alt.f).setEl p.e p.alt.f.st

def State.setInst (s : State) (r : Nat) (i : Inst) : State :=
  s.onRegion r (fun g => { g with insts := g.insts.map (fun j => if j.load == i.load then i else j) })

/-- n bytes of a snapshot's buffer from an offset receive the module's image form of what was recorded: free values (R132, R135, log 10). -/
def State.snapPut (s : State) (r off n : Nat) : State :=
  let c := (s.region r).snap.buf
  match s.engPieces r c ((c.cursor.toNat + off) % 2 ^ 64) n (permStore + permEngine) kindWrite [1, 2, 3] Use.store with
  | .error _ => s
  | .ok ps => ps.foldl (fun t p =>
      let (bs, t1) := t.drawBytes p.size
      if (t1.refuses p.key (plain bs) p.cmpr 1).isSome then t1 else (t1.applyWrite p.key (plain bs) p.cmpr).written p.key) s

/-- Where element e's 17 KiB of a snapshot's buffer begin: its state, then 256 bytes for each token logged (R266; log 10). -/
def snapPart (e : Nat) : Nat := 4096 + e * 17 * 1024

/-- The tokens that a firing consumes enter the element's log, and the buffer, where a snapshot asks for it (R135). -/
def State.noteReads (s : State) (r : Nat) (i : Inst) (ps : List Pick) (p : Pick) : State :=
  if (s.region r).snap.slot == i.slot then
    let inp := i.inputs (i.offered ps p.e) p.e
    p.alt.f.reads.foldl (fun (u : State) q =>
      match inp q with
      | none => u
      | some t =>
        let sn := (u.region r).snap
        let n := (AMap.findD sn.logs p.e []).length
        let u1 := u.onRegion r (fun g => { g with snap := sn.note p.e q t })
        if (AMap.findD (sn.note p.e q t).logs p.e []).length > n then u1.snapPut r (snapPart p.e + 1024 + 256 * n) 256 else u1) s
  else s

/-- The chosen firings take place. -/
def State.commit (s : State) (r : Nat) (i : Inst) (ps : List Pick) : State :=
  let s1 := ps.foldl (fun u p => u.noteReads r i ps p) s
  let s2 := s1.setInst r (ps.foldl (fun j p => j.fire s.stamp p) i)
  ps.foldl (fun u p => p.alt.eff u) s2

/-- Element e of a configuration fires, or raises a runtime fault (R101, R127, R295); none where it can do neither. -/
def State.fireIn (s : State) (r : Nat) (i : Inst) (e : Nat) (side : Option Bool) : Option State :=
  match s.firing r i e side with
  | .error (x, c) => some (s.elemFault r i.slot x c)
  | .ok none => none
  | .ok (some ps) => some (s.commit r i ps)

/-- The element that each configuration names fires in the oldest one in which it can. A fault freezes the Field behind the fc in which it arose, so
that the faults of several elements can arise in one (R114, R127). -/
def State.fireFirst (s : State) (r : Nat) (elem : Inst → Option Nat) (side : Option Bool) : State :=
  let g := s.region r
  if g.frozen && g.frozeAt != some s.now then s
  else (g.insts.findSome? (fun i => (elem i).bind (fun e => s.fireIn r i e side))).getD s

/-- Element e, where it has this kind and operation. -/
def Inst.elemAt (i : Inst) (kind op e : Nat) : Option Nat :=
  if (i.block.el e).kind == kind && (i.block.el e).op == op && e < i.block.elems.length then some e else none

/-- The AG element of a configuration that stream engine se backs, with one operation. -/
def Inst.agOf (i : Inst) (se op : Nat) : Option Nat :=
  (List.range i.block.elems.length).find? (fun e => (i.block.el e).kind == 4 && (i.block.el e).op == op && (i.block.el e).se == se)

/-- An AG step: with fetch the engine reads, or takes in indices, positions or parameters; without, a token passes between the engine and
the Field (R115). -/
def State.agStep (s : State) (op se : Nat) (fetch : Bool) : State :=
  let r := s.cur
  let field := s.fireFirst r (·.agOf se op) (some !fetch)
  if fetch then
    let s1 := s.engineRead r se op
    if s1 = s then field else s1
  else field

/-! ### Split markers (R135) -/

/-- A marker behind what element e has sent on each of its outputs. -/
def Inst.sendMarks (i : Inst) (e : Nat) : Inst :=
  { i with links := i.links.map (fun l => if l.src == e then { l with mark := some l.ahead } else l) }

/-- A marker has reached element e at a port (8: from its engine or control port); n and i: the region's snapshot and configuration. -/
def meet (sn : Snap) (i : Inst) (e p : Nat) : Snap × Inst :=
  let first := (AMap.find sn.recorded e).isNone
  let sn1 := sn.met e p (i.el e)
  let w := i.block.el e
  let sn2 := if w.kind == 4 && w.agWrite && !sn1.owed.any (fun o => o.1 == e) then { sn1 with exits := sn1.exits.filter (· != w.se) } else sn1
  (sn2, if first then i.sendMarks e else i)

/-- SPLIT_MARKER: the marker that stands before element e's port is met; none is in a frozen Field (R131). At its first the element's state is written to the
buffer; a snapshot that is complete writes the buffer's first 4 KiB (R135, R266). -/
def State.splitMarker (s : State) (r e p : Nat) : State :=
  let g := s.region r
  if g.frozen || g.snap.status != .pending || !g.snap.owed.contains (e, p) then s
  else
    match g.insts.find? (fun i => i.slot == g.snap.slot) with
    | none => s
    | some i =>
      let w := i.block.el e
      let here := if p == 8 then (w.kind != 4 || (g.engSlot w.se i.slot).mark == some 0)
        else match i.inLink e p with | some l => l.mark == some 0 | none => false
      if !here then s
      else
        let i1 := { i with links := i.links.map (fun l => if l.dst == e && l.port == p then { l with mark := none } else l) }
        let (sn, i2) := meet g.snap i1 e p
        let done := sn.over
        let s1 := (s.setInst r i2).onRegion r (fun g => { g with snap := if done then { sn with status := .done } else sn })
        let s2 := if p == 8 && w.kind == 4 then s1.onEngSlot r w.se i.slot (fun x => { x with mark := none }) else s1
        let s3 := if (AMap.find g.snap.recorded e).isNone then s2.snapPut r (snapPart e) 1024 else s2
        if done then s3.snapPut r 0 4096 else s3

/-- Every marker that stands before its element is met. -/
def State.marks (s : State) (r : Nat) : Nat → State
  | 0 => s
  | fuel + 1 =>
    let go := (s.region r).snap.owed.foldl (fun (acc : Option State) o =>
      match acc with
      | some t => some t
      | none => let t := s.splitMarker r o.1 o.2; if t = s then none else some t) none
    match go with
    | none => s
    | some t => t.marks r fuel

/-! ### Steps -/

/-- The step of element e of the current region with a kind and operation: markers at its ports are met first (R101, R135). -/
def State.elemStep (s : State) (kind op e : Nat) : Out := .next ((s.marks s.cur 300).fireFirst s.cur (·.elemAt kind op e) none)

/-- ROUTER_MOVE: the router of a link, numbered over the loaded configurations in order. -/
def moveLink (stamp : Nat) : List Inst → Nat → List Inst
  | [], _ => []
  | i :: is, n =>
    if n < i.links.length then { i with links := i.links.modify n (fun l => l.move stamp) } :: is
    else i :: moveLink stamp is (n - i.links.length)

end Sys2Proof.Machine
end

