-- ==== Sys2Proof/Machine/Deliver.lean ====
section
/-! DEFINITION. RETURN: what a response does when it reaches its issuer (R167, R235, R236, R256), what the Pacer instruction that waits
for responses then does, and derived reads (R155, R160, R162, R174). -/

namespace Sys2Proof.Machine

open Sys2Proof

/-- f with the turn given to region r. -/
def State.as (s : State) (r : Nat) (f : State → State) : State := { f { s with cur := r } with cur := s.cur }

/-! ### Derived reads -/

def portOfNum (n : Nat) : Port := if n < 1024 then .bank (n / 4) (n % 4) else .chu (n - 1024)

/-- A port that a region cannot reach over its die links (R122). -/
def State.cutOff (s : State) (r : Nat) (p : Port) : Bool := s.cut (some (dieOf r)) p

/-- The ports that hold a partial for the values of some indices. -/
def Decl.portsFor (d : Decl) (idxs : List Nat) : List Nat :=
  (d.parts.filter (fun p => idxs.any (fun i => (p.2.getD i Partial.empty).used))).map (·.1)

/-- A declaration without its ports' parts: what a reader needs to combine the partials that it is sent. -/
def Decl.shape (d : Decl) : Decl := { d with segs := [], parts := [], mq := [] }

/-- The requests of a read of n bytes at a DVIEW address, with the declaration and the offset; or the cause (R155, R161, R162,
R174). -/
def State.viewRequests (s : State) (x n : Nat) (va : Word) : Except Byte (Decl × Nat × List NewReq) :=
  match s.declAt x with
  | none =>
    if s.decls.any (fun p => decide (p.2.view ≤ x) && decide (x < p.2.viewTop)) then .error 0x85 else .error 0x84
  | some (id, d) =>
    let off := x - d.view
    if off + n > d.viewSize then .error 0x85
    else if d.lost then .error 0x8B
    else
      let idxs := d.viewIdxs off n
      let ps := (d.portsFor idxs).map portOfNum
      if ps.any (s.cutOff s.cur) then .error 0x87
      else .ok (d.shape, off, ps.map (fun p => { key := d.elemKey 0 0, va := va, port := p, cmpr := false, act := .derived id idxs }))

/-- The bytes of a view from the partials that its ports returned, or the cause. -/
def Decl.viewResult (d : Decl) (off n : Nat) (got : List (List Byte)) : Except Byte (List Byte) :=
  let idxs := d.viewIdxs off n
  let part := fun (i : Nat) =>
    let j := idxs.idxOf i
    d.combine (got.map (fun bs => Partial.ofBytes (sliceOf bs (101 * j) 101)))
  if idxs.any (fun i => (part i).bad) then .error 0x86 else .ok (d.viewBytes part off n)

/-! ### Completion of waiting instructions, with the turn given to their region -/

/-- A loaded value for an X register. -/
def loaded (bs : List Byte) (size : Nat) (signed : Bool) : Word :=
  let v := leNat (bs.take size)
  if signed then BitVec.ofInt 64 (toInt (8 * size) v) else BitVec.ofNat 64 v

/-- An instruction completes whose request its port has discarded with a deferred fault (R256): no rule gives the value of its result, which is
a free value (log 79). -/
def State.giveUp (s : State) (c : Cont) : State :=
  match c.dest with
  | none => s.advance
  | some d => let (w, t) := s.drawWord; (t.wx d w).advance

/-- The instruction completes with the bytes of its responses, in request order (R235, R284). The second word of an LDQ that reads a window's
completion word is a free value (R277, log 79). -/
def State.complete (s : State) (c : Cont) (got : List (List Byte)) : State :=
  let bs := got.flatten
  let s0 := s.onReg (fun g => { g with wait := .none })
  match c with
  | .done => s0.advance
  | .toX d size signed => (s0.wx d (loaded bs size signed)).advance
  | .toXX d =>
    if bs.length ≤ 8 then let (w, t) := s0.drawWord; ((t.wx d (loaded bs 8 false)).wx (d + 1) w).advance
    else ((s0.wx d (loaded bs 8 false)).wx (d + 1) (loaded (bs.drop 8) 8 false)).advance
  | .toC d => (s0.wc d (Cap.ofBytes (bs.take 16) (bs.getD 16 0 == 1))).advance
  | .spawnClaim d qid pkt =>
    let q := leNat (bs.take 8)
    if q == 2 ^ 64 - 1 then (s0.wx d (BitVec.allOnes 64)).advance
    else
      match (s.queue qid).bind (fun x => (s.slotLoc x q).map (fun k => (x, k))) with
      | none => (s0.wx d (BitVec.ofNat 64 q)).advance
      | some (x, k, cm) =>
        let last := (sliceOf pkt 48 15) ++ [(sliceOf pkt 63 1).headD 0 &&& 0x7F ||| BitVec.ofNat 8 (x.phase q * 128)]
        let (s1, ids) := s0.enterPacer ((List.range 3).map (fun j =>
          { key := k + 16 * j, va := 0, port := portOf k, cmpr := cm, act := .writeDone (sliceOf pkt (16 * j) 16) }))
        s1.await (.spawnBody d (BitVec.ofNat 64 q) qid last) ids
  | .spawnBody d q qid last =>
    match (s.queue qid).bind (fun x => s.slotLoc x q.toNat) with
    | none => (s0.wx d q).advance
    | some (k, cm) =>
      let (s1, ids) := s0.enterPacer [{ key := k + 48, va := 0, port := portOf k, cmpr := cm, act := .writeDone last }]
      s1.await (.spawnLast d q) ids
  | .spawnLast d q => (s0.wx d q).advance
  | .view w off n k =>
    match w.viewResult off n got with
    | .error f => s0.trap f (BitVec.ofNat 64 (w.view + off))
    | .ok vs =>
      match k with
      | .toX d size signed => (s0.wx d (loaded vs size signed)).advance
      | .toXX d => ((s0.wx d (loaded vs 8 false)).wx (d + 1) (loaded (vs.drop 8) 8 false)).advance
      | .toC d => (s0.wc d (Cap.ofBytes (vs.take 16) false)).advance
      | .held (.toX d size signed) => (s0.wx d (loaded vs size signed)).advance
      | _ => s0.advance
  | .held k => s.complete k got
  | .deferred k => s.complete k got
  | .failed _ f v k => if k.isDeferred then s0.giveUp k else s0.trap f v

/-- TVAL of a fault that a port reports late: the first byte of the faulting granule, also for a write that a peer refuses (R236); for
another fault of a link the link (R122). -/
def State.lateTval (s : State) (q : Resp) (f : Byte) : Word :=
  let a := q.va &&& ~~~(15 : Word)
  if f == 0xB5 || f == 0xB9 then a else s.tvalOf q.port a f

/-- A response to a Pacer: the wait that it belongs to goes on, or completes once every response is there, with a precise fault where one brought
a fault (R235). A fault that is deferred, and that of an instruction that has completed, becomes pending (R236, R256). -/
def State.pacerResp (s : State) (r : Nat) (q : Resp) : State :=
  match (s.region r).wait with
  | .resp c ids got =>
    if ids.contains q.stamp then
      let got' := got ++ [(q.stamp, match c with | .toC _ => q.bytes ++ [if q.flag then 1 else 0] | _ => q.bytes)]
      let c' := match q.cause with
        | some f => c.fail q.stamp f (s.tvalOf q.port q.va f)
        | none => c
      let s1 := if c.isDeferred then late else s
      if got'.length < ids.length then s1.onRegion r (fun g => { g with wait := .resp c' ids got' })
      else s1.as r (fun t => t.complete c' (ids.map (fun i => ((got'.find? (fun p => p.1 == i)).map (·.2)).getD [])))
    else late
  | _ => late
where
  late : State :=
    match q.cause with
    | some f => s.pendFault r f (s.lateTval q f) false
    | none => s

/-- A change of region r's Field that a response brings, made as well in the saved images: a response to a request of a stopped task lands
in its image (R131). Stamps are unique, so at most one of them changes. -/
def State.onField (s : State) (r : Nat) (f : Region → Region) : State :=
  let s1 := if (AMap.find s.regions r).isSome then s.onRegion r f else s
  { s1 with images := AMap.mapV s1.images f }

def Region.onElem (g : Region) (k e : Nat) (f : ElemSt → ElemSt) : Region :=
  { g with insts := g.insts.map (fun i => if i.slot == k then i.setEl e (f (i.el e)) else i) }

/-- A fault that a response brings to region r's Field (awaits: the Field waits for that response). It belongs to the Field that waits, which may
have been saved since (R127, R131); the fault of a request that nothing waits for, a store, to the region. -/
def State.faultField (s : State) (r : Nat) (awaits : Region → Bool) (fault : Region → Region) : State :=
  let saved := s.images.any (fun p => awaits p.2)
  let s1 : State := { s with images := AMap.mapV s.images (fun g => if awaits g then fault g else g) }
  if awaits (s.region r) || !saved then s1.onRegion r fault else s1

/-- The fault of an engine's request as its response reports it: a cause of class 6 names the engine, another one its link or the address of
the access (R122). -/
def State.engineResp (s : State) (se : Nat) (q : Resp) (f : Byte) (g : Region) : Region :=
  if f.toNat / 16 == 6 then g.engineFault s.now se f none else g.pendFault s.now f (s.tvalOf q.port q.va f) true

/-- A response to an element: an engine request's result (R173), the grant of an acquire (R336), or a fault. -/
def State.elemResp (s : State) (r k e : Nat) (q : Resp) : State :=
  if e ≥ 128 then
    let se := e - 128
    match q.cause with
    | some f => s.faultField r (fun g => (g.engine se).ers.any (fun x => x.stamp == q.stamp)) (s.engineResp se q f)
    | none => s.onField r (fun g =>
        let en := g.engine se
        if en.ers.any (fun x => x.stamp == q.stamp) then
          g.setEngine se { en with ers := en.ers.map (fun x =>
            if x.stamp == q.stamp then { x with resp := some (BitVec.ofNat 64 (leNat q.bytes)) } else x) }
        else g)
  else
    match q.cause with
    | some f =>
      s.faultField r (fun g => g.insts.any (fun i => i.slot == k && (i.el e).cnt.getD 2 0 == q.stamp + 1))
        (·.pendFault s.now f (s.tvalOf q.port q.va f) true)
    | none =>
      s.onField r (·.onElem k e (fun x =>
        if x.cnt.getD 2 0 == q.stamp + 1 then { x with open_ := true, cnt := [0, x.cnt.getD 1 0 + 1, 0, leNat q.bytes] } else x))

/-- Every completion of a host request has come back. -/
def HostOp.complete (o : HostOp) : Bool := o.ids.all (fun i => o.got.any (fun p => p.1 == i))

/-- A complete host request as its thread consumes it: a request that was split is UNSUPPORTED where a piece was (R14, R17). -/
def HostOp.result (o : HostOp) : HostResp :=
  let part := fun (i : Nat) => ((o.got.find? (fun p => p.1 == i)).bind (·.2))
  let ok := o.ok && o.ids.all (fun i => (part i).isSome)
  { thread := o.thread, ok := ok, bytes := if ok then o.ids.flatMap (fun i => (part i).getD []) else [] }

/-- The requests that are left when a thread consumes its completions in request order, up to the first that has not come back, and what
it consumes (R16). -/
def consumeOps (thread : Nat) : List HostOp → List HostOp × List HostResp
  | [] => ([], [])
  | o :: os =>
    if o.thread != thread then (o :: (consumeOps thread os).1, (consumeOps thread os).2)
    else if o.complete then ((consumeOps thread os).1, o.result :: (consumeOps thread os).2)
    else (o :: os, [])

/-- A host thread consumes what it may (R16). -/
def State.hostConsume (s : State) (thread : Nat) : State :=
  { s with hostOps := (consumeOps thread s.hostOps).1, hostResps := s.hostResps ++ (consumeOps thread s.hostOps).2 }

/-- A completion crosses the link to a host thread, in any order; the thread consumes completions in request order (R14, R16). -/
def State.hostResp (s : State) (thread : Nat) (q : Resp) : State :=
  ({ s with hostOps := s.hostOps.map (fun o =>
      if o.ids.contains q.stamp then { o with got := o.got ++ [(q.stamp, if q.cause.isSome then none else some q.bytes)] } else o) } :
    State).hostConsume thread

/-- The value of a bank row, or its failure, reaches its command (R163, R164); va holds the row's number. -/
def State.bankResp (s : State) (id : Nat) (q : Resp) : State :=
  match AMap.find s.banks id with
  | none => s
  | some b =>
    let i := q.va.toNat
    let b1 := match q.cause with
      | some f => { b with fails := AMap.put b.fails i f.toNat }
      | none => { b with vals := AMap.put b.vals i (leNat q.bytes) }
    { s with banks := AMap.put s.banks id b1 }

/-- The Field's engine se waits for the response of a request. -/
def Region.awaits (g : Region) (se id : Nat) : Bool := (g.engine se).awaits id

/-- RETURN: the response leaves its way and reaches its issuer (R167); one that nobody waits for any more is discarded (R131). -/
def State.deliverResp (s : State) (q : Resp) : State :=
  let s1 := { s with resps := s.resps.filter (fun x => x.stamp != q.stamp || x.issuer != q.issuer || x.port != q.port) }
  if s.dropped.contains q.stamp then { s1 with dropped := s1.dropped.filter (· != q.stamp) }
  else match q.issuer with
  | .pacer r => s1.pacerResp r q
  | .engine r _ se =>
    match q.cause with
    | some f => s1.faultField r (·.awaits se q.stamp) (s1.engineResp se q f)
    | none => s1.onField r (fun g => if g.awaits se q.stamp then g.setEngine se ((g.engine se).arrive q.stamp q.bytes q.flag) else g)
  | .elem r k e => s1.elemResp r k e q
  | .bte id j => s1.chunkResp id j q
  | .bank id => s1.bankResp id q
  | .host t => s1.hostResp t q
  | .peer _ => s1
  | .window _ => s1
  | .iod => s1

/-- R167. -/
def execRet (n : Nat) (s : State) : Out :=
  .next (match s.resps[n]? with | some q => s.deliverResp q | none => s)

end Sys2Proof.Machine
end

