-- ==== Sys2Proof/Machine/MemInstr.lean ====
section
/-! DEFINITION. Memory instructions (R142, R143, R234 to R241): the shared forms of a load and a store, and LD, ST, LDQ, STQ, LDFE, STFE,
CLD and CST. -/

namespace Sys2Proof.Machine

open Sys2Proof

/-- The address within its space, of a generic capability's window too (R141). -/
def inSpace (a : Word) : Nat := a.toNat % 2 ^ 56

/-- The requests of an access enter RQ and the Pacer waits for their responses (R165, R235). -/
def State.issueWait (s : State) (a : Word) (sp n : Nat) (ps : List Piece) (act : Piece → Act) (k : Cont) : Out :=
  let s1 := (s.walked sp (inSpace a) n).noteAccess a n
  let (s2, ids) := s1.enterPacer (ps.map (fun p => { key := p.key, va := p.va, port := portOf p.key, cmpr := p.cmpr, act := act p }))
  .next (s2.await k ids)

/-- The requests of an access enter RQ and the instruction completes (R236). -/
def State.issueDone (s : State) (a : Word) (sp n : Nat) (ps : List Piece) (acts : List Act) : Out :=
  let s1 := (s.walked sp (inSpace a) n).noteAccess a n
  let (s2, _) := s1.enterPacer ((ps.zip acts).map (fun p =>
    { key := p.1.key, va := p.1.va, port := portOf p.1.key, cmpr := p.1.cmpr, act := p.2 }))
  .next s2.advance

/-- A load of n bytes at a through c: plain spaces by one read per granule, a view by its derived read (R162, R237, R241). -/
def State.load (s : State) (i : Instr) (c : Cap) (a : Word) (n : Nat) (spaces : List Nat) (act : Piece → Act) (k : Cont) : Out :=
  match s.access c a.toNat n permLoad kindRead spaces Use.read with
  | .error f => s.failAt i a f
  | .ok (sp, ps) =>
    if sp == 7 then
      match s.viewRequests (inSpace a) n a with
      | .error f => s.fail f a
      | .ok (d, off, rs) =>
        let (s2, ids) := (s.noteAccess a n).enterPacer rs
        .next (s2.await (.view d off n k) ids)
    else s.issueWait a sp n ps act k

/-- The writes of a store, one per granule. -/
def storeActs (ps : List Piece) (bs : List Byte) (fe : FeAct) : List Act :=
  (ps.foldl (fun (acc : List Act × List Byte) p => (acc.1 ++ [.write (plain (acc.2.take p.size)) fe], acc.2.drop p.size)) ([], bs)).1

/-- A store of bytes at a through c. A view has no STORE, so its capability refuses the write (R237, R241). -/
def State.store (s : State) (i : Instr) (c : Cap) (a : Word) (bs : List Byte) (spaces : List Nat) (fe : FeAct) : Out :=
  match s.access c a.toNat bs.length permStore kindWrite spaces Use.store with
  | .error f => s.failAt i a f
  | .ok (sp, ps) => if sp == 7 then s.fail 0x19 a else s.issueDone a sp bs.length ps (storeActs ps bs fe)

/-- Bytes of an access size code. -/
def sizeOfCode (sz : BitVec 2) : Nat := 2 ^ sz.toNat

/-- LD (R237). -/
def execLd (d : XReg) (cb : CReg) (xi : XReg) (off : BitVec 8) (u : BitVec 1) (sz : BitVec 2) (s : State) : Out :=
  let n := sizeOfCode sz
  s.load (.ld d cb xi off u sz) (s.rc cb) (s.memAddr cb xi off n) n loadSpaces (fun p => .read p.size) (.toX d n (u == 0))

/-- ST (R237). -/
def execSt (d : XReg) (cb : CReg) (xi : XReg) (off : BitVec 8) (sz : BitVec 2) (s : State) : Out :=
  let n := sizeOfCode sz
  s.store (.st d cb xi off sz) (s.rc cb) (s.memAddr cb xi off n) (leBytes n (s.rx d).toNat) storeSpaces .keep

/-- LDQ (R238). -/
def execLdq (d : XReg) (cb : CReg) (xi : XReg) (off : BitVec 8) (s : State) : Out :=
  let i := Instr.ldq d cb xi off
  if d.getLsbD 0 then s.fail0 0x0E i
  else s.load i (s.rc cb) (s.memAddr cb xi off 16) 16 loadSpaces (fun p => .read p.size) (.toXX d)

/-- STQ (R238). -/
def execStq (d : XReg) (cb : CReg) (xi : XReg) (off : BitVec 8) (s : State) : Out :=
  let i := Instr.stq d cb xi off
  if d.getLsbD 0 then s.fail0 0x0E i
  else s.store i (s.rc cb) (s.memAddr cb xi off 16) (leBytes 8 (s.rx d).toNat ++ leBytes 8 (s.rx (d + 1)).toNat) storeSpaces .keep

/-- LDFE.WAIT and LDFE.TAKE: alignment, capability and space, then one transaction at the port (R176, R239). -/
def State.ldfe (s : State) (i : Instr) (d : XReg) (cb : CReg) (xi : XReg) (off : BitVec 8) (sz : BitVec 2) (take : Bool) : Out :=
  let n := sizeOfCode sz
  let a := s.memAddr cb xi off n
  if a.toNat % n != 0 then s.fail0 0x0E i
  else
    match s.access (s.rc cb) a.toNat n (if take then permLoad + permStore else permLoad) (if take then kindAtomic else kindRead) [1, 2]
        (if take then Use.store else Use.read) with
    | .error f => s.failAt i a f
    | .ok (sp, ps) => s.issueWait a sp n ps (fun p => .readFe p.size take) (if take then .held (.toX d n false) else .toX d n false)

def execLdfeWait (d : XReg) (cb : CReg) (xi : XReg) (off : BitVec 8) (sz : BitVec 2) (s : State) : Out :=
  s.ldfe (.ldfeWait d cb xi off sz) d cb xi off sz false
def execLdfeTake (d : XReg) (cb : CReg) (xi : XReg) (off : BitVec 8) (sz : BitVec 2) (s : State) : Out :=
  s.ldfe (.ldfeTake d cb xi off sz) d cb xi off sz true

/-- STFE: it releases at DEV before its store is created (R170, R239); a write to a view faults with 0x19 (R241). -/
def execStfe (d : XReg) (cb : CReg) (xi : XReg) (off : BitVec 8) (full : BitVec 1) (sz : BitVec 2) (s : State) : Out :=
  let i := Instr.stfe d cb xi off full sz
  let n := sizeOfCode sz
  let a := s.memAddr cb xi off n
  if a.toNat % n != 0 then s.fail0 0x0E i
  else
    match s.access (s.rc cb) a.toNat n permStore kindWrite [1, 2, 7] Use.store with
    | .error f => s.failAt i a f
    | .ok (sp, ps) =>
      if sp == 7 then s.fail 0x19 a
      else if s.released 3 then
        s.issueDone a sp n ps (storeActs ps (leBytes n (s.rx d).toNat) (if full == 1 then .setFull else .setEmpty))
      else s.block

/-- The 16-byte alignment of CLD and CST follows the class-1 checks (R240). -/
def misaligned16 (a : Word) : Bool := a.toNat % 16 != 0

/-- CLD (R240): the tag is read with TGLOAD only. -/
def execCld (cd : CReg) (cb : CReg) (xi : XReg) (off : BitVec 8) (s : State) : Out :=
  let i := Instr.cld cd cb xi off
  let c := s.rc cb
  let a := s.memAddr cb xi off 16
  match c.check a.toNat 16 permLoad kindRead with
  | .error f => s.failAt i a f
  | .ok _ =>
    if misaligned16 a then s.fail 0x1E a
    else s.load i c a 16 [1, 2, 3, 4, 5, 7] (fun p => if c.has permTgload && (isSram p.key || isHbm p.key) then .capRead else .read 16) (.toC cd)

/-- CST (R240); a write to a view faults with 0x19 whatever its capability holds (R241). -/
def execCst (cd : CReg) (cb : CReg) (xi : XReg) (off : BitVec 8) (s : State) : Out :=
  let i := Instr.cst cd cb xi off
  let c := s.rc cb
  let v := s.rc cd
  let a := s.memAddr cb xi off 16
  match c.check a.toNat 16 (permStore + if v.tag then permTgstore else 0) kindWrite with
  | .error f => s.failAt i a f
  | .ok (space, _) =>
    if space == 7 then s.fail 0x19 a
    else if misaligned16 a then s.fail 0x1E a
    else
      match s.access c a.toNat 16 permStore kindWrite [1, 2, 3, 4, 5] Use.store with
      | .error f => s.failAt i a f
      | .ok (sp, ps) => s.issueDone a sp 16 ps (ps.map (fun _ => .capWrite v.bytes v.tag))

end Sys2Proof.Machine
end

