-- ==== Sys2Proof/Machine/Atomics.lean ====
section
/-! DEFINITION. Atomics and reductions at memory, and contributions to reduction windows (R148, R198 to R201, R255, R274 to R277). -/

namespace Sys2Proof.Machine

open Sys2Proof

/-- A qualifier that an instruction may carry: a kind of the list and, with a kind, a scope 0 to 4; else 0x03 (R206, R255). -/
def qualOk (sc : BitVec 3) (ok : BitVec 2) (kinds : List Nat) : Bool :=
  kinds.contains ok.toNat && (if ok == 0 then sc == 0 else sc.toNat ≤ 4)

/-- The shared checks of an instruction on one aligned word of n bytes at C(ca)'s cursor: qualifier, alignment, capability, space and
translation, and the wait of its release; k continues with the pieces (R234, R255, R170). -/
def State.wordOp (s : State) (i : Instr) (ca : CReg) (n perms kind : Nat) (spaces : List Nat) (use : Use) (sc : BitVec 3) (ok : BitVec 2)
    (kinds : List Nat) (k : Word → Nat → List Piece → Out) : Out :=
  if !qualOk sc ok kinds then s.fail0 0x03 i
  else
    let c := s.rc ca
    let a := c.cursor
    if a.toNat % n != 0 then s.fail0 0x0E i
    else match s.access c a.toNat n perms kind spaces use with
      | .error f => s.failAt i a f
      | .ok (sp, ps) => if s.qualReleased sc ok then k a sp ps else s.block

/-! ### AMO (R274) -/

/-- HOST takes add, swap and cas. -/
def amoSpaces (op : AmoOp) : List Nat :=
  match op with | .add => engSpaces | .swap => engSpaces | .cas => engSpaces | _ => [1, 2, 3, 5]

def State.amo (s : State) (i : Instr) (op : AmoOp) (d : XReg) (ca : CReg) (b : XReg) (sc : BitVec 3) (ok : BitVec 2) : Out :=
  s.wordOp i ca 8 permAtomic kindAtomic (amoSpaces op) Use.store sc ok [0, 1, 2, 3] fun a sp ps =>
    s.issueWait a sp 8 ps (fun _ => .amo op 8 (s.rx b) (s.rx d)) (.held (.toX d 8 false))

def execAmoAdd (d : XReg) (ca : CReg) (b : XReg) (sc : BitVec 3) (ok : BitVec 2) (s : State) : Out := s.amo (.amoAdd d ca b sc ok) .add d ca b sc ok
def execAmoAnd (d : XReg) (ca : CReg) (b : XReg) (sc : BitVec 3) (ok : BitVec 2) (s : State) : Out := s.amo (.amoAnd d ca b sc ok) .and d ca b sc ok
def execAmoOr (d : XReg) (ca : CReg) (b : XReg) (sc : BitVec 3) (ok : BitVec 2) (s : State) : Out := s.amo (.amoOr d ca b sc ok) .or d ca b sc ok
def execAmoXor (d : XReg) (ca : CReg) (b : XReg) (sc : BitVec 3) (ok : BitVec 2) (s : State) : Out := s.amo (.amoXor d ca b sc ok) .xor d ca b sc ok
def execAmoMin (d : XReg) (ca : CReg) (b : XReg) (sc : BitVec 3) (ok : BitVec 2) (s : State) : Out := s.amo (.amoMin d ca b sc ok) .min d ca b sc ok
def execAmoMax (d : XReg) (ca : CReg) (b : XReg) (sc : BitVec 3) (ok : BitVec 2) (s : State) : Out := s.amo (.amoMax d ca b sc ok) .max d ca b sc ok
def execAmoSwap (d : XReg) (ca : CReg) (b : XReg) (sc : BitVec 3) (ok : BitVec 2) (s : State) : Out := s.amo (.amoSwap d ca b sc ok) .swap d ca b sc ok
def execAmoCas (d : XReg) (ca : CReg) (b : XReg) (sc : BitVec 3) (ok : BitVec 2) (s : State) : Out := s.amo (.amoCas d ca b sc ok) .cas d ca b sc ok

/-! ### RED (R275, R276) -/

/-- The size of a RED's word: WIDE is bit 4 of the mode. -/
def redSize (op : RedOp) (mode : BitVec 5) : Nat :=
  match op, mode.getLsbD 4 with
  | .iadd, true => 8
  | .iadd, false => 4
  | _, true => 2
  | _, false => 4

/-- The place in an ordered group: RANK below N, N from 1 to 64, and zeros elsewhere (R276). -/
def ordOk (w : Nat) : Bool := bitsOf w 0 6 ≤ bitsOf w 16 6 && w == bitsOf w 0 6 + bitsOf w 16 6 * 2 ^ 16

/-- A RED: .any as one request, .ord with its place in the group. -/
def State.redu (s : State) (i : Instr) (op : RedOp) (mode : BitVec 5) (ca : CReg) (b : XReg) (sc : BitVec 3) (ok : BitVec 2) : Out :=
  let any := mode.getLsbD 3
  let rmode := mode.setWidth 3
  let n := redSize op mode
  if !qualOk sc ok [0, 2] then s.fail0 0x03 i
  else if op == .iadd && rmode != 0 then s.fail0 0x0E i
  else if !any && (b.toNat == 31 || !ordOk (s.rx (b + 1)).toNat) then s.fail0 0x0E i
  else
    s.wordOp i ca n permAtomic kindAtomic [1, 2, 3, 5] (if any then Use.redAny else Use.store) sc ok [0, 2] fun a sp ps =>
      let place := (s.rx (b + 1)).toNat
      s.issueDone a sp n ps (ps.map (fun _ =>
        if any then .red op n rmode (s.rx b) else .redOrd op n rmode (s.rx b) (bitsOf place 0 6) (bitsOf place 16 6 + 1)))

def execRedFadd (mode : BitVec 5) (ca : CReg) (b : XReg) (sc : BitVec 3) (ok : BitVec 2) (s : State) : Out := s.redu (.redFadd mode ca b sc ok) .fadd mode ca b sc ok
def execRedFmax (mode : BitVec 5) (ca : CReg) (b : XReg) (sc : BitVec 3) (ok : BitVec 2) (s : State) : Out := s.redu (.redFmax mode ca b sc ok) .fmax mode ca b sc ok
def execRedFmin (mode : BitVec 5) (ca : CReg) (b : XReg) (sc : BitVec 3) (ok : BitVec 2) (s : State) : Out := s.redu (.redFmin mode ca b sc ok) .fmin mode ca b sc ok
def execRedIadd (mode : BitVec 5) (ca : CReg) (b : XReg) (sc : BitVec 3) (ok : BitVec 2) (s : State) : Out := s.redu (.redIadd mode ca b sc ok) .iadd mode ca b sc ok

/-! ### WRED (R277) -/

/-- The contribution enters RP of its window: the window must be open and know the issuer, the element and RMODE must be the window's. -/
def execWred (mode : BitVec 3) (ca : CReg) (b : XReg) (sc : BitVec 3) (ok : BitVec 2) (s : State) : Out :=
  let i := Instr.wred mode ca b sc ok
  if !qualOk sc ok [0, 2] then s.fail0 0x03 i
  else
    let c := s.rc ca
    let a := c.cursor
    if a.toNat % 4 != 0 then s.fail0 0x0E i
    else match c.check a.toNat 4 permAtomic kindAtomic with
      | .error f => s.failAt i a f
      | .ok (sp, x) =>
        if sp != 6 then s.fail0 0x0E i
        else match s.windowAt x with
          | none => s.fail 0x2F a
          | some w =>
            match w.ranks.find? (fun r => r.1 == (s.comm.rank, s.cur)) with
            | none => s.fail 0x2F a
            | some (_, rank) =>
              let e := x % 2 ^ 24 / 4
              if e ≥ w.elems || mode != w.rmode then s.fail0 0x0E i
              else if !s.qualReleased sc ok then s.block
              else
                let n := x / 2 ^ 24
                let s1 := (s.enter (.pacer s.cur) (.rp n)
                  [{ key := w.home, va := a, port := .rwin n, cmpr := false, act := .wred rank e (s.rx b) }]).1
                .next (((match s1.rpFault with | some c => s1.failReqs inRp c | none => s1).noteAccess a 4).advance)

end Sys2Proof.Machine
end

