-- ==== Sys2Proof/Machine/Branch.lean ====
section
/-! DEFINITION. Control flow (R231 to R233). -/

namespace Sys2Proof.Machine

open Sys2Proof

/-- A branch: PC + OFF16 × 4 where the comparison holds, else NextPC (R231). -/
def opBranch (holds : Word → Word → Bool) (a b : XReg) (off : BitVec 16) (s : State) : Out :=
  .next (if holds (s.rx a) (s.rx b) then s.jump (s.pc + off16 off) else s.advance)

def execBeq (a b : XReg) (off : BitVec 16) (s : State) : Out := opBranch (fun x y => x == y) a b off s
def execBne (a b : XReg) (off : BitVec 16) (s : State) : Out := opBranch (fun x y => x != y) a b off s
def execBlt (a b : XReg) (off : BitVec 16) (s : State) : Out := opBranch (fun x y => x.slt y) a b off s
def execBge (a b : XReg) (off : BitVec 16) (s : State) : Out := opBranch (fun x y => !x.slt y) a b off s
def execBltu (a b : XReg) (off : BitVec 16) (s : State) : Out := opBranch (fun x y => x.ult y) a b off s
def execBgeu (a b : XReg) (off : BitVec 16) (s : State) : Out := opBranch (fun x y => !x.ult y) a b off s

/-- LOOP (R232). -/
def execLoop (a : XReg) (off : BitVec 16) (s : State) : Out :=
  if a = 0 then s.fail0 0x0E (.loop a off)
  else
    let n := s.rx a - 1
    let s' := s.wx a n
    .next (if n ≠ 0 then s'.jump (s.pc + off16 off) else s'.advance)

def execJal (d : XReg) (off : BitVec 21) (s : State) : Out := .next ((s.wx d (s.pc + 4)).jump (s.pc + off21 off))
def execJalr (d a : XReg) (imm : BitVec 16) (s : State) : Out := .next ((s.wx d (s.pc + 4)).jump (s.rx a + sext16 imm))

end Sys2Proof.Machine
end

