-- ==== Sys2Proof/Machine/CapOps.lean ====
section
/-! DEFINITION. Capability instructions (R242 to R247). -/

namespace Sys2Proof.Machine

open Sys2Proof

def execCinc (cd ca : CReg) (b : XReg) (s : State) : Out :=
  s.retC cd ((s.rc ca).withCursor ((s.rc ca).cursor + s.rx b))

def execCsetb (cd ca : CReg) (b : XReg) (s : State) : Out :=
  match (s.rc ca).setBounds (s.rx b).toNat with
  | .ok c => s.retC cd c
  | .error f => s.fail f (s.rc ca).cursor

/-- CANDP: an untagged source faults with 0x10; TVAL is its cursor (R122, R245). -/
def execCandp (cd ca : CReg) (b : XReg) (s : State) : Out :=
  let c := s.rc ca
  if c.tag then s.retC cd { c with perms := c.perms &&& (s.rx b).setWidth 7 } else s.fail 0x10 c.cursor

def execCget (d : XReg) (ca : CReg) (field : BitVec 5) (s : State) : Out := s.ret d ((s.rc ca).field field.toNat)
def execCtag (d : XReg) (ca : CReg) (s : State) : Out := s.ret d (if (s.rc ca).tag then 1 else 0)
def execCclr (cd ca : CReg) (s : State) : Out := s.retC cd { s.rc ca with tag := false }
def execCsub (d : XReg) (ca cb : CReg) (s : State) : Out := s.ret d ((s.rc ca).cursor - (s.rc cb).cursor)

end Sys2Proof.Machine
end

