-- ==== Sys2Proof/Machine/Pools.lean ====
section
/-! DEFINITION. KV pools, sequence descriptors and block descriptors as the Podium and the Prefix Index reach them, the freeing of blocks,
the release walk, and KvSlot (R85 to R87, R93, R94, R374). unit: 1 the Podium, 2 the Prefix Index (R32). -/

namespace Sys2Proof.Machine

open Sys2Proof

/-- A sequence descriptor as read (R86). -/
structure Sqd where
  cap : Cap
  pool : Cap
  len : Nat
  plen : Nat
  nblk : Nat
  room : Nat
  st : Nat
  bind : Nat
  model : BitVec 32
  bad : Bool
deriving DecidableEq, Repr

/-- The SQD at a capability's cursor, or the cause of the failed access. POOL's tag is read with its bytes, and fails as they do (R122, class 3). -/
def State.readSqd (s : State) (vd : Nat) (c : Cap) : Except Byte Sqd :=
  let a := c.cursor.toNat
  match s.unitKeys vd c a 64 permLoad kindRead Use.read, s.unitRead vd c a 64 with
  | .ok ((k, _, _) :: _), .ok hd =>
    if s.anyBadMeta k 16 then .error (class3 k 3) else
    let pool := Cap.ofBytes (hd.take 16) (s.tagAt k)
    .ok { cap := c, pool := pool, len := fieldLe hd 0x10 4, plen := fieldLe hd 0x14 4, nblk := fieldLe hd 0x18 4, room := fieldLe hd 0x1C 4,
          st := fieldLe hd 0x20 4, bind := fieldLe hd 0x24 4, model := BitVec.ofNat 32 (fieldLe hd 0x28 4), bad := sqdBad hd pool }
  | _, .error f => .error f
  | .error f, _ => .error f
  | _, _ => .error 0x14

def Sqd.at_ (q : Sqd) (off : Nat) : Nat := q.cap.cursor.toNat + off

/-- A pool descriptor as read (R85). -/
structure Pool where
  cap : Cap
  nblk : Nat
  bsize : Nat
  kvdt : Nat
  fring : Nat
deriving DecidableEq, Repr

/-- The pool descriptor at the POOL capability's cursor: 0x9A where it is invalid (R86, R90). -/
def State.readPool (s : State) (vd : Nat) (c : Cap) : Except Byte Pool :=
  match s.unitRead vd c c.cursor.toNat 64 with
  | .error f => .error f
  | .ok pd =>
    if poolBad pd then .error 0x9A
    else .ok { cap := c, nblk := fieldLe pd 0 4, bsize := fieldLe pd 4 4, kvdt := fieldLe pd 8 8, fring := fieldLe pd 0x28 8 }

/-- The address of a block descriptor (R93). -/
def Pool.kvd (p : Pool) (b : Nat) : Nat := p.kvdt + 32 * b
def Pool.at_ (p : Pool) (off : Nat) : Nat := p.cap.cursor.toNat + off

/-- Block j of a sequence. -/
def State.blockOf (s : State) (vd : Nat) (q : Sqd) (j : Nat) : Except Byte Nat :=
  (s.unitRead vd q.cap (q.at_ (0x40 + 4 * j)) 4).map leNat

/-- A unit's access, with its address where it fails (R374). -/
def atAddr {α : Type} (a : Nat) (r : Except Byte α) : Except (Byte × Nat) α := r.mapError (fun f => (f, a))

/-- FreeBlock (R85): FTAIL claimed, the entry stored, AVAIL raised; or the cause and the address of the access that fails. -/
def State.freeBlock (s : State) (vd : Nat) (p : Pool) (b : Nat) : Except (Byte × Nat) State :=
  match atAddr (p.at_ 0x20) (s.unitAtomic vd p.cap (p.at_ 0x20) 8 (fun t => t + 1)) with
  | .error f => .error f
  | .ok (t, s1) =>
    let a := p.fring + 4 * (t % p.nblk)
    match atAddr a (s1.unitWrite vd p.cap a (leBytes 4 (b + 1))) with
    | .error f => .error f
    | .ok s2 => atAddr (p.at_ 0x30) ((s2.unitAtomic vd p.cap (p.at_ 0x30) 8 (fun v => v + 1)).map (·.2))

/-- What a decrement of a block's REF did. -/
inductive Drop where
  | kept | freed | zero
deriving DecidableEq, Repr

/-- One reference dropped: the decrement that brings REF to 0 frees the block, and one that finds 0 leaves it (R87). A failure changes
nothing, and names the access that failed. -/
def State.dropRef (s : State) (vd : Nat) (p : Pool) (b : Nat) : Except (Byte × Nat) (State × Drop) :=
  match atAddr (p.kvd b) <| s.unitAtomic vd p.cap (p.kvd b) 4 (fun r => r - 1) with
  | .error f => .error f
  | .ok (old, s1) =>
    if old == 0 then .ok (s1, .zero)
    else if old == 1 then (s1.freeBlock vd p b).map (fun t => (t, .freed))
    else .ok (s1, .kept)

/-- What a release walk found: blocks freed, whether a failure or a REF of 0 was met, and the first failed access (R87, R374). -/
structure Walk where
  freed : Nat
  fault : Bool
  first : Option (Byte × Nat)
deriving DecidableEq, Repr

/-- The walk over n blocks from block j. -/
def State.walkBlocks (s : State) (unit vd : Nat) (q : Sqd) (p : Pool) : Nat → Nat → Walk → State × Walk
  | 0, _, w => (s, w)
  | n + 1, j, w =>
    let (s1, w1) :=
      match s.blockOf vd q j with
      | .error f => (s.unitFail unit f (q.at_ (0x40 + 4 * j)), { w with fault := true, first := w.first.or (some (f, q.at_ (0x40 + 4 * j))) })
      | .ok b =>
        match s.dropRef vd p b with
        | .error (f, a) => (s.unitFail unit f a, { w with fault := true, first := w.first.or (some (f, a)) })
        | .ok (t, .freed) => (t, { w with freed := w.freed + 1 })
        | .ok (t, .zero) => (t, { w with fault := true })
        | .ok (t, .kept) => (t, w)
    s1.walkBlocks unit vd q p n (j + 1) w1

/-- The Podium's release of a cancelled sibling's sequence (R87): TOKENS, RELEASED and RELFAULT. -/
def State.releaseWalk (s : State) (vd : Nat) (c : Cap) : State × Nat × Nat × Bool :=
  match s.readSqd vd c with
  | .error f => (s.unitFail 1 f c.cursor.toNat, 0, 0, true)
  | .ok q =>
    if q.bad then (s, 0, 0, true)
    else
      match s.readPool vd q.pool with
      | .error f => (if f == 0x9A then s else s.unitFail 1 f q.pool.cursor.toNat, 0, 0, true)
      | .ok p =>
        let (s1, w) := s.walkBlocks 1 vd q p q.nblk 0 { freed := 0, fault := false, first := none }
        let s2 := s1.unitTry 1 vd c (q.at_ 0x20) (leBytes 4 2)
        let s3 := s2.unitTry 1 vd c (q.at_ 0x18) (leBytes 4 0)
        (s3, (q.len + 2 ^ 32 - q.plen) % 2 ^ 32, w.freed, w.fault)

/-- KvSlot (R94), or the cause (R288). -/
def State.kvSlot (s : State) (vd : Nat) (c : Cap) (p : Nat) : Except (Byte × Nat) KvRes :=
  match atAddr c.cursor.toNat (s.readSqd vd c) with
  | .error f => .error f
  | .ok q =>
    if q.bad then .error (0x99, c.cursor.toNat)
    else match atAddr q.pool.cursor.toNat (s.readPool vd q.pool) with
      | .error f => .error f
      | .ok pl =>
        if p ≥ q.len then .ok .beyond
        else match atAddr (q.at_ (0x40 + 4 * (p / 64))) (s.blockOf vd q (p / 64)) with
          | .error f => .error f
          | .ok b =>
            match atAddr (pl.kvd b + 8) (s.unitRead vd pl.cap (pl.kvd b + 8) 8) with
            | .error f => .error f
            | .ok sv => match survSlot (leNat sv) (p % 64) with
              | none => .ok .notKept
              | some sl => .ok (.kept b sl)

end Sys2Proof.Machine
end

