-- ==== Sys2Proof/Machine/Heats.lean ====
section
/-! DEFINITION. The Podium's records: siblings, decisions, settling, and the accounting record (R78 to R83, R88). -/

namespace Sys2Proof.Machine

open Sys2Proof

def Sibling.empty : Sibling :=
  { taskId := none, hash := none, late := false, slot := 0xFF, fate := 0, tstate := 0xFF, relfault := false, tokens := 0, released := 0,
    tiles := 0, sqd := none, settled := false, final := false }

/-- The STATE codes of a heat record (R88). -/
def HeatState.code : HeatState → Nat
  | .open_ => 0
  | .decided => 1
  | .tied => 2
  | .noanswer => 3
  | .abandoned => 4

def State.heat (s : State) (h : Nat) : Option Heat := AMap.find s.heats h
def State.putHeat (s : State) (h : Nat) (x : Heat) : State := { s with heats := AMap.put s.heats h x }
def Heat.sib (x : Heat) (i : Nat) : Sibling := x.sibs.getD i Sibling.empty
def Heat.setSib (x : Heat) (i : Nat) (b : Sibling) : Heat := { x with sibs := x.sibs.set i b }
def State.onSib (s : State) (h i : Nat) (f : Sibling → Sibling) : State :=
  match s.heat h with
  | none => s
  | some x => s.putHeat h (x.setSib i (f (x.sib i)))

/-- The heat and index of which a task is a sibling: the id may have been freed and opened again since (R79, R89). -/
def State.sibOf (s : State) (id : Nat) (t : Task) : Option (Nat × Nat) :=
  if !schedHv t.sched then none
  else match s.heat (schedHeat t.sched) with
    | none => none
    | some x => if (x.sib (schedSib t.sched)).taskId == some id then some (schedHeat t.sched, schedSib t.sched) else none

/-- STATE and WIN written into the heat record (R81). -/
def State.writeDecision (s : State) (x : Heat) : State :=
  let a := x.rec_.cursor.toNat
  (s.unitTry 1 x.vd x.rec_ (a + 8) (leBytes 8 x.win.toNat)).unitTry 1 x.vd x.rec_ a (leBytes 1 x.st.code)

/-- A decision (R81, R82, R89). -/
def State.decideHeat (s : State) (h : Nat) (st : HeatState) (win : Word) (decider : Nat) : State :=
  match s.heat h with
  | none => s
  | some x =>
    let y := { x with st := st, win := win, decider := decider }
    (s.putHeat h y).writeDecision y

/-- The table entry whose lowest posting sibling is least. -/
def Heat.leader (x : Heat) : Option (Word × Nat × Nat) :=
  x.table.foldl (fun (m : Option (Word × Nat × Nat)) e => match m with
    | none => some e
    | some f => if e.2.2 < f.2.2 then some e else m) none

/-- Every sibling settled while the heat is OPEN: TIED or NOANSWER (R82). -/
def State.settleHeat (s : State) (h : Nat) : State :=
  match s.heat h with
  | none => s
  | some x =>
    if x.st == .open_ && x.sibs.all (·.settled) then
      match x.leader with
      | some e => s.decideHeat h .tied e.1 0xFF
      | none => s.decideHeat h .noanswer 0 0xFF
    else s

/-- A sibling's task reached a final state (R82, R88). -/
def State.sibFinal (s : State) (h i fate tiles : Nat) : State :=
  (s.onSib h i (fun b => { b with settled := true, final := true, fate := fate, tiles := tiles })).settleHeat h

/-- The siblings that a decision or a HEAT.CLOSE cancels: not final and, for a decision, without a post of WIN (R81, R89). -/
def Heat.losers (x : Heat) (win : Option Word) : List Nat :=
  (List.range x.n).filter (fun i => !(x.sib i).final && (win.isNone || (x.sib i).hash != win))

/-- A slot that no LAUNCH has named is entered as cancelled before dispatch (R81, R88). -/
def State.cancelSlots (s : State) (h : Nat) (is : List Nat) : State :=
  is.foldl (fun t i => t.onSib h i (fun b => if b.taskId.isNone then { b with fate := 3, tstate := 0, settled := true } else b)) s

/-! ### The accounting record (R88) -/

def Sibling.cancelled (b : Sibling) : Bool := b.fate ≥ 3

/-- The 32 bytes of a sibling entry. -/
def Sibling.bytes (b : Sibling) : List Byte :=
  leBytes 4 (b.taskId.getD 0) ++ leBytes 1 b.fate ++ leBytes 1 (if b.cancelled then b.tstate else 0xFF) ++ leBytes 1 b.slot ++
    leBytes 1 ((if b.late then 1 else 0) + (if b.relfault then 2 else 0)) ++ leBytes 4 b.tokens ++ leBytes 4 b.released ++
    leBytes 8 b.tiles ++ leBytes 8 ((b.hash.getD 0).toNat)

def Heat.mask (x : Heat) (f : Sibling → Bool) : Nat :=
  (List.range x.n).foldl (fun m i => if f (x.sib i) then m + 2 ^ i else m) 0

def Heat.total (x : Heat) (f : Sibling → Nat) : Nat := x.sibs.foldl (fun n b => if b.cancelled then n + f b else n) 0

/-- Header bytes 1 to 63. Of an ABANDONED heat WCOUNT and WMASK are 0, as WIN is (the model's choice, log 55). -/
def Heat.header (x : Heat) : List Byte :=
  let wcount := match x.table.find? (fun e => e.1 == x.win) with | some e => e.2.1 | none => 0
  leBytes 1 x.n ++ leBytes 1 x.q ++ leBytes 1 x.table.length ++ leBytes 1 (if x.st == .decided || x.st == .tied then wcount else 0) ++
    leBytes 1 x.decider ++ leBytes 2 0 ++ leBytes 8 x.win.toNat ++ leBytes 8 (x.mask (·.cancelled)) ++ leBytes 8 (x.mask (fun b => b.hash.isSome)) ++
    leBytes 8 (if x.st == .decided || x.st == .tied then x.mask (fun b => b.hash == some x.win) else 0) ++
    leBytes 8 (x.total (·.tokens)) ++ leBytes 8 (x.total (·.tiles)) ++ leBytes 8 0

/-- The heat has left OPEN, and every launched sibling is final with its release complete. -/
def Heat.accountable (x : Heat) : Bool := x.st != .open_ && !x.done && x.sibs.all (fun b => b.taskId.isNone || b.final)

/-- HEAT_ACCOUNTING_WRITE: the entries, the header, then STATE with DONE; a closed heat's id is freed (R88, R89, R374). -/
def State.account (s : State) (h : Nat) : State :=
  match s.heat h with
  | none => s
  | some x =>
    if !x.accountable then s
    else
      let a := x.rec_.cursor.toNat
      let s1 := (List.range x.n).foldl (fun t i => t.unitTry 1 x.vd x.rec_ (a + 0x40 + 32 * i) (x.sib i).bytes) s
      let s2 := s1.unitTry 1 x.vd x.rec_ (a + 1) x.header
      let s3 := s2.unitTry 1 x.vd x.rec_ a (leBytes 1 (0x80 + x.st.code))
      if x.closing then { s3 with heats := AMap.del s3.heats h } else s3.putHeat h { x with done := true }

/-- R88. -/
def execHeatAccountingWrite (heat : Nat) (s : State) : Out := .next (s.account heat)

end Sys2Proof.Machine
end

