-- ==== Sys2Proof/Machine/Tasks.lean ====
section
/-! DEFINITION. How tasks end: successor lists, decrements and cascades (R61, R65 to R67), the final state and its records (R66, R69, R74,
R88, R359, R374), cancels (R71, R84), and the cancellation points of running tasks (R72, R131). -/

namespace Sys2Proof.Machine

open Sys2Proof

/-! ### Successor lists (R61, R66) -/

/-- The address that a signed offset in units of 128 bytes names; none for 0 or below 0. -/
def relAddr (base off : Nat) : Option Nat :=
  let a : Int := (base : Int) + 128 * toInt 32 off
  if off == 0 || decide (a < 0) then none else some a.toNat

/-- 128 bytes at an address that a task's capability reaches with LOAD and STORE. -/
def Task.reaches (t : Task) (a : Nat) : Bool :=
  match t.tcb.check a 128 (permLoad + permStore) kindRead with
  | .ok _ => true
  | .error _ => false

/-- The TCBs that offsets of a task's list name; none where one is 0 or leads outside the capability. -/
def Task.named (t : Task) : List Nat → Option (List Nat)
  | [] => some []
  | o :: os =>
    match relAddr t.tcb.cursor.toNat o, t.named os with
    | some a, some as => if t.reaches a then some (a :: as) else none
    | _, _ => none

/-- The overflow blocks from an address, at most n: the whole list, or why it fails (none: its check; some: a failed read). -/
def State.overflow (s : State) (t : Task) : Nat → Nat → List Nat → Except (Option (Byte × Nat)) (List Nat)
  | 0, _, _ => .error none
  | fuel + 1, a, acc =>
    match s.unitRead t.vd t.tcb a 128 with
    | .error f => .error (some (f, a))
    | .ok bs =>
      let n := fieldLe bs 0 4
      let nx := fieldLe bs 4 4
      if n < 1 || n > 30 then .error none
      else
        match t.named ((List.range n).map (fun j => fieldLe bs (8 + 4 * j) 4)) with
        | none => .error none
        | some as =>
          if nx == 0 then .ok (acc ++ as)
          else match relAddr a nx with
            | none => .error none
            | some b => s.overflow t fuel b (acc ++ as)

/-- The successor list of a task as it stands in memory (R61, R66): at most 137 blocks and 4,096 successors. -/
def State.succs (s : State) (t : Task) : Except (Option (Byte × Nat)) (List Nat) :=
  let a := t.tcb.cursor.toNat
  match s.unitRead t.vd t.tcb a 128 with
  | .error f => .error (some (f, a))
  | .ok bs =>
    let n := bitsOf (fieldLe bs 0x10 8) 24 4
    let x := fieldLe bs 0x60 8
    if n > 8 || x ≥ 2 ^ 32 then .error none
    else
      match t.named ((List.range n).map (fun j => fieldLe bs (0x40 + 4 * j) 4)) with
      | none => .error none
      | some as =>
        let all : Except (Option (Byte × Nat)) (List Nat) := if x == 0 then .ok as else match relAddr a x with
          | none => .error none
          | some b => s.overflow t 137 b as
        match all with
        | .ok l => if l.length > 4096 then .error none else .ok l
        | .error e => .error e

/-- The list, with the log record of a failed read (R374); none where it fails. -/
def State.readSuccs (s : State) (t : Task) : State × Option (List Nat) :=
  match s.succs t with
  | .ok l => (s, some l)
  | .error none => (s, none)
  | .error (some (f, a)) => (s.unitFail 0 f a, none)

/-- The Marshal's task whose TCB stands at an address. -/
def State.taskAt (s : State) (vd sp a : Nat) : Option Nat :=
  (s.tasks.find? (fun p => p.2.vd == vd && p.2.tcb.tag && p.2.tcb.spaceAt == sp && p.2.tcb.cursor.toNat % 2 ^ 56 == a % 2 ^ 56)).map (·.1)

/-- A decrement of a successor (R65); one that fails is skipped (R374). Of a CANCELLED TCB it lowers PCOUNT too, where that is not 0 (the model's
choice, log 52). -/
def State.decSucc (s : State) (t : Task) (a : Nat) : State :=
  match s.unitAtomic t.vd t.tcb (a + 0x10) 8 (fun w => if w % 65536 == 0 then w ||| 2 ^ 20 else w - 1) with
  | .error f => s.unitFail 0 f (a + 0x10)
  | .ok (old, s1) =>
    if old % 65536 ≤ 1 && bitsOf old 16 4 == TaskState.waiting.code then
      match s1.taskAt t.vd t.tcb.spaceAt a with
      | none => s1
      | some j => if ((s1.task j).map (·.st)) == some .waiting then s1.makeReady j else s1
    else s1

/-- A cascade reaches a successor (R67): the Marshal's task there, if there is one; an UNLAUNCHED TCB takes CANCELLED. -/
def State.cascadeTo (s : State) (t : Task) (a : Nat) : State × List Nat :=
  match s.taskAt t.vd t.tcb.spaceAt a with
  | some j => (s, [j])
  | none =>
    match s.unitAtomic t.vd t.tcb (a + 0x10) 8 (fun w => if bitsOf w 16 4 == 0 then w + TaskState.cancelled.code * 65536 else w) with
    | .error f => (s.unitFail 0 f (a + 0x10), [])
    | .ok (_, s1) => (s1, [])

def State.cascadeAll (s : State) (t : Task) : List Nat → State × List Nat
  | [] => (s, [])
  | a :: as =>
    let (s1, j) := s.cascadeTo t a
    let (s2, js) := s1.cascadeAll t as
    (s2, j ++ js)

/-- The tasks to which a cascade from a task spreads; a list that fails stops the branch (R67). -/
def State.cascadeKids (s : State) (t : Task) : State × List Nat :=
  if !t.tcb.tag then (s, [])
  else match s.readSuccs t with
    | (s1, none) => (s1, [])
    | (s1, some l) => s1.cascadeAll t l

/-! ### The end of a task -/

/-- How a task or a run ends: FATE (R88), outcome code and cause (R57), and whether its successors are left alone (R49 Q.DESTROY). -/
structure Ending where
  fate : Nat
  res : Nat
  cause : Nat
  quiet : Bool
deriving DecidableEq, Repr

def Ending.st (e : Ending) : TaskState := if e.fate == 1 then .retired else if e.fate == 2 then .faulted else .cancelled

/-- The Marshal's change of OUTC (R60, R374), which a task without a TCB does not have (R359). -/
def State.onOutc (s : State) (t : Task) (f : Nat → Nat) : State :=
  if !t.tcb.tag then s
  else match s.unitAtomic t.vd t.tcb (t.at_ 0x68) 8 f with
  | .ok (_, s') => s'
  | .error e => s.unitFail 0 e (t.at_ 0x68)

/-- OUTC with an outcome; run: one more run is complete (R74). -/
def outcWith (run : Bool) (res cause w : Nat) : Nat :=
  (bitsOf w 32 32 + (if run then 1 else 0)) % 2 ^ 32 * 2 ^ 32 + bitsOf w 16 8 * 2 ^ 16 + cause * 2 ^ 8 + res

/-- A region whose task has ended: nothing fetches and nothing fires in it. -/
def Region.freed (g : Region) : Region :=
  { g with run := .off, wait := .none, task := none, stop := none, cancelAt := none, frozen := true }

def State.freeRegions (s : State) (rs : List Nat) : State := rs.foldl (fun t r => t.onRegion r Region.freed) s

/-- A pre-emption from which a task has gone: with the task that asked go its reservations, with a victim its stop; the record stands while a stop
that it asked for is outstanding (R70). -/
def Hold.leave (id : Nat) (h : Hold) : Option Hold :=
  let x : Hold := { h with regions := if h.task == id then [] else h.regions, victims := h.victims.filter (· != id) }
  if x.regions.isEmpty && x.victims.isEmpty then none else some x

/-- A task leaves the ready lists and every reservation (R68 to R70). -/
def Vd.forget (d : Vd) (id : Nat) : Vd :=
  { (d.drop id) with hold := d.hold.filter (·.task != id), pre := d.pre.filterMap (Hold.leave id) }

/-- The arm tiles of a task's Field (R88). -/
def State.tilesOf (s : State) (t : Task) : Nat :=
  if t.members.isEmpty then t.tiles else t.members.foldl (fun n r => n + (s.region r).tiles) 0

/-- A cancelled sibling's sequence is released (R87). -/
def State.releaseSib (s : State) (h i : Nat) : State :=
  match s.heat h with
  | none => s
  | some x =>
    match (x.sib i).sqd with
    | none => s
    | some c =>
      let (s1, tok, rel, flt) := s.releaseWalk x.vd c
      s1.onSib h i (fun b => { b with tokens := tok, released := rel, relfault := b.relfault || flt })

/-- What FPOL does with the successors of an ending task: 0 nothing, 1 decrements, 2 a cascade, but for a list that a cascade has walked (R66,
R67). -/
def Task.policy (t : Task) (e : Ending) : Nat :=
  if e.quiet || !t.tcb.tag then 0 else if e.fate == 1 then 1 else if schedFpol t.sched == 2 && t.walked then 0 else schedFpol t.sched

/-- Successors: the state, whether a list that had to be decremented failed its check, and the tasks that a cascade cancels. -/
def State.successors (s : State) (t : Task) (policy : Nat) : State × Bool × List Nat :=
  match policy with
  | 1 =>
    match s.readSuccs t with
    | (s1, none) => (s1, true, [])
    | (s1, some l) => (l.foldl (fun u a => u.decSucc t a) s1, false, [])
  | 2 => let (s1, js) := s.cascadeKids t; (s1, false, js)
  | _ => (s, false, [])

/-- The journal entry of an ended task (R57, R359). -/
def State.taskOutcome (s : State) (id : Nat) (t : Task) (res cause : Nat) : State :=
  match t.queue with
  | none => s
  | some (q, seq) =>
    if q == 0xFFF && !t.tcb.tag then
      let (w, s1) := s.drawWord
      s1.journalRaw 0xFFF 0 1 0 res 1 id (w.toNat % 2 ^ 32) t.vd cause
    else s.outcome q seq res cause

/-- A bound TCB after a run (R74): its next run, or ARMED, or UNLAUNCHED once an unbind has taken its binding (R64, R286). -/
def State.nextRun (s : State) (id : Nat) (t : Task) : State :=
  let left := t.runs - 1
  let t1 := { t with runs := left, ordinal := t.ordinal + 1, members := [], retired := [], captured := [], saves := [], cancel := false,
                     crossed := false, walked := false, left := [], fate := 0, fcause := 0, grace := none, halted := false }
  if left > 0 then (s.putTask id t1).makeReady id
  else if t.unbind then
    let s1 := s.writeState t1 .unlaunched
    { s1 with tasks := AMap.del s1.tasks id }
  else (s.putTask id t1).taskState id .armed

/-- A task, or the run of a bound TCB, ends: its regions become idle, OUTC and STATE are written, its successors are treated, and the
outcome is journaled. The tasks that a cascade cancels are returned (R66, R67, R69, R71 to R74, R81, R87, R374). -/
def State.endTask (s : State) (id : Nat) (e : Ending) : State × List Nat :=
  match s.task id with
  | none => (s, [])
  | some t =>
    let tiles := s.tilesOf t
    let s1 := (s.freeRegions t.members).onVd t.vd (·.forget id)
    let s2 := match s1.sibOf id t with
      | some (h, i) => if e.fate ≥ 3 then s1.releaseSib h i else s1
      | none => s1
    let u := s2.onOutc t (outcWith t.queue.isNone e.res e.cause)
    let s3 := if t.queue.isNone then u else u.writeState t e.st
    let (s4, bad, js) := s3.successors t (t.policy e)
    let (res, cause) := if bad then (resFault, 0x93) else (e.res, e.cause)
    let s5 := if bad then s4.onOutc t (outcWith false res cause) else s4
    let s6 := if t.queue.isNone then s5.nextRun id t else
      let u := s5.taskOutcome id t res cause
      { u with tasks := AMap.del u.tasks id }
    match s1.sibOf id t with
    | some (h, i) => (s6.sibFinal h i e.fate tiles, js)
    | none => (s6, js)

/-! ### Stores that are not done (R66, R72, R131) -/

/-- A request that stores, and so is waited for when a task ends; the others read or wait (R66, R72, R131). -/
def Act.stores : Act → Bool
  | .read _ => false
  | .readFe _ _ => false
  | .capRead => false
  | .waitv _ => false
  | .barWait _ => false
  | .batonAcq _ _ => false
  | .derived _ _ => false
  | .dsync _ => false
  | _ => true

/-- A ring store that waits at its port for an empty granule (R319). -/
def Req.waitsEmpty (q : Req) : Bool :=
  q.stage == .pq && match q.act with | .write _ fe => fe == .waitEmpty | _ => false

/-- Every store, atomic and reduction of region r has reached its port, with its reports and link completions back (R72). -/
def State.settled (s : State) (r : Nat) : Bool :=
  s.reqs.all (fun q => !q.owners.any (fun o => ofRegion r o.1) || !q.act.stores || q.waitsEmpty) &&
    s.resps.all (fun q => !ofRegion r q.issuer || (q.cause.isNone && !q.flag))

/-- A store, atomic or reduction of a task that has not been applied: one that its regions rs have made since its dispatch, or one that it has left behind
(R66). -/
def Req.owedBy (q : Req) (t : Task) (rs : List Nat) : Bool :=
  q.act.stores && (t.left.contains q.stamp || q.owners.any (fun o => o.2 ≥ t.from_ && rs.any (fun r => ofRegion r o.1)))

/-- Every store, atomic and reduction of a task, as far as its regions rs go, has been applied, as for a release at SYS scope (R66 step 1, R166). -/
def State.applied (s : State) (t : Task) (rs : List Nat) : Bool := rs.all s.settled && !s.reqs.any (·.owedBy t rs)

/-- The stores of a task that ends with a fate keep it from ending: they have not reached their ports, or, where its successors are released, have not
been applied (R66, R67, R72). -/
def State.holdsBack (s : State) (t : Task) (fate : Nat) : Bool :=
  if t.policy { fate := fate, res := 0, cause := 0, quiet := false } == 1 then !s.applied t t.members else !t.members.all s.settled

/-- A frozen task that a cancel ends is given up by the Marshal and ends once its stores have been applied (R66, R67, R71). -/
def State.endLater (s : State) (id : Nat) (t : Task) : State :=
  (({ s with cancelledAt := some s.now } : State).onVd t.vd (·.forget id)).putTask id
    { t with runs := min t.runs 1, crossed := false, fate := 7, fcause := 0 }

/-! ### Cancels (R71, R84) -/

/-- A sibling's record of the state at its cancel's commit (R88). -/
def State.noteCancel (s : State) (id : Nat) (t : Task) : State :=
  match s.sibOf id t with
  | some (h, i) => s.onSib h i (fun b => { b with tstate := t.st.code })
  | none => s

/-- A RUNNING task becomes CANCELLING (R64); a triggered run has no such state. -/
def State.enterCancelling (s : State) (id : Nat) : State :=
  match s.task id with
  | none => s
  | some t => if t.st == .running then s.taskState id .cancelling else s

/-- A running cancel is pending with the Marshal. A bound TCB loses the runs that it has queued (R71, R74); a cancel that was pending already
stands. -/
def Task.pendCancel (t : Task) (c : Cancel) : Task :=
  if t.cancel then t else { t with cancel := true, crossed := t.since == c.at_, grace := c.grace, runs := min t.runs 1 }

/-- The running cancel of a task (R71, R72): it reaches the task's regions at once. -/
def State.runningCancel (s : State) (t : Task) (c : Cancel) : State :=
  let s2 := (s.putTask c.task (t.pendCancel c)).enterCancelling c.task
  t.members.foldl (fun u r => u.onRegion r (fun g => { g with cancelAt := some s.now })) s2

/-- A cancel comes to the arbiter: the state, and the tasks that a cascade cancels in turn. A frozen task ends at once, or, where its successors are released,
once the stores that it has left have been applied. Where its task's dispatch was committed in this fc, it is a running cancel from now on and reaches the
regions in a later fc; where its task might still be dispatched, the fc is noted, and the Marshal dispatches nothing more in it (R71, log 78). A bound TCB's
queued runs are discarded with the run that the cancel ends (R74). -/
def State.cancelOne (s : State) (c : Cancel) : State × List Nat :=
  match s.task c.task with
  | none => (s, [])
  | some t =>
    let s1 := s.noteCancel c.task t
    let ended := fun (fate : Nat) =>
      (({ s1 with cancelledAt := some s.now } : State).putTask c.task { t with runs := min t.runs 1 }).endTask c.task { fate := fate, res := resCancelled, cause := 0, quiet := false }
    let crossing := t.cancel && c.at_ == t.since
    let running := fun (_ : Unit) =>
      if t.fate != 0 || (t.cancel && !crossing) then s
      else if t.since ≥ s.now then
        if t.cancel then s else ({ s with cancels := s.cancels ++ [{ c with casc := false }] } : State).putTask c.task (t.pendCancel c)
      else s1.runningCancel t c
    match t.st with
    | .waiting => ended 3
    | .ready => ended 3
    | .frozen => if crossing || t.fate != 0 then (s, []) else if s.holdsBack t 7 then (s1.endLater c.task t, []) else ended 7
    | .running => (running (), [])
    | .runningTrig => (running (), [])
    | _ => (s, [])

/-- Cancels of a list, and the cascades they start; each list is walked once, by the cascade or by the task's own FPOL (R67, R71). seen: the
tasks whose lists have been walked. An ARMED TCB has no run that a cancel could end, so its later runs treat their successors themselves (R74). -/
def State.cancelAll (s : State) : Nat → List Nat → List Cancel → State
  | 0, _, _ => s
  | _, _, [] => s
  | fuel + 1, seen, c :: rest =>
    match s.task c.task with
    | none => s.cancelAll fuel seen rest
    | some t =>
      let walks := c.casc && !seen.contains c.task
      let (s1, kids) := if walks then
          let (u, ks) := s.cascadeKids t
          (if t.st == .armed then u else u.onTask c.task (fun x => { x with walked := true }), ks)
        else (s, [])
      let (s2, more) := s1.cancelOne c
      s2.cancelAll fuel (if walks then c.task :: seen else seen) (rest ++ (kids ++ more).map (fun j => { task := j, at_ := s.now, grace := none, casc := true }))

def cascadeFuel : Nat := 2 ^ 24

/-- The tasks of a cascade. -/
def State.cascade (s : State) (js : List Nat) : State :=
  s.cancelAll cascadeFuel [] (js.map (fun j => { task := j, at_ := s.now, grace := none, casc := true }))

/-- A cancel from a packet or a TASK.CANCEL. -/
def State.cancelTask (s : State) (id : Nat) : State := s.cancelAll cascadeFuel [] [{ task := id, at_ := s.now, grace := none, casc := false }]

/-- A task ends, with the cascade that follows. -/
def State.finishTask (s : State) (id : Nat) (e : Ending) : State := let (s1, js) := s.endTask id e; s1.cascade js

/-- The outcome code of a task that ends with a fate. -/
def Task.resFor (t : Task) : Nat :=
  if t.fate == 1 then resOk else if t.fate == 2 then resFault else if t.crossed then resCrossed else resCancelled

/-- A task that is to end does so once its stores have reached their ports, and have been applied where its successors are released (R66, R67,
R72). -/
def State.tryEnd (s : State) (id : Nat) : State :=
  match s.task id with
  | none => s
  | some t =>
    if t.fate == 0 || s.holdsBack t t.fate then s
    else s.finishTask id { fate := t.fate, res := t.resFor, cause := t.fcause, quiet := false }

/-- Frozen tasks that are to end do so once nothing holds them back (R66, R67). -/
def State.endFrozen (s : State) : State :=
  (s.tasks.filter (fun p => p.2.fate != 0 && p.2.members.isEmpty)).foldl (fun u p => u.tryEnd p.1) s

/-- The cancels that arrived in an earlier fc are committed (R71), and frozen tasks that an earlier cancel ends do so where they may. -/
def State.commitCancels (s : State) : State :=
  let due := s.cancels.filter (fun c => c.at_ < s.now)
  (if due.isEmpty then s else ({ s with cancels := s.cancels.filter (fun c => c.at_ ≥ s.now) } : State).cancelAll cascadeFuel [] due).endFrozen

/-- A cancel names a task of virtual device vd that is not final: else NOTFOUND (R45, R285). -/
def State.cancellable (s : State) (vd id : Nat) : Bool :=
  match s.task id with
  | some t => t.vd == vd && !t.st.final
  | none => false

/-- The Podium's cancels of a heat's siblings (R81, R84, R89). -/
def State.cancelSiblings (s : State) (h : Nat) (is : List Nat) : State :=
  match s.heat h with
  | none => s
  | some x =>
    (s.cancelSlots h is).cancelAll cascadeFuel []
      (is.filterMap (fun i => (x.sib i).taskId.map (fun id => { task := id, at_ := s.now, grace := some (h, x.grace), casc := false })))

/-! ### Stopping a region (R72, R131) -/

/-- The acquirers of region r leave the FIFO of a baton (R131). -/
def State.leaveBaton (s : State) (b : Baton) (r : Nat) : State :=
  let stay := b.fifo.filter (fun q => q.issuer != .pacer r)
  if stay.length == b.fifo.length then s
  else
    let k := 16 * b.key
    let s1 := match s.setObj k (s.w0 k) (s.w1 k - (b.fifo.length - stay.length)) (isHbm k && NSet.has s.merge (k / 2048)) with
      | .ok t => t
      | .error _ => s
    { s1 with batons := s1.batons.map (fun x => if x.key == b.key then { x with fifo := stay } else x) }

/-- The request of an abandoned instruction, which goes on through the ordering machine with no effect at its port (R131, R181): one that would
wait there, or take what it finds, reads instead. -/
def Act.idle : Act → Act
  | .readFe n _ => .read n
  | .waitv _ => .read 8
  | .barWait _ => .read 16
  | .batonAcq _ _ => .read 16
  | a => a

/-- The requests whose responses a Pacer still waits for. -/
def Wait.due : Wait → List Nat
  | .resp _ ids got => ids.filter (fun i => !got.any (fun p => p.1 == i))
  | _ => []

/-- The waiting instruction of region r's Pacer is given up: its place in a baton's FIFO is free, none of its requests leaves the ordering machine,
and its responses are discarded when they arrive (R131, R181). -/
def State.abandon (s : State) (r : Nat) : State :=
  let ids := (s.region r).wait.due
  let queued := ids.filter (fun i => s.batons.any (fun b => b.fifo.any (fun q => q.stamp == i)))
  let s1 := s.batons.foldl (fun t b => t.leaveBaton b r) s
  ({ s1 with
    reqs := s1.reqs.map (fun q => if ids.contains q.stamp then { q with act := q.act.idle } else q),
    dropped := s1.dropped ++ ids.filter (fun i => !queued.contains i) } : State).onRegion r (fun g => { g with wait := .none })

/-- The instruction at which region r's Pacer waits has made no transaction yet (R131, R256). -/
def State.mayAbandon (s : State) (r : Nat) : Bool :=
  match (s.region r).wait with
  | .resp c ids _ =>
    !c.isHeld || ids.all (fun i =>
      s.reqs.any (fun q => q.stamp == i && match q.act with | .readFe _ _ => true | .batonAcq _ _ => true | _ => false) ||
        s.batons.any (fun b => b.fifo.any (fun q => q.stamp == i)))
  | _ => true

/-- The Pacer stands and the Field is frozen from now on; what a save area shows of that moment is kept: CYC and FLTPEND (R131, R132). -/
def Region.stopAt (g : Region) (now : Nat) : Region :=
  { g with run := .stopped, frozen := true, haltedAt := some (now - g.resetAt, g.pacer.fltpend) }

/-- A region whose task is about to end stops (R69, R72). -/
def State.haltRegion (s : State) (r : Nat) : State :=
  (if s.mayAbandon r then s.abandon r else s).onRegion r (fun g => { g.stopAt s.now with stop := none })

/-- A task stops, to end with a fate; a cancelled one is CANCELLING until it has ended (R64). -/
def State.endSoon (s : State) (id fate cause : Nat) : State :=
  match s.task id with
  | none => s
  | some t =>
    if t.fate != 0 then s
    else
      let s1 := s.onTask id (fun u => { u with fate := fate, fcause := cause })
      (t.members.foldl State.haltRegion (if fate ≥ 3 then s1.enterCancelling id else s1)).tryEnd id

/-- The task of region r has a cancel that waits for a cancellation point. -/
def State.cancelPending (s : State) (r : Nat) : Bool :=
  match (s.region r).task.bind s.task with
  | some t => t.cancel && t.fate == 0
  | none => false

/-- A cancellation point of region r's task (R72, R88). -/
def State.cancelPoint (s : State) (r fate : Nat) : State :=
  match (s.region r).task with
  | some id => if s.cancelPending r then s.endSoon id fate 0 else s
  | none => s

end Sys2Proof.Machine
end

