-- ==== Sys2Proof/Machine/Context.lean ====
section
/-! DEFINITION. A region's context: the launch clear (R69, R74, R133), capture into a save area, and restore from one (R131, R132, R252,
R291, R359). -/

namespace Sys2Proof.Machine

open Sys2Proof

/-! ### Launch (R69, R74, R133) -/

/-- The X registers at a launch: the arguments in x10 to x13, rank or ordinal in x14, gang size in x15. -/
def launchX (args : List Word) (x14 x15 : Word) : Vector Word 32 :=
  Vector.ofFn (fun i => if 10 ≤ i.val && i.val ≤ 13 then args.getD (i.val - 10) 0 else if i.val == 14 then x14 else if i.val == 15 then x15 else 0)

def launchC (c1 c2 : Cap) : Vector Cap 16 := Vector.ofFn (fun i => if i.val == 1 then c1 else if i.val == 2 then c2 else Cap.null)

/-- The Pacer at a launch: every register but those of R69 and R74 reads zero, the supervisor's at 0x010 to 0x01F among them (R96, R133;
log 26). -/
def Pacer.launch (t : Task) (id rank cyc : Nat) : Pacer :=
  let run := t.queue.isNone
  { Pacer.reset with
    x := launchX t.args (BitVec.ofNat 64 (if run then t.ordinal else rank)) (BitVec.ofNat 64 (if run then 1 else t.gang)),
    c := launchC t.c1 t.c2, pcc := t.entry, mode := false, taskid := BitVec.ofNat 64 id, dcyc := BitVec.ofNat 64 cyc }

/-- Stamps that a captured Field waits for: granule reads and engine requests in flight. -/
def Region.stamps (g : Region) : List Nat :=
  g.engines.flatMap (fun e => e.2.fetches.flatMap (·.ids) ++ ((e.2.round.bind (·.look)).map (·.ids)).getD [] ++ e.2.ers.map (·.stamp)) ++
    g.insts.flatMap (fun i => i.elems.filterMap (fun x => match x.cnt.getD 2 0 with | 0 => none | n => some (n - 1)))

/-- The launch clear of region r, and the start of task id there with a rank; what the Field of an ended task still waited for is discarded when it
arrives (R131, R133). -/
def State.launchRegion (s : State) (r id rank : Nat) (t : Task) : State :=
  ({ s with dropped := s.dropped ++ (s.region r).stamps.filter (fun i =>
      !s.images.any (fun p => p.2.stamps.contains i) && (s.reqs.any (fun q => q.stamp == i) || s.resps.any (fun q => q.stamp == i))) } : State).onRegion r
    (fun g =>
    { Region.reset with resetAt := g.resetAt, run := .on, task := some id, rank := rank, pacer := Pacer.launch t id rank (s.now - g.resetAt) })

/-! ### Capture (R132) -/

def saveMagic : Nat := 0xC75A0E01
def saveSize : Nat := 2 ^ 20

/-- Tag bits of C0 to C15 and of PCC. -/
def Pacer.tagWord (p : Pacer) : Nat :=
  (List.range 16).foldl (fun n i => if (p.c.toList.getD i Cap.null).tag && i != 0 then n + 2 ^ i else n) (if p.pcc.tag then 2 ^ 16 else 0)

/-- The save area's bytes 0 to 0x3FF; RUNCYC and PEND are those of the stop. -/
def State.saveHeader (s : State) (r : Nat) (reason : Byte) (sched affinity len crc : Nat) (ctl : List Byte) : List Byte :=
  let g := s.region r
  let p := g.pacer
  let (cyc, flt) := g.haltedAt.getD (s.cycOf r, p.fltpend)
  let z := fun (n : Nat) => List.replicate n (0 : Byte)
  leBytes 4 saveMagic ++ leBytes 2 1 ++ leBytes 2 ((if p.mode then 1 else 0) + (if g.snap.status == .pending then 2 else 0)) ++
    leBytes 4 p.taskid.toNat ++ leBytes 1 ((s.vdOf r).getD 0) ++ [reason] ++ leBytes 1 r ++ z 1 ++
    leBytes 8 p.pcc.cursor.toNat ++ leBytes 8 (BitVec.ofNat 64 cyc - p.dcyc).toNat ++ leBytes 8 p.fpmode.toNat ++
    leBytes 8 flt.toNat ++ leBytes 4 len ++ leBytes 4 crc ++ leBytes 8 sched ++ p.pcc.bytes ++ leBytes 4 p.tagWord ++
    leBytes 1 p.kValid.toNat ++ z 11 ++ p.k.toList.flatMap (fun v => leBytes 8 v.toNat) ++ leBytes 32 affinity ++ z 64 ++
    (List.range 32).flatMap (fun i => leBytes 8 (p.rx (BitVec.ofNat 5 i)).toNat) ++
    (List.range 16).flatMap (fun i => (p.rc (BitVec.ofNat 4 i)).bytes) ++ ctl

/-- The number of the i-th image that module m makes; below 2^128, no two of them are the same (log 10). -/
def imageKey (m i : Nat) : Nat := i * 2 ^ 64 + m % 2 ^ 64

/-- The bytes of Field image n: 16 bytes of its own, then others (log 10). -/
def imageBytes (n : Nat) : List Byte :=
  leBytes 16 ((Config.imageTag + n) % 2 ^ 128) ++ (List.range (Config.imageLen n % 0xEFFF1)).map (Config.imageByte n)

/-- The number of the next image of this module. -/
def State.freshImage (s : State) : Nat := imageKey s.module (s.images.foldl (fun m p => max m (p.1 / 2 ^ 64 + 1)) 0)

/-- Another module has made the i-th of its images, that of a Field that waits for nothing (log 10). -/
def State.foreignImage (s : State) (m i : Nat) (g : Region) : State :=
  if g.stamps.isEmpty && m % 2 ^ 64 != s.module % 2 ^ 64 && (AMap.find s.images (imageKey m i)).isNone then
    { s with images := AMap.put s.images (imageKey m i) { g with pend := none, wait := .none, stop := none } }
  else s

/-- The 1 MiB at an SRAM key take a header and an image, zeros elsewhere, as stores of whole granules. -/
def State.putSave (s : State) (k : Nat) (header image : List Byte) : State :=
  let hi := k + saveSize
  let all := header ++ List.replicate (0x10000 - header.length) 0 ++ image ++ List.replicate (saveSize - 0x10000 - image.length) 0
  let s1 := if s.decls.isEmpty then s else
    (List.range 65536).foldl (fun t i => t.maintain (k + 16 * i) ((all.drop (16 * i)).take 16)) s
  let s2 := { s1 with
    mem := Memory.setBytes (Memory.setBytes (Memory.clear s1.mem k hi) k header) (k + 0x10000) image,
    tags := NSet.delRange s1.tags (k / 16) (hi / 16), bad := NSet.delRange s1.bad (k / 16) (hi / 16),
    badMeta := NSet.delRange s1.badMeta (k / 16) (hi / 16) }
  { s2 with regions := AMap.mapV s2.regions (fun g => match g.wait with
      | .monitor m => if k / 16 ≤ m && m < hi / 16 then { g with wait := .none } else g
      | _ => g) }

/-- FCAP: the context of region r into the save area at SRAM address base; 0xA5 where it cannot be written (R122, R132, R143). -/
def State.capture (s : State) (r base : Nat) : Except Byte State :=
  let k := sramKey base
  if base + saveSize > 2 ^ 32 || s.live.any (fun g => decide (k / 16 ≤ g) && decide (g < (k + saveSize) / 16)) then .error 0xA5
  else
    let g := s.region r
    let n := s.freshImage
    let img := imageBytes n
    let (ctl, s1) := s.drawBytes 256
    let t := s.task (g.pacer.taskid.toNat % 2 ^ 32)
    let header := s1.saveHeader r (g.stop.getD 0) ((t.map (fun t => t.sched.toNat)).getD 0) ((t.map (fun t => t.affinity.toNat)).getD 0)
      img.length (crc32 img) ctl
    let s2 := s1.putSave k header img
    .ok { s2 with images := AMap.put s2.images n { g with wait := .none, stop := none } }

/-! ### Restore (R132, R252, R291) -/

/-- The region whose Field an image holds: the one that FCAP wrote here or on another module of this kind, or bytes that no module has written (log
10). What is pending comes from the save area's PEND. -/
def State.imageRegion (s : State) (bs : List Byte) : Region :=
  match (s.images.find? (fun p => imageBytes p.1 == bs)).map (·.2) with
  | some g => g
  | none => { Config.imageOf bs with pend := none, faulted := false }

/-- The Pacer from a save area's first 0x400 bytes. -/
def Pacer.restore (p : Pacer) (bs : List Byte) (cyc : Nat) : Pacer :=
  let w := fun (o : Nat) => BitVec.ofNat 64 (fieldLe bs o 8)
  let tags := fieldLe bs 0x50 4
  let m := (fieldLe bs 6 2).testBit 0
  { p with
    x := Vector.ofFn (fun i => w (0x100 + 8 * i.val)),
    c := Vector.ofFn (fun i => Cap.ofBytes (sliceOf bs (0x200 + 16 * i.val) 16) (tags.testBit i.val)),
    k := Vector.ofFn (fun i => w (0x60 + 8 * i.val)), kValid := BitVec.ofNat 8 (fieldLe bs 0x54 1),
    pcc := (Cap.ofBytes (sliceOf bs 0x40 16) (tags.testBit 16)).withCursor (w 0x10),
    mask := false, pmode := m, mode := m, fpmode := w 0x20 &&& fpmodeMask, taskid := BitVec.ofNat 64 (fieldLe bs 8 4), dcyc := BitVec.ofNat 64 cyc,
    fltpend := w 0x28 &&& 0xFFFF00000000FF01, ev := 3 }

/-- FLTPEND shows whether a fault of the restored region is pending: one that the save area's PEND holds, or one that has reached the saved Field
since (R126, R127, R215). One of a Field or an engine has frozen the Field (R127). -/
def Region.pendRestored (g : Region) : Region :=
  match g.pend with
  | some f => if g.pacer.fltpend.getLsbD 0 then g else { g with pacer := { g.pacer with fltpend := fltWord f.cause f.tval } }
  | none =>
    if g.pacer.fltpend.getLsbD 0 then
      let c : Byte := (g.pacer.fltpend >>> 8).setWidth 8
      { g with pend := some { cause := c, tval := g.pacer.fltpend >>> 48, multi := false, elem := none },
               faulted := g.faulted || c.toNat / 16 == 5 || c.toNat / 16 == 6 }
    else g

/-- An issuer of a Field, moved to another region. -/
def Issuer.moved (r : Nat) : Issuer → Issuer
  | .engine _ k se => .engine r k se
  | .elem _ k e => .elem r k e
  | i => i

/-- An acquire that waits for its baton asks for the region to which its task has moved (R336). -/
def Act.heldBy (r : Nat) : Act → Act
  | .batonAcq _ t => .batonAcq r t
  | a => a

/-- FRST: region r takes the context of the save area at SRAM address base; 0xA6 where a check fails (R132). Its capabilities, slots and
entry queues are as they were, every block is non-resident and the instruction cache is empty; a snapshot that is not pending is none of this
region's (R267). -/
def State.restore (s : State) (r base : Nat) : Except Byte State :=
  let k := sramKey base
  let bs := s.rd k 0x400
  let len := fieldLe bs 0x30 4
  if base + saveSize > 2 ^ 32 || s.anyBad k 0x400 || fieldLe bs 0 4 != saveMagic || fieldLe bs 4 2 != 1 ||
      some (fieldLe bs 0xC 1) != s.vdOf r || len > 0xF0000 || s.anyBad (k + 0x10000) len then .error 0xA6
  else
    let img := s.rd (k + 0x10000) len
    if crc32 img != fieldLe bs 0x34 4 then .error 0xA6
    else
      let old := s.region r
      let g := s.imageRegion img
      let ids := g.stamps
      let from_ := fieldLe bs 0xE 1
      let h := Region.pendRestored { g with
        snap := { g.snap with status := if g.snap.status == .pending then .pending else .none },
        pacer := old.pacer.restore bs (s.cycOf r), run := .on, wait := .none, resetAt := old.resetAt, task := none, stop := none,
        frozeAt := none, haltedAt := none, cancelAt := none, icache := [], slots := AMap.mapV g.slots (fun x => { x with block := none }), skipBrk := false,
        stepDue := false, dataBrk := none }
      let s1 := s.setRegion r { h with frozen := h.faulted }
      let move := fun (q : Req) => if ofRegion from_ q.issuer && ids.contains q.stamp then { q with issuer := q.issuer.moved r, act := q.act.heldBy r } else q
      .ok { s1 with
        reqs := s1.reqs.map move,
        batons := s1.batons.map (fun b => { b with fifo := b.fifo.map move }),
        resps := s1.resps.map (fun q => if ofRegion from_ q.issuer && ids.contains q.stamp then { q with issuer := q.issuer.moved r } else q) }

end Sys2Proof.Machine
end

