-- ==== Sys2Proof/Machine/Fetch.lean ====
section
/-! DEFINITION. Fetching an instruction (R97, R203, R207): the checks of the fetch cursor and capability, the instruction cache, and the
words of an instruction. -/

namespace Sys2Proof.Machine

open Sys2Proof

/-- The word of a cached line at a key. -/
def lineWord (line : List Byte) (k : Nat) : Nat := leNat (sliceOf line (k % 64) 4)

/-- The instruction cache after a line is read (R97, log 4): 512 lines; a full cache is emptied first. A line with an uncorrectable granule is
not kept, so that each fetch of a word of it is checked (R207). -/
def State.fillLine (s : State) (k : Nat) : State :=
  if s.icacheOn && !s.anyBad (k / 64 * 64) 64 then
    s.onReg (fun g => { g with icache := AMap.put (if g.icache.length ≥ 512 then [] else g.icache) (k / 64) (s.rd (k / 64 * 64) 64) })
  else s

/-- The word at a fetch cursor: checks 1 to 4 of R207, or the cause and TVAL. Code lies in SLICE, SRAM and HBM. -/
def State.fetchWord (s : State) (c : Cap) (a : Word) : Except (Byte × Word) (State × Nat) :=
  if a.toNat % 4 != 0 then .error (0x09, a)
  else
    match c.check a.toNat 4 permExec kindExec with
    | .error f => .error (f, a)
    | .ok (sp, x) =>
      if !memSpaces.contains sp then .error (0x1A, a)
      else
        match s.keyOf s.cur s.vd s.sup sp x 4 Use.exec 0x34 with
        | .error f => .error (f, a)
        | .ok (k, _) =>
          match if s.icacheOn then AMap.find s.reg.icache (k / 64) else none with
          | some line => .ok (s, lineWord line k)
          | none =>
            if s.anyBad k 4 then .error (class3 k 0, a)
            else .ok ((s.walked sp x 4).fillLine k, leNat (s.rd k 4))

/-- The instruction at the current region's PC, or the cause and TVAL of the first failing check of R207. The second word of an L pair is
fetched after the first has been decoded. -/
def State.fetch (s : State) : Except (Byte × Word) (State × Instr) :=
  match s.fetchWord s.reg.pacer.pcc s.pc with
  | .error e => .error e
  | .ok (s1, w) =>
    match decodeFirst w with
    | .bad f => .error (f, BitVec.ofNat 64 w)
    | .one i => .ok (s1, i)
    | .limm d =>
      match s1.fetchWord s1.reg.pacer.pcc (s1.pc + 4) with
      | .error e => .error e
      | .ok (s2, v) => .ok (s2, .limm d (BitVec.ofNat 32 v))

/-- FETCH_AND_DECODE_FAULT (R207): the fetch at PC fails with its cause. A fetch that succeeds leaves the machine as it is. -/
def execFetchAndDecodeFault (cause : Byte) (tval : Word) (s : State) : Out :=
  match s.fetch with
  | .error (f, v) => if f == cause && v == tval then s.fail f v else .next s
  | .ok _ => .next s

end Sys2Proof.Machine
end

