-- ==== Sys2Proof/Machine/Marshal.lean ====
section
/-! DEFINITION. The Marshal at work: dispatch and gang holds (R68, R69), pre-emption (R70), stops and freezes (R72, R77, R84, R131), the
disposal of traps (R124, R125), pending faults (R127, R129), and the stop and restart of a virtual device (R54, R77). -/

namespace Sys2Proof.Machine

open Sys2Proof

/-! ### Regions for a task (R68, R69) -/

def Vd.regions (d : Vd) : List Nat := (List.range 256).filter (fun r => d.groups.getLsbD (r / 8))

/-- The regions of the virtual device that AFFINITY allows; for a task from another module any region where it allows none (R60, R359). -/
def State.allowed (s : State) (t : Task) : List Nat :=
  match AMap.find s.vds t.vd with
  | none => []
  | some d =>
    let al := d.regions.filter (fun r => t.affinity == 0 || t.affinity.getLsbD r)
    if al.isEmpty && !t.tcb.tag then d.regions else al

/-- The regions that a hold of another task reserves. A pre-emption's reservation is a hold of its task too (R70). -/
def reservedFor (id : Nat) : Option Hold → List Nat
  | some h => if h.task == id then [] else h.regions
  | none => []

/-- The idle regions that a task may take, in rising order. -/
def State.idleFor (s : State) (id : Nat) (t : Task) : List Nat :=
  match AMap.find s.vds t.vd with
  | none => []
  | some d =>
    let kept := reservedFor id d.hold ++ d.pre.flatMap (fun h => reservedFor id (some h))
    (s.allowed t).filter (fun r => (s.region r).task.isNone && (s.region r).run != .reset && !kept.contains r)

def State.dispatchable (s : State) (id : Nat) : Bool :=
  match s.task id with
  | some t => (s.idleFor id t).length ≥ t.gang
  | none => false

/-- The first dispatchable task among the first eight of a list. -/
def State.pickOf (s : State) (l : List Nat) : Option Nat := (l.take 8).find? s.dispatchable

/-! ### Gang holds (R69) -/

/-- The place of a task among those of its virtual device: its priority, then its place in its list. -/
def State.placeOf (s : State) (d : Vd) (id : Nat) : Nat × Nat :=
  match s.task id with
  | some t => (schedPrio t.sched, (d.list (schedPrio t.sched)).idxOf id)
  | none => (8, 0)

/-- One task comes before another: in a higher priority, or earlier in the same list (R68). -/
def State.before (s : State) (d : Vd) (a b : Nat) : Bool :=
  let p := s.placeOf d a
  let q := s.placeOf d b
  p.1 < q.1 || (p.1 == q.1 && p.2 < q.2)

/-- A virtual device without the reservations of the tasks that come after a task. -/
def State.yieldTo (s : State) (d : Vd) (id : Nat) : Vd :=
  let keep := fun (h : Hold) => !s.before d id h.task
  { d with hold := d.hold.filter keep,
           pre := (d.pre.map (fun h => if keep h then h else { h with regions := [] })).filter (fun h => !h.regions.isEmpty || !h.victims.isEmpty) }

/-- Reservations give way where each would otherwise wait for the other's regions (R70, R75, log 71): a task that holds a reservation, and that
could be dispatched but for the reservations of tasks that come after it, takes their place. -/
def State.unlock (s : State) (v : Nat) : State :=
  match AMap.find s.vds v with
  | none => s
  | some d =>
    let stuck := fun (h : Hold) => match s.task h.task with
      | some t => (t.st == .ready || t.st == .frozen) && !s.dispatchable h.task &&
          (({ s with vds := AMap.put s.vds v (s.yieldTo d h.task) } : State)).dispatchable h.task
      | none => false
    match (d.hold.toList ++ d.pre).find? stuck with
    | some h => s.onVd v (fun d => s.yieldTo d h.task)
    | none => s

/-- A hold reserves the idle regions allowed to its gang; one whose task waits no more is gone (R69). -/
def State.growHold (s : State) (v : Nat) : State :=
  match (AMap.find s.vds v).bind (·.hold) with
  | none => s
  | some h =>
    match s.task h.task with
    | none => s.onVd v (fun d => { d with hold := none })
    | some t =>
      let more := (s.idleFor h.task t).filter (fun r => !h.regions.contains r)
      s.onVd v (fun d => { d with hold := if t.st == .ready || t.st == .frozen then some { h with regions := (h.regions ++ more).take t.gang } else none })

/-- Where a virtual device has no hold, the first gang that heads its list and cannot be dispatched gets one (R69). -/
def State.placeHold (s : State) (v : Nat) : State :=
  match AMap.find s.vds v with
  | none => s
  | some d =>
    let gang := fun (id : Nat) => match s.task id with | some t => t.gang > 1 && !s.dispatchable id | none => false
    match d.hold, (d.ready.filterMap List.head?).find? gang with
    | none, some id => (s.onVd v (fun d => { d with hold := some { task := id, regions := [], victims := [] } })).growHold v
    | _, _ => s

/-! ### Dispatch (R68, R69, R77) -/

/-- The state of a task that has been dispatched; a running cancel that it kept while it was frozen stays pending (R64, R77). -/
def Task.running (t : Task) : TaskState := if t.queue.isNone then .runningTrig else .running

/-- The members' contexts restored on regions by rank; 0xA6 where a save area is invalid (R68, R132). -/
def State.restoreAll (s : State) (id : Nat) (t : Task) : List (Nat × Nat) → Except Byte State
  | [] => .ok s
  | (k, r) :: rest =>
    match s.restore r (t.saves.getD k 0) with
    | .error f => .error f
    | .ok s1 =>
      (s1.onRegion r (fun g => { g with
        task := some id, rank := k, run := if t.retired.contains k then .off else .on,
        cancelAt := if t.cancel then some s.now else none })).restoreAll id t rest

/-- A task is bound to regions, in rising order; where the launch clear of one fails it ends with 0xAD (R124, R134). LASTRGN of a gang is its lowest
region (the model's choice, log 71). -/
def State.bind (s : State) (id : Nat) (rs : List Nat) : State :=
  match s.task id with
  | none => s
  | some t =>
    let frozen := t.st == .frozen
    let t1 := { t with st := t.running, members := rs, since := s.now, from_ := s.stamp, captured := [], halted := false, retired := if frozen then t.retired else [] }
    let s1 := (s.onVd t.vd (·.forget id)).putTask id t1
    let s2 := (s1.onOutc t (fun w => w - bitsOf w 16 8 * 65536 + rs.headD 0 * 65536)).writeState t t.running
    let ranked := (List.range rs.length).zip rs
    if frozen then
      match s2.restoreAll id t1 ranked with
      | .ok s3 => s3
      | .error f =>
        (rs.foldl (fun u r => u.onRegion r (fun g => { g.stopAt s.now with task := some id, stop := none })) s2).endSoon id 2 f.toNat
    else
      match rs.filter s.clearBad.contains with
      | [] => ranked.foldl (fun u p => u.launchRegion p.2 id p.1 t1) s2
      | failed =>
        (rs.foldl (fun u r => u.onRegion r (fun g => { g.stopAt s.now with task := some id, stop := none }))
          (failed.foldl State.clearFailed s2)).endSoon id 2 0xAD

/-- The choice of R68 for a virtual device: the priority, whether the aging rule made it, and the task. Of two lists whose counts have reached 32 the
one of higher priority goes first (the model's choice, log 71). -/
def State.choice (s : State) (d : Vd) : Option (Nat × Bool × Nat) :=
  let picks := (List.range 8).filterMap (fun p => (s.pickOf (d.list p)).map (fun id => (p, id)))
  match picks.find? (fun c => d.aging.getD c.1 0 ≥ 32) with
  | some c => some (c.1, true, c.2)
  | none => picks.head?.map (fun c => (c.1, false, c.2))

/-- The aging counts after a dispatch from priority p (R68). -/
def State.aged (s : State) (d : Vd) (p : Nat) (rule : Bool) : List Nat :=
  (List.range 8).map (fun q =>
    let n := d.aging.getD q 0
    if q == p then (if rule then 0 else n) else if q > p && (s.pickOf (d.list q)).isSome then n + 1 else n)

/-- The virtual devices in the order of service, after the one served last. -/
def State.served (s : State) : List Nat := (List.range 32).map (fun i => (s.lastVd + 1 + i) % 32)

/-- The Marshal's choice of the whole device, and its dispatch (R68). -/
def State.dispatchOne (s : State) (running : List Nat) : State :=
  match running.findSome? (fun v => (AMap.find s.vds v).bind (fun d => (s.choice d).map (fun c => (v, d, c)))) with
  | none => s
  | some (v, d, p, rule, id) =>
    match s.task id with
    | none => s
    | some t =>
      ({ (s.onVd v (fun x => { x with aging := s.aged d p rule })) with lastVd := v, decidedAt := some s.now } : State).bind id ((s.idleFor id t).take t.gang)

/-- DISPATCH_DECISION (R68, R69): reservations give way and grow, then at most one dispatch, and one per fc for the whole device, none in the fc of
a cancel (R71); then holds are placed, so that a gang takes no region from a task that could have it (R75, log 71). -/
def execDispatchDecision (s : State) : Out :=
  if s.decidedAt == some s.now || s.cancelledAt == some s.now then .next s
  else
  let running := s.served.filter (fun v => match AMap.find s.vds v with | some d => !d.stopped | none => false)
  .next (running.foldl State.placeHold ((running.foldl (fun t v => (t.unlock v).growHold v) s).dispatchOne running))

/-! ### Pre-emption (R70) -/

def minRun : Nat := 65536

/-- A stop is requested of every member of a task; an earlier request stands. -/
def State.requestStop (s : State) (t : Task) (c : Byte) (heat : Nat) : State :=
  t.members.foldl (fun u r => u.onRegion r (fun g => match g.stop with
    | some _ => g
    | none => { g with stop := some c, stopHeat := heat })) s

/-- The running tasks that may give way to a task: (priority, region, id). -/
def State.victims (s : State) (t : Task) : List (Nat × Nat × Nat) :=
  let al := s.allowed t
  s.tasks.flatMap (fun p =>
    let v := p.2
    if v.vd == t.vd && (v.st == .running || v.st == .runningTrig) && v.fate == 0 && schedPrio v.sched > schedPrio t.sched then
      (v.members.filter (fun r => al.contains r && s.cycOf r - (s.region r).pacer.dcyc.toNat ≥ minRun)).map (fun r => (schedPrio v.sched, r, p.1))
    else [])

/-- The victim of lowest priority, and among those on the highest region. -/
def worstVictim (vs : List (Nat × Nat × Nat)) : Option Nat :=
  (vs.foldl (fun (m : Option (Nat × Nat × Nat)) v => match m with
    | none => some v
    | some w => if v.1 > w.1 || (v.1 == w.1 && v.2.1 > w.2.1) then some v else m) none).map (·.2.2)

/-- The task for which a virtual device may pre-empt, with its victim: no earlier request is outstanding. Of several list heads that qualify it is that of
the highest priority that has a victim (the model's choice, log 71). -/
def State.preemption (s : State) (d : Vd) : Option (Nat × Nat) :=
  d.ready.filterMap List.head? |>.findSome? (fun id =>
    let may := d.pre.all (·.victims.isEmpty)
    match s.task id with
    | none => none
    | some t => if may && !s.dispatchable id then (worstVictim (s.victims t)).map (fun v => (id, v)) else none)

/-- PREEMPTION_REQUEST (R70): one request. -/
def execPreemptionRequest (s : State) : Out :=
  .next (match s.vds.findSome? (fun p => if p.2.stopped then none else (s.preemption p.2).map (fun x => (p.1, x))) with
    | none => s
    | some (v, id, victim) =>
      match s.task victim with
      | none => s
      | some t =>
        (s.requestStop t 0xA0 0).onVd v (fun d =>
          let old := ((d.pre.find? (fun h => h.task == id)).map (·.regions)).getD []
          { d with pre := d.pre.filter (fun h => h.task != id) ++ [{ task := id, regions := old, victims := [victim] }] }))

/-! ### Forced freezes (R72, R84) -/

/-- The current region's running cancel has waited for n fc. -/
def State.cancelAged (s : State) (n : Nat) : Bool :=
  match s.reg.cancelAt with
  | some c => s.now - c ≥ n
  | none => false

def State.freeze (s : State) (c : Byte) (limit : Task → Option (Nat × Nat)) : State :=
  match s.reg.task.bind s.task with
  | none => s
  | some t =>
    match limit t with
    | some (n, heat) => if t.cancel && t.fate == 0 && s.cancelAged n then s.requestStop t c heat else s
    | none => s

/-- FORCED_FREEZE (R72). -/
def execForcedFreeze (s : State) : Out := .next (s.freeze 0xA2 (fun t => if t.grace.isNone then some (16384, 0) else none))

/-- GRACE_FREEZE (R84). -/
def execGraceFreeze (s : State) : Out := .next (s.freeze 0xA3 (fun t => t.grace.map (fun g => (g.2, g.1))))

/-! ### Pending faults at a boundary (R125 to R127, R129, R131) -/

/-- The Pacer waits in an instruction that a pending fault abandons: one that R131 names, WFE, or TASK.RETIRE. -/
def State.inBlocking (s : State) : Bool :=
  match s.reg.wait with
  | .none => false
  | .monitor _ => true
  | .wfe _ => true
  | .snap _ => true
  | .poll =>
    match s.fetch with
    | .ok (_, .getk ..) => true
    | .ok (_, .waitc ..) => true
    | .ok (_, .drain ..) => true
    | .ok (_, .inj ..) => true
    | .ok (_, .strmParm ..) => true
    | .ok (_, .taskRetire) => true
    | _ => false
  | .resp _ ids _ =>
    (match s.fetch with | .ok (_, .waitv ..) => true | .ok (_, .barWait ..) => true | .ok (_, .ldfeWait ..) => true | _ => false) ||
    ids.all (fun i => s.reqs.any (fun q => q.stamp == i && match q.act with | .readFe _ _ => true | .batonAcq _ _ => true | _ => false) ||
      s.batons.any (fun b => b.fifo.any (fun q => q.stamp == i)))

/-- A pending fault may be taken now. -/
def State.faultDue (s : State) : Bool :=
  s.reg.pend.isSome && s.reg.run == .on && !(s.sup && s.reg.pacer.mask) && (s.reg.wait == .none || s.inBlocking)

/-- PENDING_FAULT_DELIVERY (R127). -/
def execPendingFaultDelivery (s : State) : Out :=
  .next (if s.faultDue then (if s.reg.wait == .none then s else s.abandon s.cur).deliver else s)

/-! ### The disposal of traps (R124, R125) -/

/-- Causes that end a task. -/
def endsTask (c : Byte) : Bool :=
  let k := c.toNat / 16
  k ≤ 9 || k == 11 || c == 0xA4 || c == 0xA5 || c == 0xA6 || c == 0xAC || c == 0xAD || c == 0xAF

/-- The firmware disposes of the trap that the current region's task has taken: the task ends FAULTED, or a log record is made and it
resumes. A region that stopped under MASK with no task stays stopped, its Field frozen (R125). -/
def State.dispose (s : State) (c : Byte) : State :=
  match s.reg.task with
  | none => s.onReg (fun g => { g.stopAt s.now with stop := none })
  | some id =>
    if endsTask c then (s.onReg (fun g => { g.stopAt s.now with frozen := g.frozen })).endSoon id 2 c.toNat
    else ((s.logRegion s.cur c s.reg.pacer.epc s.reg.pacer.tval).onReg (fun g => { g with run := .on })).eret

/-! ### Stop and capture (R124, R129, R131, R132) -/

/-- A victim of a pre-emption has left its regions: they are reserved for the task that asked (R70). -/
def Hold.take (id : Nat) (rs : List Nat) (h : Hold) : Hold :=
  if h.victims.contains id then { h with victims := h.victims.filter (· != id), regions := h.regions ++ rs } else h

/-- Every member of a task has been captured: it becomes FROZEN and joins its list, at the head unless it only gave way by YIELD (R68, R70, R77,
R124), or, if it has a running cancel, it ends; where its virtual device is stopped it becomes FROZEN in either case (R77). The stores that it leaves
at their ports stay its own (R66). A reservation for a task that waits no more lapses (R70). -/
def State.frozenAll (s : State) (id : Nat) (t : Task) (c : Byte) : State :=
  let d := AMap.find s.vds t.vd
  let halt := c == 0xA1 || d.any (·.stopped)
  if t.cancel && !halt then s.endSoon id 7 0
  else
    let victim := d.any (fun x => x.pre.any (fun h => h.victims.contains id))
    let t1 := { t with st := .frozen, members := [], captured := [], tiles := s.tilesOf t, halted := halt,
                       left := (s.reqs.filter (·.owedBy t t.members)).map (·.stamp) }
    let s1 := t.members.foldl (fun u r => u.onRegion r (fun g => { g with task := none, cancelAt := none })) ((s.writeState t .frozen).putTask id t1)
    let s2 := if halt then s1 else s1.enlist id (c != 0xAA || victim)
    s2.onVd t.vd (fun x => { x with pre := (x.pre.map (Hold.take id t.members)).filter (fun h => !h.victims.isEmpty || x.ready.any (·.contains h.task)) })

/-- The current region has come to its boundary: its context is captured. It stays the task's until every member's is (R69), and keeps the cause of
its stop for a later FCAP (R132). A forced freeze is
the task's cancellation point. -/
def State.captureStop (s : State) (id : Nat) (t : Task) (c : Byte) : State :=
  let base := s.reg.pacer.savebase.toNat
  if c == 0xA2 || c == 0xA3 then
    let s1 := match s.capture s.cur base with | .ok u => u | .error _ => s
    s1.endSoon id 7 0
  else
    match s.capture s.cur base with
    | .error f => s.endSoon id 2 f.toNat
    | .ok s1 =>
      let rank := t.members.idxOf s.cur
      let saves := (List.range (max t.saves.length (rank + 1))).map (fun i => if i == rank then base else t.saves.getD i 0)
      let t1 := { t with saves := saves, captured := t.captured ++ [s.cur] }
      let s2 := s1.putTask id t1
      if t1.captured.length ≥ t1.members.length then s2.frozenAll id t1 c else s2

/-- STOP of the current region (R129, R131): the Pacer comes to a boundary and the Field freezes; then the context is captured. A stop that
finds no task is dropped, one under a trap entry waits, and a pending fault that can be taken comes first, also where it is the stop that brings the
Pacer to the boundary. -/
def State.stopStep (s : State) : State :=
  match s.reg.stop, s.reg.task with
  | none, _ => s
  | some _, none => if s.reg.run == .stopped then s else s.onReg (fun g => { g with stop := none })
  | some c, some id =>
    match s.task id with
    | none => s
    | some t =>
      if t.fate != 0 || s.faultDue then s
      else
        match s.reg.run with
        | .firmware _ => s
        | .stopped => if s.reg.wait == .none && s.settled s.cur && !t.captured.contains s.cur then s.captureStop id t c else s
        | _ =>
          let s0 := if c == 0xAA then s.requestStop t 0xAA 0 else s
          if s0.mayAbandon s0.cur then
            let s1 := s0.abandon s0.cur
            if s1.faultDue then s1.deliver else s1.onReg (·.stopAt s0.now)
          else s0

def execStop (s : State) : Out := .next s.stopStep

/-! ### VD.STOP and VD.START (R54, R77) -/

/-- A queue's stop, or its restart, in the device's record and in STAT (R54). -/
def State.queuesOf (s : State) (v : Nat) (f : State → Nat → Queue → State) : State :=
  s.queues.foldl (fun u p => if p.2.vd == v && p.2.kind != 3 then f u p.1 p.2 else u) s

/-- VD.STOP begins: consumers, dispatch, regions and copies (R54). -/
def State.stopVd (s : State) (v : Nat) : State :=
  let s1 := s.onVd v (fun d => { d with stopped := true, hold := none, pre := [] })
  let s2 := s1.queuesOf v (fun u id q =>
    if q.state == .run || q.state == .stalled then
      (u.putQueue id { q with heldStall := false, waitFrom := none, seen := [] }).queueState id .stopped q.r
    else u)
  let s3 := s2.tasks.foldl (fun u p => if p.2.vd == v && p.2.fate == 0 then u.requestStop p.2 0xA1 0 else u) s2
  s3.btes.foldl (fun u p =>
    let b := p.2
    if b.vd == v && !b.sup && b.started && b.queue.isSome && !b.todo.isEmpty && !b.stopped then
      (u.onBte p.1 (fun b => { b with stopped := true })).bteEnd p.1
    else u) s3

/-- VD.STOP is done: no region of the virtual device holds a task, and no chunk of it is in flight (R54). -/
def State.vdStopDone (s : State) (v : Nat) : Bool :=
  s.tasks.all (fun p => p.2.vd != v || p.2.members.isEmpty) &&
    s.btes.all (fun p => p.2.vd != v || p.2.sup || p.2.flight.isEmpty)

/-- The virtual device is stopped: VD.STOP has been asked for and is done (R49, R54). -/
def State.vdStopped (s : State) (v : Nat) : Bool := (AMap.find s.vds v).any (·.stopped) && s.vdStopDone v

/-- The tasks that VD.STOP froze, oldest dispatch first. -/
def insertSince (s : State) (id : Nat) : List Nat → List Nat
  | [] => [id]
  | j :: js =>
    let at_ := fun (k : Nat) => ((s.task k).map (·.since)).getD 0
    if at_ id < at_ j then id :: j :: js else j :: insertSince s id js

/-- VD.START: queues run again with the same SEQ, halted tasks return to the heads of their lists in their former order, and copies that
VD.STOP ended are forgotten (R49, R54, R77). -/
def State.startVd (s : State) (v : Nat) : State :=
  let s1 := s.onVd v (fun d => { d with stopped := false })
  let s2 := s1.queuesOf v (fun u id q => if q.state == .stopped then (u.putQueue id { q with waitFrom := none }).queueState id .run q.seqAt else u)
  let ids := ((s2.tasks.filter (fun p => p.2.vd == v && p.2.halted && p.2.fate == 0)).map (·.1)).foldl (fun l id => insertSince s2 id l) []
  let s3 := ids.reverse.foldl (fun u id => (u.onTask id (fun t => { t with halted := false })).enlist id true) s2
  { s3 with btes := s3.btes.filter (fun p => !(p.2.vd == v && p.2.stopped)) }

/-! ### Events of a region's Pacer (R124) -/

/-- MGC_REQUEST: the trap 0xAB at the current region's boundary; it waits while MASK is 1 (R124, R125). -/
def execMgcRequest (code : Word) (s : State) : Out :=
  .next (if s.reg.run == .on && s.reg.wait == .none && !(s.sup && s.reg.pacer.mask) then s.trapEntry 0xAB code else s)

/-- PACER_REGISTER_SOFT_ERROR: 0xAC with the register's number. -/
def execPacerRegisterSoftError (reg : Nat) (s : State) : Out :=
  .next (if s.reg.run == .on then (if s.mayAbandon s.cur then s.abandon s.cur else s).trap 0xAC (BitVec.ofNat 64 reg) else s)

/-- FIELD_SOFT_ERROR in a token (0x5C) or in element state (0x5D), where the element belongs to a configuration in the Field (R127). -/
def execFieldSoftError (site : SoftErrorSite) (e : Nat) (s : State) : Out :=
  let c : Byte := match site with | .token => 0x5C | .state => 0x5D
  .next (match s.reg.insts.find? (fun i => e < i.elems.length) with
    | some i => s.elemFault s.cur i.slot e c
    | none => s)

end Sys2Proof.Machine
end

