-- ==== Sys2Proof/Machine/Hash.lean ====
section
/-! DEFINITION. The hash, the signature check that the boot ROM uses, and the signature of the identity key (R25, R33, R34): SHA-256 and ECDSA on P-256, as FIPS 180 and FIPS 186
give them (log 6). -/

namespace Sys2Proof.Machine

open Sys2Proof

/-! ### SHA-256 -/

abbrev W32 := BitVec 32

/-- The constants of FIPS 180: cube roots and square roots of primes. -/
def shaK : List W32 :=
  [0x428a2f98, 0x71374491, 0xb5c0fbcf, 0xe9b5dba5, 0x3956c25b, 0x59f111f1, 0x923f82a4, 0xab1c5ed5] ++
  [0xd807aa98, 0x12835b01, 0x243185be, 0x550c7dc3, 0x72be5d74, 0x80deb1fe, 0x9bdc06a7, 0xc19bf174] ++
  [0xe49b69c1, 0xefbe4786, 0x0fc19dc6, 0x240ca1cc, 0x2de92c6f, 0x4a7484aa, 0x5cb0a9dc, 0x76f988da] ++
  [0x983e5152, 0xa831c66d, 0xb00327c8, 0xbf597fc7, 0xc6e00bf3, 0xd5a79147, 0x06ca6351, 0x14292967] ++
  [0x27b70a85, 0x2e1b2138, 0x4d2c6dfc, 0x53380d13, 0x650a7354, 0x766a0abb, 0x81c2c92e, 0x92722c85] ++
  [0xa2bfe8a1, 0xa81a664b, 0xc24b8b70, 0xc76c51a3, 0xd192e819, 0xd6990624, 0xf40e3585, 0x106aa070] ++
  [0x19a4c116, 0x1e376c08, 0x2748774c, 0x34b0bcb5, 0x391c0cb3, 0x4ed8aa4a, 0x5b9cca4f, 0x682e6ff3] ++
  [0x748f82ee, 0x78a5636f, 0x84c87814, 0x8cc70208, 0x90befffa, 0xa4506ceb, 0xbef9a3f7, 0xc67178f2]

def shaH0 : List W32 :=
  [0x6a09e667, 0xbb67ae85, 0x3c6ef372, 0xa54ff53a, 0x510e527f, 0x9b05688c, 0x1f83d9ab, 0x5be0cd19]

/-- The number in bytes, highest first. -/
def beNat (bs : List Byte) : Nat := bs.foldl (fun n b => 256 * n + b.toNat) 0
/-- n bytes of a number, highest first. -/
def beBytes (n v : Nat) : List Byte := (leBytes n v).reverse

/-- The padded message. -/
def shaPad (bs : List Byte) : List Byte :=
  let z := (119 - bs.length % 64) % 64
  bs ++ [0x80] ++ List.replicate z 0 ++ beBytes 8 (8 * bs.length)

def rotr (x : W32) (n : Nat) : W32 := x.rotateRight n

/-- The message schedule, newest word first. -/
def shaExtend : Nat → List W32 → List W32
  | 0, w => w
  | n + 1, w =>
    let at_ := fun (i : Nat) => w.getD i 0
    let s0 := rotr (at_ 14) 7 ^^^ rotr (at_ 14) 18 ^^^ (at_ 14 >>> 3)
    let s1 := rotr (at_ 1) 17 ^^^ rotr (at_ 1) 19 ^^^ (at_ 1 >>> 10)
    shaExtend n ((at_ 15 + s0 + at_ 6 + s1) :: w)

/-- One round on the eight working variables. -/
def shaRound (v : List W32) (kw : W32) : List W32 :=
  match v with
  | [a, b, c, d, e, f, g, h] =>
    let t1 := h + (rotr e 6 ^^^ rotr e 11 ^^^ rotr e 25) + ((e &&& f) ^^^ (~~~e &&& g)) + kw
    let t2 := (rotr a 2 ^^^ rotr a 13 ^^^ rotr a 22) + ((a &&& b) ^^^ (a &&& c) ^^^ (b &&& c))
    [t1 + t2, a, b, c, d + t1, e, f, g]
  | _ => v

def shaBlock (h : List W32) (bs : List Byte) : List W32 :=
  let w0 := (List.range 16).map (fun i => BitVec.ofNat 32 (beNat ((bs.drop (4 * i)).take 4)))
  let w := (shaExtend 48 w0.reverse).reverse
  (h.zip ((shaK.zip w).foldl (fun v p => shaRound v (p.1 + p.2)) h)).map (fun p => p.1 + p.2)

def shaBlocks : Nat → List W32 → List Byte → List W32
  | 0, h, _ => h
  | n + 1, h, bs => if bs.isEmpty then h else shaBlocks n (shaBlock h (bs.take 64)) (bs.drop 64)

/-- SHA-256. -/
def sha256 (bs : List Byte) : List Byte :=
  let m := shaPad bs
  (shaBlocks (m.length / 64) shaH0 m).flatMap (fun x => beBytes 4 x.toNat)

/-! ### ECDSA on P-256 -/

def ecP : Nat := 2 ^ 256 - 2 ^ 224 + 2 ^ 192 + 2 ^ 96 - 1
def ecN : Nat := 0xffffffff00000000ffffffffffffffffbce6faada7179e84f3b9cac2fc632551
def ecB : Nat := 0x5ac635d8aa3a93e7b3ebbd55769886bc651d06b0cc53b0f63bce3c3e27d2604b
/-- The base point. -/
def ecG : Nat × Nat :=
  (0x6b17d1f2e12c4247f8bce6e563a440f277037d812deb33a0f4a13945d898c296,
   0x4fe342e2fe1a7f9b8ee7eb4a7c0f9e162bce33576b315ececbb6406837bf51f5)

/-- b ^ e modulo m, for e below 2 ^ fuel. -/
def powMod (m : Nat) : Nat → Nat → Nat → Nat
  | 0, _, _ => 1 % m
  | fuel + 1, b, e =>
    let h := powMod m fuel (b * b % m) (e / 2)
    if e % 2 == 1 then b * h % m else h

/-- The inverse modulo a prime. -/
def invMod (m a : Nat) : Nat := powMod m 257 (a % m) (m - 2)

/-- Addition of points; none is the point at infinity. -/
def ecAdd : Option (Nat × Nat) → Option (Nat × Nat) → Option (Nat × Nat)
  | none, q => q
  | q, none => q
  | some (x1, y1), some (x2, y2) =>
    if x1 == x2 && (y1 + y2) % ecP == 0 then none
    else
      let l := if x1 == x2 then (3 * x1 * x1 + ecP - 3) * invMod ecP (2 * y1) else (y2 + ecP - y1) * invMod ecP (x2 + ecP - x1)
      let x := (l * l + 2 * ecP - x1 - x2) % ecP
      some (x, (l * (x1 + ecP - x) + ecP - y1) % ecP)

/-- k times a point, for k below 2 ^ fuel. -/
def ecMul : Nat → Nat → Option (Nat × Nat) → Option (Nat × Nat)
  | 0, _, _ => none
  | fuel + 1, k, q =>
    let h := ecMul fuel (k / 2) (ecAdd q q)
    if k % 2 == 1 then ecAdd q h else h

/-- The signature (r, s) over a hash verifies under the public key X, Y, all big-endian. -/
def ecVerify (key sig hash : List Byte) : Bool :=
  let x := beNat (key.take 32)
  let y := beNat (key.drop 32)
  let r := beNat (sig.take 32)
  let t := beNat (sig.drop 32)
  decide (x < ecP) && decide (y < ecP) && (y * y) % ecP == (x * x * x + (ecP - 3) * x + ecB) % ecP &&
    decide (0 < r) && decide (r < ecN) && decide (0 < t) && decide (t < ecN) &&
    (let w := invMod ecN t
     match ecAdd (ecMul 256 (beNat hash * w % ecN) (some ecG)) (ecMul 256 (r * w % ecN) (some (x, y))) with
     | none => false
     | some (a, _) => a % ecN == r)

/-! ### The module's identity key and its signatures (R33, R34; log 6) -/

/-- A secret scalar from an opaque number: 1 to the order less 1. -/
def ecScalar (n : Nat) : Nat := 1 + n % (ecN - 1)

/-- The private identity key. -/
def idPrivate : Nat := ecScalar Config.idSecret

/-- A point as X then Y, big-endian. -/
def pointBytes : Option (Nat × Nat) → List Byte
  | none => List.replicate 64 0
  | some (x, y) => beBytes 32 x ++ beBytes 32 y

/-- IDKEY: the public key of the private identity key. -/
def idKeyBytes : List Byte := pointBytes (ecMul 256 idPrivate (some ecG))

/-- The ECDSA signature (r, s) over a hash by private key d with the per-message secret k; where one of the two is 0 the next secret is
tried, as FIPS 186 has it. At most eight secrets give such a 0, so the tenth is never wanted. -/
def ecSign (d : Nat) (hash : List Byte) : Nat → Nat → List Byte
  | 0, _ => List.replicate 64 0
  | fuel + 1, k =>
    let r := match ecMul 256 k (some ecG) with | some (x, _) => x % ecN | none => 0
    let t := invMod ecN k * (beNat hash + r * d) % ecN
    if r == 0 || t == 0 then ecSign d hash fuel (k % (ecN - 1) + 1) else beBytes 32 r ++ beBytes 32 t

end Sys2Proof.Machine
end

