-- ==== Sys2Proof/Machine/Mgc.lean ====
section
/-! DEFINITION. The management controller: boot states (R23 to R27), the supervisor aperture (R24, R28, R35, R56, R215), the mailbox (R28,
R29), sensors and the coolant limits (R13, R30), attestation (R33, R34), and the loss of device state (R29, R56). -/

namespace Sys2Proof.Machine

open Sys2Proof

/-! ### Boot states and records (R23, R28, R31, R32) -/

def Boot.code : Boot → Nat
  | .power => 0
  | .link => 1
  | .waitImage => 2
  | .verify => 3
  | .load => 4
  | .init => 5
  | .ready => 6
  | .halted => 7

/-- BOOT_STATE. -/
def State.bootWord (s : State) : Nat :=
  s.mgc.boot.code + s.mgc.err.toNat * 2 ^ 4 + s.mgc.svnFused % 256 * 2 ^ 12 + s.mgc.svnImage.toNat * 2 ^ 20 + s.mgc.dropped.toNat * 2 ^ 48

def State.onMgc (s : State) (f : Mgc → Mgc) : State := { s with mgc := f s.mgc }

/-- The MGC enters a boot state, with its record. -/
def State.enterBoot (s : State) (b : Boot) : State :=
  let s1 := s.onMgc (fun m => { m with boot := b })
  s1.log 0 0 b.code (BitVec.ofNat 64 s1.bootWord)

/-- A boot error and its record. -/
def State.bootError (s : State) (e : Nat) : State :=
  let s1 := s.onMgc (fun m => { m with err := BitVec.ofNat 8 e })
  s1.log 0 0 (0x100 + e) (BitVec.ofNat 64 s1.bootWord)

/-- POWER_UP (R23): self-test, then LINK, where the link comes up and the mailbox opens; then WAIT_IMAGE. The record of the entry to POWER is there from
the start (Mgc.reset). -/
def execPowerUp (s : State) : Out :=
  .next (match s.mgc.boot with
    | .power => ({ s with isaudUp := true } : State).enterBoot .link
    | .link => s.enterBoot .waitImage
    | _ => s)

/-! ### The image (R25) -/

/-- Bytes of the staging window, which the slices of regions 0 to 3 back (R24). -/
def State.window (s : State) (off n : Nat) : List Byte := s.rd (sramKey off) n

/-- A section table entry: TYPE, OFFSET, LENGTH, HASH, and whether its reserved bytes are zero. -/
structure Section where
  type : Nat
  off : Nat
  len : Nat
  hash : List Byte
  zeros : Bool
deriving DecidableEq, Repr

def State.sections (s : State) : List Section :=
  (List.range 4).map (fun i =>
    let b := s.window (0x58 + 64 * i) 64
    { type := fieldLe b 0 4, off := fieldLe b 8 8, len := fieldLe b 16 8, hash := b.drop 32, zeros := fieldLe b 4 4 == 0 && fieldLe b 24 8 == 0 })

def State.imageLength (s : State) : Nat := leNat (s.window 0x10 8)
def State.imageSvn (s : State) : Nat := leNat (s.window 8 4)
def State.imageAdvance (s : State) : Bool := (leNat (s.window 6 2)).testBit 0

/-- LENGTH is a multiple of 16 within its range. -/
def lengthOk (n : Nat) : Bool := n % 16 == 0 && 0x10000 ≤ n && n ≤ 0x4000000

/-- Check 1. SVN is not among the fields that R25 gives this check, nor are the bytes from 0x158 to 0xFFF, which no field of the layout
names as reserved (log 61). -/
def State.check1 (s : State) : Bool :=
  let h := s.window 0 0x18
  fieldLe h 0 4 == 0x4D475242 && fieldLe h 4 2 == 1 && fieldLe h 6 2 ≤ 1 && fieldLe h 12 4 == 4 && lengthOk s.imageLength &&
    s.imageLength == s.mgc.goLen && s.sections.all (·.zeros)

/-- Check 2: each type once, every section in its place, no two overlapping; one of length 0 within another counts as overlapping it (log 61). -/
def State.check2 (s : State) : Bool :=
  let ss := s.sections
  [1, 2, 3, 4].all (fun t => (ss.filter (fun x => x.type == t)).length == 1) &&
    ss.all (fun x => x.off % 4096 == 0 && 0x1000 ≤ x.off && x.off + x.len ≤ s.imageLength - 64) &&
    (List.range 4).all (fun i => (List.range i).all (fun j =>
      match ss[i]?, ss[j]? with
      | some x, some y => x.off + x.len ≤ y.off || y.off + y.len ≤ x.off
      | _, _ => true))

/-- SHA-256 over bytes [0, LENGTH − 64). -/
def State.imageDigest (s : State) : List Byte := sha256 (s.window 0 (s.imageLength - 64))

/-- The code of the first check that fails. VERIFY takes the bytes of an uncorrectable granule of the window as they stand, without an error of its own
(the model's choice, log 61). -/
def State.imageError (s : State) : Option Nat :=
  if !s.check1 then some 1
  else if !s.check2 then some 2
  else if sha256 (s.window 0x18 64) != (List.range 32).map Config.keyHash then some 3
  else if !ecVerify (s.window 0x18 64) (s.window (s.imageLength - 64) 64) s.imageDigest then some 4
  else if s.imageSvn < s.mgc.svnFused then some 5
  else if !s.sections.all (fun x => sha256 (s.window x.off x.len) == x.hash) then some 6
  else none

/-- VERIFY (R25). -/
def execVerify (s : State) : Out :=
  .next (if s.mgc.boot != .verify then s
    else
      let s1 := if s.check1 then s.onMgc (fun m => { m with svnImage := BitVec.ofNat 8 s.imageSvn }) else s
      match s1.imageError with
      | some e => (s1.bootError e).enterBoot .waitImage
      | none => s1.enterBoot .load)

/-- LOAD (R27, R33): the sections are measured and installed. An uncorrectable granule anywhere in [0, LENGTH) counts as one that LOAD reads (the
model's choice, log 61). -/
def execMgcLoad (e : LoadEnd) (s : State) : Out :=
  .next (if s.mgc.boot != .load then s
    else if e == .cannotInstall || s.anyBad (sramKey 0) s.imageLength then (s.bootError 0x0A).enterBoot .waitImage
    else
      (s.onMgc (fun m => { m with
        imageHash := s.imageDigest, sectHash := s.sections.map (fun x => sha256 (s.window x.off x.len)) })).enterBoot .init)

/-! ### INIT and READY (R23, R24, R26, R27, R36) -/

/-- The image asks for fuses to be programmed. -/
def State.advances (s : State) : Bool := s.imageAdvance && decide (s.imageSvn > s.mgc.svnFused)

/-- The control queue (R36). -/
def controlQueue : Queue :=
  { vd := 0, kind := 3, log2n := 2, bte := 0, desc := 0x200, ring := 0x10000, capt := 0, stall := 2 ^ 20, state := .run, seqAt := 0, r := 0,
    waitFrom := none, heldStall := false, used := false, destroying := [], pend := [], seen := [] }

/-- SRAM and HBM scrubbed. -/
def State.scrubAll (s : State) : State :=
  { s with mem := s.mem.filter (fun c => !(isSram c.1 || isHbm c.1)), tags := [], full := [], live := [], bad := [], badMeta := [], merge := [], dirty := [] }

/-- The aperture's memory without the control queue's descriptor and ring: the queue is created with its slots zeroed (R37). CFG, RING, CAPT and STALL
of its descriptor read 0 as well (the model's choice, log 45). -/
def State.zeroControl (s : State) : State :=
  { s with mem := Memory.clear (Memory.clear s.mem (apKey 0x200) (apKey 0x280)) (apKey 0x10000) (apKey 0x14000) }

/-- READY: the control queue exists, the CHUs have their slot tables (R146), and every region is released into supervisor firmware. -/
def State.enterReady (s : State) : State :=
  ({ (s.scrubAll.zeroControl) with
    queues := [(0, controlQueue)], slotTables := chuTables,
    regions := (List.range 256).map (fun r => (r, { Region.reset with run := .off, resetAt := s.now })) } : State).enterBoot .ready

/-- 115 °C in units of 1/16 °C (R13, R30). -/
def thermalLimit : Nat := 115 * 16

/-- A junction at or above its limit stops the module in whatever boot state it is: a record, in INIT the boot error too, and HALTED
(R13, R23, R27, R31, R32). -/
def State.thermal (s : State) (die : Nat) (temp : BitVec 32) : State :=
  if temp.toNat < thermalLimit || s.mgc.boot == .halted then s
  else
    let s1 := s.log 3 die 1 (temp.zeroExtend 64)
    (if s.mgc.boot == .init then s1.bootError 0x08 else s1).enterBoot .halted

/-- INIT (R26, R27). How far a failed programming of fuses got is a free value (log 3). -/
def execMgcInit (e : InitEnd) (s : State) : Out :=
  .next (if s.mgc.boot != .init then s
    else match e with
      | .trainingFailed => (s.bootError 0x07).enterBoot .halted
      | .thermalStop die temp => s.thermal die temp
      | .fuseFailed =>
        if s.advances then
          let (v, s1) := s.drawWord
          ((s1.onMgc (fun m => { m with svnFused := m.svnFused + v.toNat % (min 64 s.imageSvn - m.svnFused + 1) })).bootError 0x09).enterBoot .halted
        else s.enterReady
      | .ok => (if s.advances then s.onMgc (fun m => { m with svnFused := min 64 s.imageSvn }) else s).enterReady)

/-- THERMAL_STOP (R13). -/
def execThermalStop (die : Nat) (temp : BitVec 32) (s : State) : Out := .next (s.thermal die temp)

/-! ### Loss of device state (R29, R56) -/

/-- The module at POWER again: nothing of the device is left but its fuses; the epoch is drawn anew. Host and peer memory, and what the host
has received, are not the device's, and what images stand for stays so. -/
def State.restart (s : State) : State :=
  { State.reset with
    agenda := s.agenda, free := s.free + 1, tlbOn := s.tlbOn, icacheOn := s.icacheOn,
    mem := s.mem.filter (fun c => decide (hostKey 0 ≤ c.1) && decide (c.1 < apKey 0)),
    mgc := Mgc.reset s.mgc.svnFused, jnl := Journal.reset (Config.epochDraw (s.free + 1)), hostResps := s.hostResps, module := s.module, images := s.images }

/-- POWER_LOSS (R56). -/
def execPowerLoss (s : State) : Out := .next s.restart

/-! ### Sensors (R13, R30) -/

def inletHigh (t : BitVec 32) : Bool := t.toNat > 35 * 16
def flowLow (f : BitVec 32) : Bool := f.toNat < 600

/-- Records of new budgets, one per compute die. -/
def State.budgets (s : State) (code : Nat) : State :=
  (List.range 8).foldl (fun t d => ({ t with free := t.free + 1 } : State).log 1 d code (Config.budget t.free)) s

/-- SENSOR_SAMPLE: limits newly broken lower the budgets and are logged; both back within them restore the budgets. -/
def execSensorSample (inlet flow : BitVec 32) (s : State) : Out :=
  let v : Word := flow ++ inlet
  let hot := inletHigh inlet
  let slow := flowLow flow
  let s1 := s.onMgc (fun m => { m with inlet := inlet, flow := flow, lowered := hot || slow })
  let s2 := if hot && !(s.mgc.lowered && inletHigh s.mgc.inlet) then s1.log 2 0 1 v else s1
  let s3 := if slow && !(s.mgc.lowered && flowLow s.mgc.flow) then s2.log 2 0 2 v else s2
  let s4 := if s.mgc.lowered && !hot && !slow then s3.log 2 0 3 v else s3
  .next (if (hot || slow) && !s.mgc.lowered then s4.budgets 1 else if s.mgc.lowered && !hot && !slow then s4.budgets 2 else s4)

/-- Whether a number names a sensor. -/
def isSensor (n : Nat) : Bool := (n < 80 && n % 8 < 3) || n == 80 || n == 81

/-- A sensor's value; for 80 and 81 that of the MGC's last sample (the model's choice, log 61). -/
def State.sensor (s : State) (n : Nat) : Word × State :=
  if n == 80 then (s.mgc.inlet.zeroExtend 64, s)
  else if n == 81 then (s.mgc.flow.zeroExtend 64, s)
  else ((Config.sensor n s.free).zeroExtend 64, { s with free := s.free + 1 })

/-! ### Attestation (R33, R34) -/

def devHash : List Byte := sha256 idKeyBytes

/-- The identity record; PARTNO is NSH-S1-LQ. -/
def identityRecord : List Byte :=
  [0x4E, 0x53, 0x48, 0x2D, 0x53, 0x31, 0x2D, 0x4C, 0x51] ++ List.replicate 7 0 ++ leBytes 2 1 ++ leBytes 2 1 ++
    leBytes 2 (Config.stepping.val + 1) ++ List.replicate 10 0 ++ devHash ++ idKeyBytes

/-- The quote's body. -/
def State.quoteBody (s : State) (nonce : List Byte) : List Byte :=
  nonce ++ devHash ++ sliceOf s.mgc.imageHash 0 32 ++ sliceOf s.mgc.sectHash.flatten 0 128 ++ leBytes 4 s.mgc.svnFused ++
    leBytes 4 s.mgc.svnImage.toNat ++ List.replicate 24 0

/-- The quote's signature: ECDSA by the identity key over SHA-256 of the body. -/
def signBytes (body : List Byte) : List Byte := ecSign idPrivate (sha256 body) 10 (ecScalar (Config.signNonce (sha256 body)))

/-- The device's write to host memory, where the link is up (R15). With the link down nothing is written and the command completes all the
same (log 61). -/
def State.hostPut (s : State) (a : Nat) (bs : List Byte) : State := if s.isaudUp then s.put (hostKey a) bs else s

/-! ### The mailbox (R28, R29) -/

/-- A command completes. -/
def State.mbxDone (s : State) (status : Nat) (tag : Byte) : State :=
  s.onMgc (fun m => { m with status := BitVec.ofNat 8 status, tag := tag, cmd := none })

/-- A host address of a command: aligned to 32 bytes, with n bytes in HOST space. -/
def mbxAddr (a : Word) (n : Nat) : Bool := a.toNat % 32 == 0 && a.toNat + n ≤ 2 ^ 48

/-- The states from one to another, in the order of R23. -/
def State.bootIn (s : State) (lo hi : Nat) : Bool := lo ≤ s.mgc.boot.code && s.mgc.boot.code ≤ hi

/-- The log ring takes the last 64 records, then every later one (R31). A second LOG_RING does so too, with records that the first ring has taken (the
model's choice, log 61). -/
def State.setRing (s : State) (a n : Nat) : State :=
  let s1 := s.mgc.logOld.foldl (fun t e => t.writeLog a n e.2.1 e.2.2 e.1) s
  s1.onMgc (fun m => { m with ringAddr := some a, ringCount := n, arg2 := BitVec.ofNat 64 m.logSeq })

/-- The boot state is none of a command's own (R29). -/
def State.mbxWrong (s : State) (op : Nat) : Bool :=
  match op with
  | 1 => s.mgc.boot != .waitImage
  | 2 => !s.bootIn 1 6
  | 3 => s.mgc.boot != .ready
  | 4 => !s.bootIn 1 7
  | 5 => !s.bootIn 1 7
  | _ => false

/-- The staging window takes writes: in WAIT_IMAGE, until an IMAGE_GO that will enter VERIFY has been written (R24). -/
def Mgc.windowOpen (m : Mgc) : Bool :=
  m.boot == .waitImage && !m.cmd.any (fun c => c.op == 1 && !c.wrong && lengthOk c.a0.toNat)

/-- A command's effect and completion. An IMAGE_GO whose module has stopped in the meantime has left its state (log 61); a SENSOR command that
finds a junction at its limit shows it to the MGC, which stops the module (R13). An IMAGE_GO that ends with BAD_ARG leaves ERR as it is: only one
that enters VERIFY clears it (the model's choice, log 61). -/
def State.mbxRun (s : State) (c : MbxCmd) : State :=
  let done := fun (n : Nat) => s.mbxDone n c.tag
  if c.wrong then done 4
  else match c.op with
  | 1 =>
    if s.mgc.boot != .waitImage then done 4
    else if !lengthOk c.a0.toNat then done 3
    else ((s.onMgc (fun m => { m with err := 0, goLen := c.a0.toNat })).enterBoot .verify).mbxDone 0 c.tag
  | 2 =>
    if !mbxAddr c.a0 (32 * c.a1.toNat) || !(64 ≤ c.a1.toNat && c.a1.toNat ≤ 65536 && 2 ^ Nat.log2 c.a1.toNat == c.a1.toNat) then done 3
    else (s.setRing c.a0.toNat c.a1.toNat).mbxDone 0 c.tag
  | 3 =>
    if !mbxAddr c.a0 32 || !mbxAddr c.a1 320 then done 3
    else
      let body := s.quoteBody (s.rd (hostKey c.a0.toNat) 32)
      (s.hostPut c.a1.toNat (body ++ signBytes body)).mbxDone 0 c.tag
  | 4 =>
    if !isSensor c.a0.toNat then done 3
    else
      let (v, s1) := s.sensor c.a0.toNat
      let s2 := (s1.onMgc (fun m => { m with arg0 := v })).mbxDone 0 c.tag
      if c.a0.toNat < 80 && c.a0.toNat % 8 == 0 then s2.thermal (c.a0.toNat / 8) (v.truncate 32) else s2
  | 5 =>
    if !mbxAddr c.a0 128 then done 3
    else (s.hostPut c.a0.toNat identityRecord).mbxDone 0 c.tag
  | 6 => s.restart
  | _ => done 2

/-- A command is written: at once BUSY, or rejected with BUSY while another runs; MODULE_RESET is always taken. A mailbox that is not open yet
takes nothing. -/
def State.mbxWrite (s : State) (v : Word) : State :=
  let op := v.toNat % 256
  let tag := BitVec.ofNat 8 (v.toNat / 256)
  if s.mgc.boot == .power then s
  else if v.toNat / 2 ^ 16 == 0 && op == 6 then s.restart
  else if s.mgc.cmd.isSome then s.onMgc (fun m => { m with status := 1, tag := tag })
  else if v.toNat / 2 ^ 16 != 0 then s.mbxDone 3 tag
  else if op == 0 || op > 6 then s.mbxDone 2 tag
  else s.onMgc (fun m => { m with cmd := some { op := op, tag := tag, a0 := m.arg0, a1 := m.arg1, wrong := s.mbxWrong op } })

/-- A write by the host, which reaches the module only over the Isaud link (R15, R18). -/
def State.byHost (s : State) (f : State → State) : State := if s.isaudUp then f s else s

/-- A command of the mailbox: the one that runs completes; with none running, the host writes it and it completes. -/
def State.mailbox (s : State) (op : Nat) (tag : Byte) : State :=
  let write := fun (t : State) => t.mbxWrite (BitVec.ofNat 64 (256 * tag.toNat + op))
  match s.mgc.cmd with
  | some c => if c.op == op && c.tag == tag then s.mbxRun c else s.byHost write
  | none =>
    let s1 := s.byHost write
    match s1.mgc.cmd with
    | some c => s1.mbxRun c
    | none => s1

def execImageGo (tag : Byte) (s : State) : Out := .next (s.mailbox 1 tag)
def execLogRing (tag : Byte) (s : State) : Out := .next (s.mailbox 2 tag)
def execQuote (tag : Byte) (s : State) : Out := .next (s.mailbox 3 tag)
def execSensor (tag : Byte) (s : State) : Out := .next (s.mailbox 4 tag)
def execIdentity (tag : Byte) (s : State) : Out := .next (s.mailbox 5 tag)
/-- MODULE_RESET (R29): device state is lost in every boot state in which the host reaches the mailbox. -/
def execModuleReset (_ : Byte) (s : State) : Out := .next (s.byHost State.restart)

/-! ### Registers of the supervisor aperture (R28, R35, R56, R215) -/

/-- JNL_CFG: LOG2J within its range while EN is 0, then EN. -/
def State.jnlCfg (s : State) (v : Word) : State :=
  if s.jnl.en then s
  else
    let n := v.toNat % 32
    let j := if 12 ≤ n && n ≤ 21 then { s.jnl with log2j := n } else s.jnl
    { s with jnl := if v.getLsbD 8 then { j with en := true, wr := 0, rd := 0 } else j }

/-- JNL_RD: within its limits. -/
def State.jnlRd (s : State) (v : Word) : State :=
  if s.jnl.rd ≤ v.toNat && v.toNat ≤ s.jnl.wr then { s with jnl := { s.jnl with rd := v.toNat } } else s

def execJnlCfgWrite (v : Word) (s : State) : Out := .next (s.byHost (·.jnlCfg v))
def execJnlRdWrite (v : Word) (s : State) : Out := .next (s.byHost (·.jnlRd v))

/-- A register's value as the host reads it; MBX_CMD is written only. -/
def State.apReg (s : State) (off : Nat) : Nat :=
  match off with
  | 0x08 => s.mgc.arg0.toNat
  | 0x10 => s.mgc.arg1.toNat
  | 0x18 => s.mgc.arg2.toNat
  | 0x20 => s.mgc.arg3.toNat
  | 0x28 => (if s.mgc.cmd.isSome then 2 ^ 16 else 0) + 256 * s.mgc.tag.toNat + s.mgc.status.toNat
  | 0x30 => s.bootWord
  | 0x100 => s.jnl.log2j + if s.jnl.en then 256 else 0
  | 0x108 => s.jnl.wr
  | 0x110 => s.jnl.rd
  | 0x118 => s.jnl.resv
  | 0x120 => s.jnl.epoch.toNat
  | _ => 0

/-- A write of a register. -/
def State.apRegWrite (s : State) (off : Nat) (v : Word) : State :=
  match off with
  | 0x00 => s.mbxWrite v
  | 0x08 => s.onMgc (fun m => { m with arg0 := v })
  | 0x10 => s.onMgc (fun m => { m with arg1 := v })
  | 0x18 => s.onMgc (fun m => { m with arg2 := v })
  | 0x20 => s.onMgc (fun m => { m with arg3 := v })
  | 0x100 => s.jnlCfg v
  | 0x110 => s.jnlRd v
  | _ => s

/-- The offset lies in memory of the aperture: the control queue's descriptor and ring, or the journal area. -/
def apMem (off : Nat) : Bool :=
  (0x200 ≤ off && off < 0x280) || (0x10000 ≤ off && off < 0x14000) || (0x1000000 ≤ off && off < 0x5000000)
def apIsReg (off : Nat) : Bool := off < 0x38 || (0x100 ≤ off && off < 0x128)
/-- The offset lies in the staging window. -/
def apStage (off : Nat) : Bool := 0x10000000 ≤ off && off < 0x14000000

/-- A byte of the aperture as the host reads it. -/
def State.apByte (s : State) (off : Nat) : Byte :=
  if apIsReg off then BitVec.ofNat 8 (s.apReg (off / 8 * 8) / 256 ^ (off % 8))
  else if apMem off then Memory.get s.mem (apKey off)
  else if apStage off && s.mgc.windowOpen then Memory.get s.mem (sramKey (off - 0x10000000))
  else 0

def State.apRead (s : State) (off n : Nat) : List Byte := (List.range n).map (fun i => s.apByte (off + i))

/-- A register's new value from the bytes of a write at off that fall on it. -/
def regMerge (old : Nat) (reg off : Nat) (bs : List Byte) : Word :=
  BitVec.ofNat 64 (leNat ((List.range 8).map (fun i =>
    if off ≤ reg + i && reg + i < off + bs.length then bs.getD (reg + i - off) 0 else BitVec.ofNat 8 (old / 256 ^ i))))

/-- A host write to the aperture: registers, memory, or the staging window, where one that finds it closed is counted (R24). It makes every granule that
it touches in the window correct, also one that it covers in part (the model's choice, log 62). Registers are written in rising order, so that a command
written together with its arguments takes the old ones, and any byte of MBX_CMD starts a command (the model's choices, log 61). The journal area is
plain memory to the host (the model's choice, log 61). -/
def State.apWrite (s : State) (off : Nat) (bs : List Byte) : State :=
  let hi := off + bs.length
  if apStage off then
    if s.mgc.windowOpen then s.put (sramKey (off - 0x10000000)) bs
    else
      let s1 := s.onMgc (fun m => { m with dropped := if m.dropped == 0xFFFF then m.dropped else m.dropped + 1 })
      s1.log 6 0 1 (s1.mgc.dropped.zeroExtend 64)
  else if apMem off then s.put (apKey off) (((List.range bs.length).filter (fun i => apMem (off + i))).map (fun i => bs.getD i 0))
  else
    ([0x00, 0x08, 0x10, 0x18, 0x20, 0x28, 0x30, 0x100, 0x108, 0x110, 0x118, 0x120].filter (fun r => off < r + 8 && r < hi)).foldl
      (fun t r => t.apRegWrite r (regMerge (t.apReg r) r off bs)) s

/-- REGISTER_WRITE (R215): a whole 64-bit write at an offset of the aperture. -/
def execRegisterWrite (off : Nat) (v : Word) (s : State) : Out := .next (s.byHost (fun t => (t.apWrite off (leBytes 8 v.toNat)).deadQueues (apKey off)))

end Sys2Proof.Machine
end

