-- ==== Sys2Proof/Machine/Launch.lean ====
section
/-! DEFINITION. Task control blocks at LAUNCH and TRIG.BIND: the checks of R63, R74 and R79, task ids (R46), and the entry of a task into
the Marshal's graph (R62, R64, R65, R374). -/

namespace Sys2Proof.Machine

open Sys2Proof

/-- A TCB as the Marshal reads it (R60). -/
structure Tcb where
  entry : Cap
  dep : Nat
  sched : Nat
  affinity : BitVec 256
  zeros : Bool
  runs : Nat
deriving DecidableEq, Repr

/-- The TCB at a capability's cursor, ENTRY with its tag; or the cause of the failed access, that of the tag included (R122, class 3). zeros: its reserved
fields are zero. -/
def State.readTcb (s : State) (vd : Nat) (c : Cap) : Except Byte Tcb :=
  let a := c.cursor.toNat
  match s.unitKeys vd c a 128 permLoad kindRead Use.read, s.unitRead vd c a 128 with
  | .ok ((k, _, _) :: _), .ok bs =>
    if s.anyBadMeta k 16 then .error (class3 k 3) else
    let dep := fieldLe bs 0x10 8
    let sched := fieldLe bs 0x18 8
    .ok { entry := Cap.ofBytes (bs.take 16) (s.tagAt k), dep := dep, sched := sched, affinity := BitVec.ofNat 256 (fieldLe bs 0x20 32),
          zeros := dep / 2 ^ 28 == 0 && bitsOf dep 21 3 == 0 && !sched.testBit 31 && bitsOf sched 3 5 == 0 && fieldLe bs 0x64 4 == 0 &&
            fieldLe bs 0x6B 1 == 0 && fieldLe bs 0x70 16 == 0,
          runs := fieldLe bs 0x6C 4 }
  | _, .error f => .error f
  | .error f, _ => .error f
  | _, _ => .error 0x14

def Tcb.state (b : Tcb) : Nat := bitsOf b.dep 16 4
def Tcb.pcount (b : Tcb) : Nat := b.dep % 65536

/-- The task that a TCB describes, not yet entered. -/
def Tcb.task (b : Tcb) (vd id : Nat) (tcb : Cap) (queue : Option (Nat × Nat)) (args : List Word) (c1 c2 : Cap) : Task :=
  { vd := vd, tcb := tcb, queue := queue, entry := b.entry, sched := BitVec.ofNat 64 (b.sched % 2 ^ 32 + id * 2 ^ 32), affinity := b.affinity,
    args := args, c1 := c1, c2 := c2, st := .unlaunched, members := [], retired := [], captured := [], saves := [], since := 0,
    halted := false, cancel := false, crossed := false, walked := false, from_ := 0, left := [], fate := 0, fcause := 0, grace := none, runs := 0, unbind := false, ordinal := b.runs,
    tiles := 0 }

/-- Checks 2 to 7 of R63. -/
def State.tcbFault (s : State) (b : Tcb) (t : Task) : Option Byte :=
  let al := (s.allowed t).length
  if !b.zeros then some 0x90
  else if schedFpol t.sched == 3 then some 0x95
  else if schedGang t.sched > 32 then some 0x92
  else if al == 0 then some 0x91
  else if schedGang t.sched > al then some 0x92
  else b.entry.checkRaw b.entry.cursor.toNat 1 permExec kindExec

/-- Check 8 (R79): none where it fails; otherwise whether the heat has left OPEN. -/
def State.heatCheck (s : State) (t : Task) : Option Bool :=
  if !schedHv t.sched then some false
  else match s.heat (schedHeat t.sched) with
    | none => none
    | some x =>
      if x.vd == t.vd && schedSib t.sched < x.n && (x.sib (schedSib t.sched)).taskId.isNone && schedGang t.sched ≤ 1
      then some (x.st != .open_) else none

/-- The tasks that the Marshal tracks, with the LAUNCH packets that have been accepted and not started (R76). -/
def State.tracked (s : State) : Nat :=
  s.tasks.length + s.queues.foldl (fun (n : Nat) p =>
    n + if p.2.kind == 1 then (p.2.pend.filter (fun x => !x.started && pktWord x.bytes 0 % 256 == 1)).length else 0) 0

def taskLimit : Nat := 2 ^ 20

/-- The next task id of a virtual device (R46). -/
def State.newId (s : State) (vd : Nat) : Nat × State :=
  let n := ((AMap.find s.vds vd).map (·.assigned)).getD 0
  (vd * 2 ^ 27 + n % 2 ^ 27, s.onVd vd (fun d => { d with assigned := n + 1 }))

/-- TASKID written into a TCB (R46, R374). -/
def State.writeTaskId (s : State) (t : Task) (id : Nat) : State := s.unitTry 0 t.vd t.tcb (t.at_ 0x1C) (leBytes 4 id)

/-- The task joins its heat's sibling slot (R63, R79). -/
def State.joinHeat (s : State) (id : Nat) (t : Task) : State :=
  if schedHv t.sched then
    s.onSib (schedHeat t.sched) (schedSib t.sched) (fun b => { b with taskId := some id, tstate := if b.fate == 3 then b.tstate else 0xFF })
  else s

/-- A launch that fails a check after the first (R63). -/
def State.launchFail (s : State) (t : Task) (id : Nat) (cause : Byte) : State :=
  match t.queue with
  | none => s
  | some (q, seq) =>
    (((s.writeTaskId t id).onOutc t (outcWith false resFault cause.toNat)).writeState t .faulted).outcome q seq resFault cause.toNat

/-- LAUNCH of the TCB at a capability's cursor under task id id (R45, R62 to R65, R79, R374). -/
def State.launchTask (s : State) (vd id : Nat) (tcb : Cap) (q seq : Nat) (args : List Word) (c1 c2 : Cap) : State :=
  match s.readTcb vd tcb with
  | .error f => (s.unitFail 0 f tcb.cursor.toNat).outcome q seq resFault f.toNat
  | .ok b =>
    let t := b.task vd id tcb (some (q, seq)) args c1 c2
    if b.state != 0 && b.state != TaskState.cancelled.code then s.outcome q seq resFault 0x96
    else match s.tcbFault b t with
      | some f => s.launchFail t id f
      | none =>
        match s.heatCheck t with
        | none => s.launchFail t id 0x94
        | some late =>
          let s1 := (s.writeTaskId t id).joinHeat id t
          if late || b.state != 0 then
            let s2 := if schedHv t.sched then
                s1.onSib (schedHeat t.sched) (schedSib t.sched) (fun x => { x with tstate := if x.tstate == 0xFF then 0 else x.tstate })
              else s1
            (s2.putTask id t).finishTask id { fate := 3, res := resCancelled, cause := 0, quiet := false }
          else
            -- one atomic on DEP sets WAITING and returns PCOUNT (R65)
            let (pc, s2) := match s1.unitAtomic vd tcb (t.at_ 0x10) 8 (fun w => w - bitsOf w 16 4 * 65536 + TaskState.waiting.code * 65536) with
              | .ok (old, u) => (old % 65536, u)
              | .error f => (b.pcount, s1.unitFail 0 f (t.at_ 0x10))
            let s3 := s2.putTask id { t with st := .waiting }
            if pc == 0 then s3.makeReady id else s3

end Sys2Proof.Machine
end

