-- ==== Sys2Proof/Machine/Transfers.lean ====
section
/-! DEFINITION. Instructions that hand work to the BTEs and the CHUs and wait for it: BTE.PUT, WAITC, TESTC, BANK.MV and the end of a bank
half (R47, R152, R163, R164, R270 to R273). -/

namespace Sys2Proof.Machine

open Sys2Proof

/-! ### Descriptors (R270, R273) -/

/-- A 128-byte descriptor through a capability: its bytes and the tags of its granules, which TGLOAD alone lets through. -/
def State.descriptor (s : State) (c : Cap) : Except Byte (State × List Byte × List Bool) :=
  match s.access c c.cursor.toNat 128 permLoad kindRead memSpaces Use.read with
  | .error f => .error f
  | .ok (_, ps) =>
    let t := s.flushFor ps
    match ps.find? (fun p => c.has permTgload && t.anyBadMeta p.key p.size) with
    | some p => .error (class3 p.key 3)
    | none => (t.readNow ps).map (fun bs => (t.noteAccess c.cursor 128, bs, ps.map (fun p => c.has permTgload && t.tagAt p.key)))

/-- The capability in granule i of a descriptor. -/
def descCap (bs : List Byte) (tags : List Bool) (i : Nat) : Cap := Cap.ofBytes (sliceOf bs (16 * i) 16) (tags.getD i false)

/-- A capability, the first address and length that it must cover, its permissions and access kind. -/
structure Span where
  cap : Cap
  at_ : Nat
  n : Nat
  perms : Nat
  kind : Nat
deriving DecidableEq, Repr

/-- The first capability that fails the checks of R42 over its range: its cause and its cursor. -/
def spanFault : List Span → Option (Byte × Word)
  | [] => none
  | p :: ps =>
    match p.cap.check p.at_ p.n p.perms p.kind with
    | .error f => some (f, p.cap.cursor)
    | .ok _ => spanFault ps

/-- The completion object of a capability: 576 bytes at its Base. -/
def objSpan (c : Cap) : Span := { cap := c, at_ := c.base.toNat, n := 576, perms := permStore + permEngine, kind := kindWrite }
def objOk (c : Cap) : Bool := decide (0 ≤ c.base) && c.base % 64 == 0
/-- A completion-object capability with its cursor at Base. -/
def objCap (c : Cap) : Cap := c.withCursor (BitVec.ofInt 64 c.base)

/-! ### BTE.PUT (R47, R270, R271) -/

def ceilDiv (n d : Nat) : Nat := (n + d - 1) / d

/-- The limits of R47 on a command's shape: mode, length of a row, rows, strides, FIRSTBIT and the destination's address. -/
def copyLimits (mode len rows ss ds firstbit dst : Nat) : Bool :=
  match mode with
  | 0 => 1 ≤ len && len ≤ 0x200000 && rows == 0 && firstbit + ceilDiv len 512 ≤ 4096
  | 1 =>
    1 ≤ len && 1 ≤ rows && rows ≤ 4096 && (if ss == 0 then rows == 1 else ss ≥ len) && (if ds == 0 then rows == 1 else ds ≥ len) &&
      firstbit + rows * ceilDiv len 512 ≤ 4096
  | 2 => 8 ≤ len && len ≤ 0x200000 && len % 8 == 0 && rows == 0 && dst % 8 == 0 && firstbit + ceilDiv len 512 ≤ 4096
  | _ => false

/-- The command that a descriptor describes. -/
def directBte (s : State) (n : Nat) (bs : List Byte) (tags : List Bool) (scope : Option Nat) : Bte :=
  let ctl := fieldLe bs 0x30 8
  let len := fieldLe bs 0x38 8
  let mode := ctl % 4
  let rows := if mode == 1 then bitsOf len 22 16 else 1
  let b : Bte :=
    { queue := none, region := s.cur, vd := s.vd.getD 32, sup := s.vd.isNone, bte := n, mode := mode, resume := ctl.testBit 2,
      src := descCap bs tags 0, dst := descCap bs tags 1, cmpl := objCap (descCap bs tags 2), rowlen := len % 2 ^ 22, rows := rows,
      sstride := fieldLe bs 0x40 4, dstride := fieldLe bs 0x44 4, value := BitVec.ofNat 64 (fieldLe bs 0x48 8), firstbit := bitsOf ctl 16 12,
      started := false, todo := [], flight := [], failed := [], detail := [], landed := [], after := s.stamp, scope := scope, body := sliceOf bs 0x30 64,
      stopped := false }
  { b with todo := List.range b.chunks }

/-- Check 1 of R270. -/
def directOk (bs : List Byte) (b : Bte) (cmpl : Cap) : Bool :=
  let ctl := fieldLe bs 0x30 8
  let len := fieldLe bs 0x38 8
  bitsOf ctl 3 13 == 0 && ctl / 2 ^ 28 == 0 && len / 2 ^ 38 == 0 && (bs.drop 0x50).all (· == 0) && objOk cmpl &&
    copyLimits b.mode b.rowlen (bitsOf len 22 16) b.sstride b.dstride b.firstbit b.dst.cursor.toNat

/-- The ranges of check 2 of R270. -/
def directSpans (b : Bte) (cmpl : Cap) : List Span :=
  (if b.mode == 2 then [] else
    [{ cap := b.src, at_ := b.src.cursor.toNat, n := (b.rows - 1) * b.sstride + b.rowlen, perms := permLoad + permEngine, kind := kindRead }]) ++
  [{ cap := b.dst, at_ := b.dst.cursor.toNat, n := (b.rows - 1) * b.dstride + b.rowlen, perms := permStore + permEngine, kind := kindWrite },
   objSpan cmpl]

/-- The current region's direct queue at a BTE holds eight commands with chunks to start (R271). -/
def State.directFull (s : State) (n : Nat) : Bool :=
  (s.btes.filter (fun p => p.2.queue.isNone && p.2.region == s.cur && p.2.bte == n && !(p.2.started && p.2.todo.isEmpty))).length ≥ 8

/-- BTE.PUT (R271); a fault that a port finds in its descriptor is a deferred store fault (R256, log 79). -/
def execBtePut (d : XReg) (ca : CReg) (b : XReg) (sc : BitVec 3) (ok : BitVec 2) (s : State) : Out :=
  let i := Instr.btePut d ca b sc ok
  let c := s.rc ca
  let n := (s.rx b).toNat
  if !qualOk sc ok [0, 2] then s.fail0 0x03 i
  else if n ≥ 64 || c.cursor.toNat % 64 != 0 then s.fail0 0x0E i
  else match s.descriptor c with
    | .error f => s.failData i d c c.cursor.toNat 128 f
    | .ok (s1, bs, tags) =>
      let cmd := directBte s1 n bs tags (if ok == 2 then some sc.toNat else none)
      let cmpl := descCap bs tags 2
      if !directOk bs cmd cmpl then s1.fail0 0x0E i
      else match spanFault (directSpans cmd cmpl) with
        | some (f, a) => s1.fail f a
        | none =>
          if s1.directFull n then s1.ret d 1
          else ({ s1 with btes := AMap.put s1.btes s1.stamp cmd, stamp := s1.stamp + 1 } : State).ret d 0

/-! ### WAITC and TESTC (R272) -/

/-- A capability whose Base is a completion object: LOAD, and at least 0x210 bytes; the class-1 cause where its tag is clear. -/
def objRead (c : Cap) : Option Byte :=
  if !c.tag then some 0x10 else if !c.has permLoad || !objOk c || decide (c.top - c.base < 0x210) then some 0x0E else none

/-- WAITC (R272): it waits, with no request in the ordering machine, until the word or NFAIL ends the wait. -/
def execWaitc (d : XReg) (ca : CReg) (b : XReg) (s : State) : Out :=
  let i := Instr.waitc d ca b
  let c := s.rc ca
  let a := c.cursor.toNat
  let m := s.rx b
  if a % 8 != 0 then s.fail0 0x0E i
  else match objRead c with
    | some f => s.failAt i c.cursor f
    | none =>
      if decide ((a : Int) < c.base) || decide (c.base + 0x1F8 < (a : Int)) then s.fail0 0x0E i
      else match s.fetchData c a 8 permLoad memSpaces with
        | .error f => s.failData i d c a 8 f
        | .ok (s1, w) =>
          match s1.fetchData c (c.base.toNat + 0x200) 8 permLoad memSpaces with
          | .error f => s1.failData i d c (c.base.toNat + 0x200) 8 f
          | .ok (s2, nf) =>
            let v := BitVec.ofNat 64 (leNat w)
            if v &&& m == m || leNat nf != 0 then s2.ret d v else s2.block

/-- TESTC (R272). -/
def execTestc (d : XReg) (ca : CReg) (b : XReg) (s : State) : Out :=
  let i := Instr.testc d ca b
  let c := s.rc ca
  let k := (s.rx b).toNat
  if k ≥ 4096 then s.fail0 0x0E i
  else match objRead c with
    | some f => s.failAt i c.cursor f
    | none =>
      let a := c.base.toNat + k / 8
      match s.fetchData c a 1 permLoad memSpaces with
      | .error f => s.failData i d c a 1 f
      | .ok (s1, w) => s1.ret d (if (leNat w).testBit (k % 8) then 1 else 0)

/-! ### BANK.MV (R163, R164, R273) -/

/-- The command that a descriptor describes. -/
def bankOf (s : State) (bs : List Byte) (tags : List Bool) (scope : Option Nat) : Bank :=
  let p0 := fieldLe bs 0x50 8
  let p1 := fieldLe bs 0x58 8
  { region := s.cur, vd := s.vd.getD 32, w := descCap bs tags 0, xv := descCap bs tags 1, y := descCap bs tags 2,
    cmpl := objCap (descCap bs tags 3), bar := descCap bs tags 4, k := p0 % 2 ^ 11, wfmt := bitsOf p0 16 5, bit := bitsOf p0 32 12,
    first := p1 % 2 ^ 32, count := bitsOf p1 32 17, after := s.stamp, scope := scope, vals := [], fails := [], put := none }

/-- The zero fields of a BANK.MV descriptor, and the places of its object and its barrier. -/
def bankZeros (bs : List Byte) (b : Bank) (cmpl : Cap) : Bool :=
  let p0 := fieldLe bs 0x50 8
  let p1 := fieldLe bs 0x58 8
  bitsOf p0 11 5 == 0 && bitsOf p0 21 11 == 0 && p0 / 2 ^ 44 == 0 && p1 / 2 ^ 49 == 0 && (bs.drop 0x60).all (· == 0) && objOk cmpl &&
    b.bar.cursor.toNat % 16 == 0

/-- The shape of R163. -/
def bankShape (b : Bank) : Bool :=
  (b.wfmt == 2 || b.wfmt == 4 || b.wfmt == 5 || b.wfmt == 9) && 16 ≤ b.k && b.k ≤ 1024 && b.k % 16 == 0 && b.k * b.size ≤ 2048 &&
    1 ≤ b.count && b.count ≤ 65536 && b.first + b.count ≤ 2 ^ 32 && b.w.spaceAt == 3 && b.w.cursor.toNat % 2048 == 0

def bankSpans (b : Bank) (cmpl : Cap) : List Span :=
  [{ cap := b.w, at_ := b.w.cursor.toNat + 2048 * b.first, n := 2048 * (b.count - 1) + b.k * b.size, perms := permLoad + permEngine, kind := kindRead },
   { cap := b.xv, at_ := b.xv.cursor.toNat, n := 2 * b.k, perms := permLoad + permEngine, kind := kindRead },
   { cap := b.y, at_ := b.y.cursor.toNat + 4 * b.first, n := 4 * b.count, perms := permStore + permEngine, kind := kindWrite },
   objSpan cmpl,
   { cap := b.bar, at_ := b.bar.cursor.toNat, n := 16, perms := permAtomic + permEngine, kind := kindAtomic }]

/-- Rows from i, n of them, enter the queues of the CHUs that own them; a row with no translation fails. -/
def State.bankRows (s : State) (id : Nat) (b : Bank) : Nat → Nat → State
  | 0, _ => s
  | n + 1, i =>
    let s1 := match s.unitKeys b.vd b.w (b.w.cursor.toNat + 2048 * i) (b.k * b.size) permLoad kindRead Use.read with
      | .ok ((k, _, _) :: _) =>
        (s.enter (.bank id) .pq [{ key := k, va := BitVec.ofNat 64 i, port := portOf k, cmpr := false, act := .bankRow id i }]).1
      | .ok [] => s
      | .error f => match AMap.find s.banks id with
        | some x => { s with banks := AMap.put s.banks id { x with fails := AMap.put x.fails i f.toNat } }
        | none => s
    s1.bankRows id b n (i + 1)

/-- BANK.MV (R273): it completes once its descriptor is checked; a fault that a port finds in it is a deferred store fault (R256, log 79). -/
def execBankMv (ca : CReg) (sc : BitVec 3) (ok : BitVec 2) (s : State) : Out :=
  let i := Instr.bankMv ca sc ok
  let c := s.rc ca
  if !qualOk sc ok [0, 2] then s.fail0 0x03 i
  else if c.cursor.toNat % 64 != 0 then s.fail0 0x0E i
  else match s.descriptor c with
    | .error f => s.failRead i c c.cursor.toNat 128 permLoad memSpaces f State.deferred
    | .ok (s1, bs, tags) =>
      let b := bankOf s1 bs tags (if ok == 2 then some sc.toNat else none)
      let cmpl := descCap bs tags 3
      if !bankZeros bs b cmpl then s1.fail0 0x0E i
      -- TVAL of class 6 names an engine, which BANK.MV has not: a free value (log 3)
      else if !bankShape b then let (w, s2) := s1.drawWord; s2.fail 0x6F w
      else match spanFault (bankSpans b cmpl) with
        | some (f, a) => s1.fail f a
        | none =>
          let id := s1.stamp
          .next ((({ s1 with banks := AMap.put s1.banks id b, stamp := id + 1 } : State).bankRows id b b.count b.first).advance)

/-- The bank half's arrival at its barrier; FAILED with the half and a cause where a row failed (R164, R279). One that the barrier refuses is
lost: faults of the half never trap (R128). -/
def State.bankArrive (s : State) (b : Bank) (cause : Option Nat) : State :=
  match s.unitKeys b.vd b.bar b.bar.cursor.toNat 16 permAtomic kindAtomic Use.store with
  | .ok ((k, _, cm) :: _) =>
    match s.arrive k 1 cm with
    | .error _ => s
    | .ok (t, _) =>
      match cause with
      | none => t.written k
      | some c => match t.setObj k (t.w0 k) (2 ^ 56 + 2 ^ 48 + c * 2 ^ 40 + 2 * 2 ^ 32 + t.w1 k % 2 ^ 32) cm with
        | .ok u => u.written k
        | .error _ => t.written k
  | _ => s

/-- The pieces of the output, one per granule: addresses and numbers of bytes. -/
def Bank.parts (b : Bank) : List (Nat × Nat) := pieces (b.y.cursor.toNat + 4 * b.first) (4 * b.count)

/-- The bytes of the output's granule n; a row that failed has none, for which zeros stand. -/
def Bank.bytesOf (b : Bank) (n : Nat) : List Byte :=
  let p := b.parts.getD n (0, 0)
  sliceOf ((b.fails.foldl (fun m f => AMap.put m f.1 0) b.vals).flatMap (fun v => leBytes 4 v.2)) (p.1 - (b.y.cursor.toNat + 4 * b.first)) p.2

/-- The half's cause for a write that its port refuses: one for a live-sync granule, as a chunk's (R128). -/
def bankCause (c : Byte) : Byte := if c.toNat / 16 == 7 then 0x6B else c

/-- The half's completion bit, set by one atomic OR at the object's port (R164). -/
def State.bankBit (s : State) (b : Bank) : Except Byte State :=
  match s.unitKeys b.vd b.cmpl (b.cmpl.cursor.toNat + b.bit / 8) 1 permStore kindWrite Use.store with
  | .ok ((k, _, cm) :: _) => (s.atomicAt k 1 cm (fun v => v ||| 2 ^ (b.bit % 8))).map (fun r => r.1.written k)
  | _ => .error 0x6C

/-- The writes of the output's granules n, in order, and the state after them; or the first row that may not be written, and why. -/
def State.bankPlan (s : State) (b : Bank) : List Nat → Except (Nat × Nat) (State × List (Nat × Bool × List Byte))
  | [] => .ok (s, [])
  | n :: ns =>
    let p := b.parts.getD n (0, 0)
    let row := b.first + (p.1 - (b.y.cursor.toNat + 4 * b.first)) / 4
    match s.unitKeys b.vd b.y p.1 p.2 permStore kindWrite Use.store with
    | .error f => .error (row, f.toNat)
    | .ok ks =>
      match ks.head? with
      | none => s.bankPlan b ns
      | some (k, _, cm) =>
        let bs := b.bytesOf n
        match s.refuses k (plain bs) cm 1 with
        | some c => .error (row, (bankCause c).toNat)
        | none => ((s.applyWrite k (plain bs) cm).bankPlan b ns).map (fun r => (r.1, (k, cm, bs) :: r.2))

/-- What the half will write; or why it may write none of its rows: the failing row of lowest index, one that could not be computed or one that may not
be written (R128, R164); or an object whose bit cannot be set (log 42). -/
def State.bankWrites (s : State) (b : Bank) : Except Nat (List (Nat × Bool × List Byte)) :=
  match b.fails, s.bankPlan b (List.range b.parts.length) with
  | (i, c) :: _, .error (j, f) => .error (if j < i then f else c)
  | (_, c) :: _, .ok _ => .error c
  | [], .error (_, f) => .error f
  | [], .ok (t, ws) =>
    if !memSpaces.contains b.cmpl.spaceAt then .error 0x6C
    else match t.bankBit b with
      | .ok _ => .ok ws
      | .error _ => .error 0x6C

/-- One of the half's writes is made. Nothing that has happened to its granule since the half began to write undoes it: what has become of the
granule came after it, and an object that has been made there has taken its place (log 42). -/
def State.bankWrite (s : State) (w : Nat × Bool × List Byte) : State :=
  if s.liveAt w.1 then s else (s.applyWrite w.1 (plain w.2.2) w.2.1).written w.1

/-- A step of a bank half whose rows are all computed or failed, with the turn given to its region: whether it may write; then one granule of its
output after another (R179); then its bit and its arrival. -/
def State.bankStep (s : State) (id : Nat) (b : Bank) : State :=
  let ends := fun (u : State) (c : Option Nat) => ({ u with banks := AMap.del u.banks id } : State).bankArrive b c
  match b.put with
  | none =>
    match s.bankWrites b with
    | .error c => ends s (some c)
    | .ok ws => { s with banks := AMap.put s.banks id { b with put := some ws } }
  | some (w :: ws) => let t := s.bankWrite w; { t with banks := AMap.put t.banks id { b with put := some ws } }
  | some [] =>
    match s.bankBit b with
    | .ok t => ends t none
    | .error _ => ends s (some 0x6C)

/-- BANK_HALF_COMPLETE (R164, R179): the oldest bank half whose rows are all computed takes a step towards its end. -/
def execBankHalfComplete (s : State) : Out :=
  .next (match s.banks.find? (fun p => p.2.vals.length + p.2.fails.length == p.2.count) with
    | some (id, b) => s.as b.region (fun t => t.bankStep id b)
    | none => s)

end Sys2Proof.Machine
end

