-- ==== Sys2Proof/Machine/Packets.lean ====
section
/-! DEFINITION. Queue consumers (R37 to R41, R57, R58, R76), the checks on packets (R42, R44), and task and copy packets (R45 to R48). -/

namespace Sys2Proof.Machine

open Sys2Proof

/-! ### Packet fields and the checks of R44 -/

def Pkt.w (p : Pkt) (i : Nat) : Nat := pktWord p.bytes i
def Pkt.opc (p : Pkt) : Nat := p.w 0 % 256
/-- CAPIX and OFFSET of an address field. -/
def adIx (w : Nat) : Nat := w % 256
def adOff (w : Nat) : Nat := w / 2 ^ 16

/-- The operations of a KIND (R44). -/
def opcOk (kind opc : Nat) : Bool :=
  match kind with
  | 1 => 1 ≤ opc && opc ≤ 3
  | 2 => 0x10 ≤ opc && opc ≤ 0x12
  | 3 => (0x20 ≤ opc && opc ≤ 0x23) || (0x30 ≤ opc && opc ≤ 0x36) || opc == 0x40
  | _ => false

/-- The reserved bits of W1 to W6 of a packet are zero. A word or a field that this chapter names for other packets and not for this one counts
as reserved too (the model's choice, log 44); the virtual device's field is the number itself, which R49 answers with BADARG above 31. -/
def operandsOk (w : Nat → Nat) (opc : Nat) : Bool :=
  let ad := fun i => bitsOf (w i) 8 8 == 0
  let below := fun (i n : Nat) => w i / 2 ^ n == 0
  let none_ := fun (l : List Nat) => l.all (fun i => w i == 0)
  let qid := bitsOf (w 1) 0 16 == 0 && below 1 28
  match opc with
  | 0x01 => ad 1 && below 6 16
  | 0x02 => below 1 32 && none_ [2, 3, 4, 5, 6]
  | 0x03 => ad 1 && none_ [3, 4, 5, 6]
  | 0x10 => ad 1 && ad 2 && ad 4 && below 3 22 && below 5 12 && none_ [6]
  | 0x11 => ad 1 && ad 2 && ad 4 && below 3 38 && below 5 12
  | 0x12 => none_ [1] && ad 2 && ad 4 && below 3 22 && below 5 12
  | 0x20 => below 1 28
  | 0x21 => qid && none_ [2, 3, 4, 5, 6]
  | 0x22 => qid && below 2 48 && none_ [3, 4, 5, 6]
  | 0x23 => bitsOf (w 1) 8 8 == 0 && below 1 28 && bitsOf (w 4) 3 5 == 0 && below 4 15 && none_ [5, 6]
  | 0x30 => below 2 32 && below 4 4 && below 5 48 && below 6 49
  | 0x34 => below 3 17 && none_ [5, 6]
  | 0x35 => below 3 32 && none_ [4, 5, 6]
  | 0x36 => none_ [3, 4, 5, 6]
  | 0x40 => none_ [2, 3, 4, 5, 6]
  | _ => none_ [2, 3, 4, 5, 6]

/-- The address that an address field names: base of the entry + OFFSET. -/
def State.adAddr (s : State) (q : Queue) (w : Nat) : Nat := ((s.capEntry q (adIx w)).base + (adOff w : Int)).toNat

/-- The limits of R36, R45, R47 and R49. A CAPT or a page-table root beyond the 512 GiB of HBM is no limit's concern: the address wraps (the model's
choice, log 14). -/
def State.limitsOk (s : State) (q : Queue) (w : Nat → Nat) (opc : Nat) : Bool :=
  let copy := fun (mode : Nat) =>
    copyLimits mode (w 3 % 2 ^ 22) (if mode == 1 then bitsOf (w 3) 22 16 else 0) (w 6 % 2 ^ 32) (w 6 / 2 ^ 32) (w 5) (s.adAddr q (w 2)) &&
      s.adAddr q (w 4) % 64 == 0
  match opc with
  | 0x01 => adOff (w 1) % 128 == 0
  | 0x03 => s.adAddr q (w 1) % 8 == 0
  | 0x10 => copy 0
  | 0x11 => copy 1
  | 0x12 => copy 2
  | 0x20 =>
    w 5 / 2 ^ 14 == 0 && (w 5 % 16 == 1 || w 5 % 16 == 2) && bitsOf (w 5) 4 4 ≤ 10 && 1024 ≤ w 6 && w 6 ≤ 2 ^ 40 && w 2 % 128 == 0 &&
      w 3 % 4096 == 0 && w 4 % 4096 == 0
  | 0x34 => w 2 % 65536 == 0 && 1 ≤ w 3 && w 3 ≤ 65536
  | _ => true

/-- The checks of R44. -/
def State.packetOk (s : State) (q : Queue) (bs : List Byte) : Bool :=
  let w := pktWord bs
  let opc := w 0 % 256
  opcOk q.kind opc && bitsOf (w 0) 10 22 == 0 && (q.kind == 2 || !(w 0).testBit 9) && bitsOf (w 7) 0 63 == 0 && operandsOk w opc &&
    s.limitsOk q w opc

/-! ### The checks of R42 -/

/-- The range that an address field must cover. -/
def State.adSpan (s : State) (q : Queue) (w n perms kind : Nat) : Span :=
  { cap := s.capEntry q (adIx w), at_ := s.adAddr q w, n := n, perms := perms, kind := kind }

/-- The entries that a packet names (R42): c1 and c2 of a LAUNCH name none with 0xFF. -/
def packetEntries (w : Nat → Nat) (opc : Nat) : List Nat :=
  match opc with
  | 0x01 => adIx (w 1) :: [w 6 % 256, bitsOf (w 6) 8 8].filter (· != 0xFF)
  | 0x03 => [adIx (w 1)]
  | 0x10 => [adIx (w 1), adIx (w 2), adIx (w 4)]
  | 0x11 => [adIx (w 1), adIx (w 2), adIx (w 4)]
  | 0x12 => [adIx (w 2), adIx (w 4)]
  | _ => []

/-- The checks of R42 on a packet's entries, in the order of its words: the ranges, and, for the entries of c1 and c2, which have none, the tag
(as a read's, log 43). -/
def State.packetSpans (s : State) (q : Queue) (w : Nat → Nat) (opc : Nat) : List Span :=
  let len := w 3 % 2 ^ 22
  let rows := if opc == 0x11 then bitsOf (w 3) 22 16 else 1
  let src := s.adSpan q (w 1) ((rows - 1) * (if opc == 0x11 then w 6 % 2 ^ 32 else 0) + len) permLoad kindRead
  let dst := s.adSpan q (w 2) ((rows - 1) * (if opc == 0x11 then w 6 / 2 ^ 32 else 0) + len) permStore kindWrite
  let obj := s.adSpan q (w 4) 576 permStore kindWrite
  let untagged := fun (ix : Nat) => if ix == 0xFF || (s.capEntry q ix).tag then [] else [{ cap := s.capEntry q ix, at_ := 0, n := 0, perms := 0, kind := kindRead }]
  match opc with
  | 0x01 => [s.adSpan q (w 1) 128 permLoad kindRead, s.adSpan q (w 1) 128 permStore kindWrite] ++ untagged (w 6 % 256) ++ untagged (bitsOf (w 6) 8 8)
  | 0x03 => [s.adSpan q (w 1) 8 permStore kindWrite]
  | 0x10 => [src, dst, obj]
  | 0x11 => [src, dst, obj]
  | 0x12 => [dst, obj]
  | _ => []

/-- The capabilities that an accepted packet keeps: the entries it names, with their cursors (R43, R45, R47). -/
def State.packetCaps (s : State) (q : Queue) (w : Nat → Nat) (opc : Nat) : List Cap :=
  let at_ := fun (x : Nat) => (s.capEntry q (adIx x)).withCursor (BitVec.ofNat 64 (s.adAddr q x))
  let plainEntry := fun (ix : Nat) => if ix == 0xFF then Cap.null else s.capEntry q ix
  match opc with
  | 0x01 => [at_ (w 1), plainEntry (w 6 % 256), plainEntry (bitsOf (w 6) 8 8)]
  | 0x03 => [at_ (w 1)]
  | 0x10 => [at_ (w 1), at_ (w 2), at_ (w 4)]
  | 0x11 => [at_ (w 1), at_ (w 2), at_ (w 4)]
  | 0x12 => [Cap.null, at_ (w 2), at_ (w 4)]
  | _ => []

/-! ### Acceptance (R38, R57, R58, R76) -/

/-- Granule i of the slot at r, if it can be read (R38, R39). -/
def State.slotGranule (s : State) (q : Queue) (i : Nat) : Option (List Byte) :=
  (s.slotKey q q.r).bind (fun k => if s.anyBad (k + 16 * i) 16 then none else some (s.rd (k + 16 * i) 16))

/-- The slot's last granule, if it shows the current PHASE (R38). -/
def State.slotLast (s : State) (q : Queue) : Option (List Byte) :=
  (s.slotGranule q 3).filter (fun g => fieldLe g 8 8 / 2 ^ 63 == q.phase q.r)

/-- The packet has come: its PHASE has been seen, or stands in the slot (R38, R57). -/
def State.slotReady (s : State) (q : Queue) : Bool := !q.seen.isEmpty || (s.slotLast q).isSome

/-- The 64 bytes that the consumer has read, once it has read all four granules. -/
def Queue.packet (q : Queue) : Option (List Byte) :=
  match q.seen with
  | [g3, g0, g1, g2] => some (g0 ++ g1 ++ g2 ++ g3)
  | _ => none

/-- The consumer may work on its queue: READY, the journal enabled, the queue neither stopped nor closed, its virtual device running
(R23, R40, R41, R49, R54). It works on while the Isaud link is down: what stands in a queue has come already (the model's choice, log 76). -/
def State.consuming (s : State) (q : Queue) : Bool :=
  s.mgc.boot == .ready && s.jnl.en && q.destroying.isEmpty && (q.state == .run || q.state == .stalled) &&
    (q.kind == 3 || match AMap.find s.vds q.vd with | some d => !d.stopped | none => false)

/-- A packet of a queue may be accepted: room in the journal, and for a LAUNCH room in the Marshal (R57, R76). -/
def State.mayAccept (s : State) (q : Queue) (bs : List Byte) : Bool :=
  let opc := pktWord bs 0 % 256
  s.room ≥ (if q.kind == 3 && opc == 0x22 then 3 else 2) && (q.kind != 1 || opc != 1 || s.tracked < taskLimit)

/-- A queue's stall timer does not run: the journal has no room for a packet, or the Marshal none for a task (R57, R76). -/
def State.timerOff (s : State) (q : Queue) : Bool := s.room < 2 || (q.kind == 1 && s.tracked ≥ taskLimit)

/-- fc that pass while a queue's stall timer does not run are not counted (R57, R76). -/
def State.holdTimers (s : State) (fc : Nat) : State :=
  { s with queues := AMap.mapV s.queues (fun q => if s.timerOff q then { q with waitFrom := q.waitFrom.map (· + fc) } else q) }

/-- Why a packet is refused as a whole, in the order of R44 and R42: outcome and cause; an entry that cannot be read gives FAULT (log 43). -/
def State.refusal (s : State) (q : Queue) (bs : List Byte) : Option (Nat × Nat) :=
  let w := pktWord bs
  let opc := w 0 % 256
  if !s.packetOk q bs then some (resBadpkt, 0)
  else if (packetEntries w opc).any (s.entryBad q) then some (resFault, 0x34)
  else (spanFault (s.packetSpans q w opc)).map (fun f => (resCapfault, f.1.toNat))

/-- The packet of sequence number r is accepted: its ACCEPT entry, its reservation, RIDX, and, where a check refuses it, its outcome. A queue
that was STALLED runs again from SEQ r (the model's choice of that SEQ, log 43). -/
def State.accept (s : State) (qid : Nat) (q : Queue) (bs : List Byte) : State :=
  let w := pktWord bs
  let opc := w 0 % 256
  let refused := s.refusal q bs
  let (id, s1) := if q.kind == 1 && opc == 1 then s.newId q.vd else (utag bs, s)
  let p : Pkt := { seq := q.r, bytes := bs, caps := if s.packetOk q bs then s.packetCaps q w opc else [], taskId := id, started := false }
  let s2 := s1.journal qid q.r 0 0 0 p.id bs
  let s3 := { s2 with jnl := { s2.jnl with resv := s2.jnl.resv + 1 } }
  let q1 := { q with r := q.r + 1, used := true, heldStall := false, waitFrom := none, pend := q.pend ++ [p], seen := [] }
  let s4 := (s3.putQueue qid q1).putDesc q 0x40 (q.r + 1)
  let s5 := if q.state == .stalled then s4.queueState qid .run q.r else s4
  match refused with
  | some (res, c) => s5.outcome qid q.r res c
  | none => s5

/-- The packet that the consumer has read is accepted, if it may be. -/
def State.tryAccept (s : State) (qid : Nat) (q : Queue) : State :=
  match q.packet with
  | some bs => if s.mayAccept q bs then s.accept qid q bs else s
  | none => s

/-- The awaited packet's PHASE is seen: the stall timer stops, and a STALL entry that is still held is dropped with the queue back to RUN
(R40, R57). -/
def State.arrived (s : State) (qid : Nat) (q : Queue) (g : List Byte) : State :=
  let s1 := s.putQueue qid { q with waitFrom := none, heldStall := false, seen := [g] }
  if q.heldStall && q.state == .stalled then s1.queueState qid .run q.r else s1

/-- PACKET_CONSUME (R38, R39): the consumer reads one granule of its next slot, the last one first and the others only once that shows the
current PHASE; with the fourth it has the packet and accepts it as soon as it may. The stall timer starts where the slot does not show the
current PHASE, and does not run where only room is wanting. A granule that cannot be read leaves the consumer waiting as for a missing
packet (log 43). -/
def execPacketConsume (qid : Nat) (s : State) : Out :=
  .next (match s.queue qid with
    | none => s
    | some q =>
      let waits := s.putQueue qid { q with waitFrom := some (q.waitFrom.getD s.now), seen := [] }
      if !s.consuming q then s
      else if s.widx q ≤ q.r then s.putQueue qid { q with waitFrom := none, seen := [] }
      else if q.seen.isEmpty then
        match s.slotLast q with
        | none => waits
        | some g => s.arrived qid q g
      else if q.seen.length < 4 then
        match s.slotGranule q (q.seen.length - 1) with
        | none => waits
        | some g =>
          let q1 := { q with seen := q.seen ++ [g] }
          (s.putQueue qid q1).tryAccept qid q1
      else s.tryAccept qid q)

/-! ### Stalls (R40, R57) -/

/-- An entry for the slot that the queue waits at; OPC, ID and DIGEST, of a packet that was not read, are free values. -/
def State.unreadEntry (s : State) (qid : Nat) (q : Queue) (kind : Nat) : State :=
  let (v, s1) := s.drawWord
  let (w, s2) := s1.drawWord
  s2.journalRaw qid q.r kind (q.r % q.slots) 0 (bitsOf v.toNat 0 8) (bitsOf v.toNat 32 32) (bitsOf w.toNat 0 32) q.jvd 0

/-- A STALL entry (R40). -/
def State.stallEntry (s : State) (qid : Nat) (q : Queue) : State := s.unreadEntry qid q 2

/-- QUEUE_STALL (R40): the stall limit has passed; the STALL entry is written, or held where there is no room. -/
def execQueueStall (qid : Nat) (s : State) : Out :=
  .next (match s.queue qid with
    | none => s
    | some q =>
      match q.waitFrom with
      | none => s
      | some t =>
        if s.consuming q && q.state == .run && s.widx q > q.r && !s.slotReady q && !s.timerOff q && s.now - t ≥ q.stall then
          let s1 := s.queueState qid .stalled q.r
          if s1.room ≥ 3 then s1.stallEntry qid q
          else match s1.queue qid with
            | some q1 => s1.putQueue qid { q1 with heldStall := true }
            | none => s1
        else s)

/-- STALL_ENTRY_WRITE (R57): a held entry is written once there is room; it is dropped where the packet has come. -/
def execStallEntryWrite (qid : Nat) (s : State) : Out :=
  .next (match s.queue qid with
    | none => s
    | some q =>
      if !(q.heldStall && q.state == .stalled) then s
      else if s.slotReady q then (s.putQueue qid { q with heldStall := false }).queueState qid .run q.r
      else if s.room ≥ 3 then (s.putQueue qid { q with heldStall := false }).stallEntry qid q
      else s)

/-! ### Starting packets (R44 ORDERED, R45, R48) -/

/-- A packet may start: with ORDERED, and for a NOTIFY, every earlier packet of its queue has its outcome. -/
def Queue.mayStart (q : Queue) (p : Pkt) : Bool := !((p.w 0).testBit 8 || (q.kind == 1 && p.opc == 3)) || q.earlierDone p.seq

/-- The next packet of a queue to start. A copy queue hands its packets to its BTE in order, which itself waits for ORDERED (R48); the
control queue takes them one at a time; a packet of a task queue waits for no other but by ORDERED or as a NOTIFY. -/
def Queue.nextPkt (q : Queue) : Option Pkt :=
  let new := q.pend.filter (fun p => !p.started)
  match q.kind with
  | 1 => new.find? q.mayStart
  | 2 => new.head?
  | _ => new.head?.filter q.mayStart

/-- The queue with a packet marked as started. -/
def State.markStarted (s : State) (qid seq : Nat) : State :=
  match s.queue qid with
  | none => s
  | some q => s.putQueue qid { q with pend := q.pend.map (fun p => if p.seq == seq then { p with started := true } else p) }

/-- The next packet of a queue, where it has the operation named, starts with effect f. -/
def State.startPkt (s : State) (qid opc : Nat) (f : State → Queue → Pkt → State) : Out :=
  .next (match s.queue qid with
    | none => s
    | some q =>
      match q.nextPkt with
      | some p => if p.opc == opc then f (s.markStarted qid p.seq) q p else s
      | none => s)

/-- LAUNCH (R45). -/
def execLaunch (qid : Nat) (s : State) : Out :=
  s.startPkt qid 0x01 fun s q p =>
    s.launchTask q.vd p.taskId (p.caps.getD 0 Cap.null) qid p.seq ((List.range 4).map (fun i => BitVec.ofNat 64 (p.w (2 + i))))
      (p.caps.getD 1 Cap.null) (p.caps.getD 2 Cap.null)

/-- CANCEL (R45). -/
def execCancel (qid : Nat) (s : State) : Out :=
  s.startPkt qid 0x02 fun s q p =>
    if s.cancellable q.vd (p.w 1) then (s.cancelTask (p.w 1)).outcome qid p.seq resOk 0 else s.outcome qid p.seq resNotfound 0

/-- Why a link keeps a unit from an address of HOST or PEER space (R18, R22, R122). -/
def State.unitLink (s : State) (c : Cap) (a : Nat) : Option Byte :=
  match c.spaceAt with
  | 4 => s.portFault none .host
  | 5 => s.portFault none (.peer (a / 2 ^ 48 % 256))
  | _ => none

/-- NOTIFY (R45): the store, or outcome FAULT with the cause of one that fails. -/
def execNotify (qid : Nat) (s : State) : Out :=
  s.startPkt qid 0x03 fun s q p =>
    let c := p.caps.getD 0 Cap.null
    match s.unitLink c c.cursor.toNat with
    | some f => s.outcome qid p.seq resFault f.toNat
    | none =>
      match s.unitWrite q.vd c c.cursor.toNat (leBytes 8 (p.w 2)) with
      | .ok t => t.outcome qid p.seq resOk 0
      | .error f => s.outcome qid p.seq resFault f.toNat

/-- The command of a copy packet. -/
def Pkt.bte (p : Pkt) (qid : Nat) (q : Queue) : Bte :=
  let st := p.opc == 0x11
  let b : Bte :=
    { queue := some (qid, p.seq), region := 0, vd := q.vd, sup := false, bte := q.bte, mode := p.opc - 0x10, resume := (p.w 0).testBit 9,
      src := p.caps.getD 0 Cap.null, dst := p.caps.getD 1 Cap.null, cmpl := p.caps.getD 2 Cap.null, rowlen := p.w 3 % 2 ^ 22,
      rows := if st then bitsOf (p.w 3) 22 16 else 1, sstride := if st then p.w 6 % 2 ^ 32 else 0, dstride := if st then p.w 6 / 2 ^ 32 else 0,
      value := BitVec.ofNat 64 (p.w 6), firstbit := p.w 5 % 4096, started := false, todo := [], flight := [], failed := [], detail := [], landed := [],
      after := 0, scope := none, body := p.bytes, stopped := false }
  { b with todo := List.range b.chunks }

/-- A copy packet becomes a command of its BTE (R47, R48). -/
def State.startCopy (s : State) (qid : Nat) (q : Queue) (p : Pkt) : State :=
  { s with btes := AMap.put s.btes s.stamp (p.bte qid q), stamp := s.stamp + 1 }

def execCopy (qid : Nat) (s : State) : Out := s.startPkt qid 0x10 fun s q p => s.startCopy qid q p
def execStrided (qid : Nat) (s : State) : Out := s.startPkt qid 0x11 fun s q p => s.startCopy qid q p
def execFill (qid : Nat) (s : State) : Out := s.startPkt qid 0x12 fun s q p => s.startCopy qid q p

end Sys2Proof.Machine
end

