-- ==== Sys2Proof/Machine/Control.lean ====
section
/-! DEFINITION. Control packets: queues, capability tables, virtual devices, dirty bits, export and import, FW.INFO (R40, R43, R49 to R55, R58,
R134, R358, R359, R373). A packet's effect is one step; the outcome of VD.STOP and Q.DESTROY follows once the effect is complete. -/

namespace Sys2Proof.Machine

open Sys2Proof

/-- Fields of W1: virtual device (one above 31 names none, R49) and QID. -/
def Pkt.vd (p : Pkt) : Nat := if p.opc == 0x20 then p.w 1 % 65536 else p.w 1
def Pkt.qid (p : Pkt) : Nat := bitsOf (p.w 1) 16 12

/-- A control packet whose outcome is known at once: the state after it, the outcome code, and the cause of FAULT. -/
def State.controlC (s : State) (opc : Nat) (f : State → Pkt → State × Nat × Nat) : Out :=
  s.startPkt 0 opc fun s _ p => let (t, res, c) := f s p; t.outcome 0 p.seq res c

/-- One that never ends with FAULT. -/
def State.control (s : State) (opc : Nat) (f : State → Pkt → State × Nat) : Out := s.controlC opc (fun s p => let (t, res) := f s p; (t, res, 0))

/-- n bytes at a host address, with the link up. -/
def State.hostOk (s : State) (a n : Nat) : Bool := s.isaudUp && a + n ≤ 2 ^ 48

/-! ### Queues (R36, R40, R42, R43, R49) -/

/-- Zeros to write, granule by granule, to n granules of a virtual device's HBM from an address; none where one is not mapped for writing. -/
def State.zeroVd (s : State) (v n a : Nat) : Option (List ((Nat × Bool) × List Byte)) :=
  (List.range n).mapM (fun i => match s.translate (some v) (a + 16 * i) Use.store 0x34 with
    | .error _ => none
    | .ok (pa, cm) => some ((hbmKey pa, cm), List.replicate 16 0))

/-- The null entries of a capability table. -/
def zeroCapt (a : Nat) : List ((Nat × Bool) × List Byte) :=
  (List.range 256).map (fun i => ((hbmKey (a + 16 * i), false), List.replicate 16 0))

/-- What Q.CREATE writes: the slots, the capability table, and WIDX, RIDX and STAT of the descriptor (R36, R37, R42; log 45). -/
def State.createWrites (s : State) (q : Queue) : Option (List ((Nat × Bool) × List Byte)) :=
  (s.zeroVd q.vd (4 * q.slots) q.ring).map (fun z => z ++ zeroCapt q.capt ++ s.descWords q [(0, 0), (0x40, 0), (0x60, statWord .run 0)])

/-- Q.CREATE. BUSY comes before BADARG (the model's choice, log 44). Where a port refuses one of its writes there is no queue, what was written before
stays, and the outcome is FAULT with the port's cause (the model's choice, log 45). -/
def State.qCreate (s : State) (p : Pkt) : State × Nat × Nat :=
  let v := p.vd
  let cfg := p.w 5
  let q : Queue :=
    { vd := v, kind := cfg % 16, log2n := bitsOf cfg 4 4, bte := bitsOf cfg 8 6, desc := p.w 2, ring := p.w 3, capt := p.w 4, stall := p.w 6,
      state := .run, seqAt := 0, r := 0, waitFrom := none, heldStall := false, used := false, destroying := [], pend := [], seen := [] }
  if (s.queue p.qid).isSome then (s, resBusy, 0)
  else if v > 31 || (AMap.find s.vds v).isNone || (s.queueLoc q q.desc).isNone then (s, resBadarg, 0)
  else match s.createWrites q with
    | none => (s, resBadarg, 0)
    | some ws => match s.devWrites ws with
      | (t, some f) => (t, resFault, f.toNat)
      | (t, none) => (t.putQueue p.qid q, resOk, 0)

def execQCreate (s : State) : Out := s.controlC 0x20 State.qCreate

/-- Unfinished tasks of a queue end CANCELLED with outcome STOPPED, and no successor is touched (R49, R359). A task restored from another module
belongs to no queue here. -/
def State.endTasksOf (s : State) (qid : Nat) : State :=
  s.tasks.foldl (fun u p =>
    if p.2.tcb.tag && (p.2.queue.map (·.1)) == some qid then
      (u.endTask p.1 { fate := if p.2.st == .frozen then 7 else 3, res := resStopped, cause := 0, quiet := true }).1
    else u) s

/-- Copy commands of a queue that are queued or stopped end STOPPED; one with chunks in flight does so when these are done (R49). -/
def State.endCopiesOf (s : State) (qid : Nat) : State :=
  s.btes.foldl (fun u p =>
    match p.2.queue with
    | some (q, seq) =>
      if q != qid then u
      else if p.2.flight.isEmpty then ({ u with btes := AMap.del u.btes p.1 } : State).outcome qid seq resStopped 0
      else u.onBte p.1 (fun b => { b with stopped := true })
    | none => u) s

/-- LAUNCH and copy packets of a queue that have not started end STOPPED. -/
def State.endPacketsOf (s : State) (qid : Nat) : State :=
  match s.queue qid with
  | none => s
  | some q => q.pend.foldl (fun u p => if !p.started && (q.kind == 2 || p.opc == 1) then u.outcome qid p.seq resStopped 0 else u) s

/-- Q.DESTROY: its outcome follows that of every accepted packet; so does that of a second one for a queue that is closing (log 44). -/
def execQDestroy (s : State) : Out :=
  s.startPkt 0 0x21 fun s _ p =>
    match s.queue p.qid with
    | none => s.outcome 0 p.seq resBadarg 0
    | some q =>
      if p.qid == 0 then s.outcome 0 p.seq resBadarg 0
      else
        let s1 := s.putQueue p.qid { q with destroying := q.destroying ++ [(0, p.seq)], heldStall := false, waitFrom := none, seen := [] }
        (if s.vdStopped q.vd then ((s1.endPacketsOf p.qid).endTasksOf p.qid).endCopiesOf p.qid else s1).closeQueue p.qid

/-- Q.SKIP (R40): a SKIP entry, whose OPC, ID and DIGEST, of a packet that was not read, are free values. The queue runs again from the
next sequence number, and a STALL entry that is still held is dropped (the model's choices, log 43). -/
def State.qSkip (s : State) (p : Pkt) : State × Nat :=
  match s.queue p.qid with
  | none => (s, resBadarg)
  | some q =>
    if q.state != .stalled || q.r != p.w 2 then (s, resNotfound)
    else
      let s2 := s.unreadEntry p.qid q 3
      let q1 := { q with r := q.r + 1, heldStall := false, waitFrom := none, seen := [] }
      ((((s2.putQueue p.qid q1).putDesc q 0x40 (q.r + 1)).queueState p.qid .run (q.r + 1)), resOk)

def execQSkip (s : State) : Out := s.control 0x22 State.qSkip

/-- The root of a space that firmware holds for a virtual device covers [base, base + len) with the permissions (R43, R139 to R141, R373). -/
def Vd.root (d : Vd) (space base len perms : Nat) : Bool :=
  let hi := base + len
  let tags := perms &&& (permTgload + permTgstore) == 0
  match space with
  | 0 => 2 ^ 56 ≤ base && hi ≤ 2 ^ 59
  | 1 => hi ≤ 2 ^ 24
  | 2 => hi ≤ 2 ^ 32 && (List.range 256).all (fun r => hi ≤ r * 2 ^ 24 || (r + 1) * 2 ^ 24 ≤ base || d.groups.getLsbD (r / 8))
  | 3 => hi ≤ 2 ^ 48
  | 4 => d.hwBase ≤ base && hi ≤ d.hwBase + d.hwLen && tags
  | 5 => hi ≤ 2 ^ 56 && tags
  | 6 => hi ≤ 2 ^ 32 && tags
  | _ => hi ≤ 2 ^ 48 && tags

/-- CAPT.SET (R43). An entry whose granule the port refuses to write stays as it is, and the outcome is FAULT with the port's cause (the model's
choice, log 45). -/
def State.captSet (s : State) (p : Pkt) : State × Nat × Nat :=
  match s.queue p.qid with
  | none => (s, resBadarg, 0)
  | some q =>
    if p.qid == 0 then (s, resBadarg, 0)
    else
      let space := p.w 4 % 8
      let perms := bitsOf (p.w 4) 8 7
      match AMap.find s.vds q.vd, Cap.root space perms (p.w 2) (p.w 3) with
      | some d, some c =>
        if d.root space (p.w 2) (p.w 3) perms then
          let k := hbmKey (q.capt + 16 * (p.w 1 % 256))
          match s.devWrite (k, false) c.bytes with
          | .error f => (s, resFault, f.toNat)
          | .ok t => (t.setTag k true, resOk, 0)
        else (s, resBadarg, 0)
      | _, _ => (s, resBadarg, 0)

def execCaptSet (s : State) : Out := s.controlC 0x23 State.captSet

/-! ### Virtual devices (R50, R51, R54, R134, R373) -/

/-- The scrub of a region group's slices (R134). -/
def State.scrubGroup (s : State) (g : Nat) : State :=
  let lo := sramKey (8 * g * 2 ^ 24)
  let hi := sramKey ((8 * g + 8) * 2 ^ 24)
  let s0 := (s.decls.filter (fun p => p.2.parts.any (fun x => x.1 < 1024 && x.1 / 32 == g))).foldl (fun t p => t.dropDecl p.1) s
  let s1 := s0.scrub lo hi
  { s1 with
    batons := s1.batons.filter (fun b => !(decide (lo ≤ 16 * b.key) && decide (16 * b.key < hi))),
    trigs := s1.trigs.filter (fun t => !(decide (lo ≤ 16 * t.key) && decide (16 * t.key < hi))) }

/-- The regions of a group whose scrub fails. -/
def State.scrubFails (s : State) (g : Nat) : List Nat := ((List.range 8).map (8 * g + ·)).filter s.clearBad.contains

/-- VD.CREATE (R51, R146, R373). A group whose scrub fails stays unassigned (R134); with no group left there is no virtual device, and the
outcome is FAULT with the scrub's cause (the model's choice, log 77). BUSY comes before a bad host window (the model's choice, log 44). A device
created again under its number counts as the same owner, whose groups are not scrubbed (the model's choice, log 47), and its task ids start again
at 0 (the model's choice, log 48). -/
def State.vdCreate (s : State) (p : Pkt) : State × Nat × Nat :=
  let v := p.vd
  let groups := (List.range 32).filter (fun g => (p.w 2).testBit g)
  if v > 31 || p.w 2 == 0 then (s, resBadarg, 0)
  else if (AMap.find s.vds v).isSome || s.vds.any (fun d => groups.any (fun g => d.2.groups.getLsbD g)) then (s, resBusy, 0)
  else if p.w 5 % 4096 != 0 || p.w 6 % 4096 != 0 || p.w 5 + p.w 6 > 2 ^ 48 then (s, resBadarg, 0)
  else
    let old := groups.filter (fun g => match AMap.find s.owners g with | some w => w != v | none => false)
    let lost := old.filter (fun g => !(s.scrubFails g).isEmpty)
    let mine := groups.filter (fun g => !lost.contains g)
    let d : Vd :=
      { stopped := false, groups := BitVec.ofNat 32 (p.w 2 - (lost.map (2 ^ ·)).sum), ptRoot := p.w 3, slotSel := p.w 4, hwBase := p.w 5, hwLen := p.w 6, assigned := 0,
        ready := List.replicate 8 [], aging := List.replicate 8 0, hold := none, pre := [] }
    let s1 := (lost.flatMap s.scrubFails).foldl State.clearFailed ((old.filter mine.contains).foldl State.scrubGroup s)
    if mine.isEmpty then (s1, resFault, 0xAD)
    else
      let s2 := mine.foldl (State.setSlots · (p.w 4 % 16)) s1
      ({ s2 with vds := AMap.put s2.vds v d, owners := mine.foldl (fun (m : AMap Nat) g => AMap.put m g v) s2.owners }, resOk, 0)

def execVdCreatePacket (s : State) : Out := s.controlC 0x30 State.vdCreate

/-- VD.DESTROY: nothing of the virtual device is left with the Marshal, the Podium and the Prefix Index. A number that names no device is BADARG, here
as at VD.START and VD.EXPORT (the model's choice, log 44). -/
def State.vdDestroy (s : State) (p : Pkt) : State × Nat :=
  let v := p.vd
  match AMap.find s.vds v with
  | none => (s, resBadarg)
  | some _ =>
    if !s.vdStopped v || s.queues.any (fun q => q.2.kind != 3 && q.2.vd == v) then (s, resWrongState)
    else
      ({ s with
         vds := AMap.del s.vds v, tasks := s.tasks.filter (fun t => t.2.vd != v), heats := s.heats.filter (fun h => h.2.vd != v),
         index := s.index.filter (fun n => n.vd != v), btes := s.btes.filter (fun b => b.2.vd != v || b.2.sup) }, resOk)

def execVdDestroy (s : State) : Out := s.control 0x31 State.vdDestroy

/-- VD.STOP begins (R54): accepted copy packets are with their BTEs first. -/
def State.stopDevice (s : State) (v : Nat) : State :=
  let s1 := s.queues.foldl (fun u p =>
    if p.2.kind == 2 && p.2.vd == v then
      p.2.pend.foldl (fun w x => if x.started then w else (w.markStarted p.1 x.seq).startCopy p.1 p.2 x) u
    else u) s
  s1.stopVd v

/-- VD.STOP: the packet starts, or, once all of R54 is done, has its outcome. -/
def execVdStopPacket (s : State) : Out :=
  match (s.queue 0).bind (fun q => q.pend.find? (fun p => p.started && p.opc == 0x32 && s.vdStopDone p.vd)) with
  | some p => .next (s.outcome 0 p.seq resOk 0)
  | none => s.startPkt 0 0x32 fun s _ p =>
    if (AMap.find s.vds p.vd).isNone then s.outcome 0 p.seq resBadarg 0 else s.stopDevice p.vd

/-- VD.START. A number that names no device is BADARG (the model's choice, log 44). -/
def State.vdStart (s : State) (p : Pkt) : State × Nat :=
  match AMap.find s.vds p.vd with
  | none => (s, resBadarg)
  | some _ => if s.vdStopped p.vd then (s.startVd p.vd, resOk) else (s, resWrongState)

def execVdStartPacket (s : State) : Out := s.control 0x33 State.vdStart

/-! ### Dirty bits (R52, R53) -/

/-- Fetch and clear of the dirty bits of count pages from a virtual address; a page that is not mapped reports 0, and so does one whose
table entry cannot be read correctly (the model's choice, log 44). -/
def State.dirtyBits (s : State) (v : Nat) : Nat → Nat → List Bool × State
  | 0, _ => ([], s)
  | n + 1, va =>
    let (b, s1) := match s.translate (some v) va Use.read 0x34 with
      | .ok (pa, _) => (NSet.has s.dirty (pa / 65536), { s with dirty := NSet.del s.dirty (pa / 65536) })
      | .error _ => (false, s)
    let (bs, s2) := s1.dirtyBits v n (va + 65536)
    (b :: bs, s2)

/-- Bits packed into bytes, lowest first. -/
def packBits (bs : List Bool) : List Byte :=
  (List.range ((bs.length + 7) / 8)).map (fun i =>
    BitVec.ofNat 8 ((List.range 8).foldl (fun n j => n + if bs.getD (8 * i + j) false then 2 ^ j else 0) 0))

/-- VD.DIRTY. -/
def State.vdDirtyTo (s : State) (p : Pkt) : State × Nat :=
  if (AMap.find s.vds p.vd).isNone || !s.hostOk (p.w 4) ((p.w 3 + 7) / 8) then (s, resBadarg)
  else
    let (bs, s1) := s.dirtyBits p.vd (p.w 3) (p.w 2)
    (s1.hostPut (p.w 4) (packBits bs), resOk)

def execVdDirtyPacket (s : State) : Out := s.control 0x34 State.vdDirtyTo

/-! ### Export and import (R55, R271, R358) -/

/-- CFG of a queue. -/
def Queue.cfg (q : Queue) : Nat := q.kind + 16 * q.log2n + 256 * q.bte

def State.queueEntry (s : State) (id : Nat) (q : Queue) : List Byte :=
  leBytes 8 id ++ leBytes 8 (s.widx q) ++ leBytes 8 q.r ++ leBytes 8 (statWord q.state q.seqAt) ++ leBytes 8 q.cfg ++ leBytes 8 q.stall ++
    List.replicate 80 0

/-- The bitmap of a command's completion object; a byte that cannot be reached reads as zero (log 44). -/
def State.bitmap (s : State) (b : Bte) : List Byte :=
  (List.range 512).map (fun i => match s.objKey b i 1 with | some (k, _) => Memory.get s.mem k | none => 0)

/-- A granule of the bitmap is uncorrectable: the read of it faults (R8, R130). -/
def State.bitmapBad (s : State) (b : Bte) : Option Byte :=
  (List.range 32).findSome? (fun i => match s.objKey b (16 * i) 16 with
    | some (k, _) => if s.anyBad k 16 then some (class3 k 0) else none
    | none => none)

/-- The copy commands of a stopped virtual device that a record lists. -/
def State.stoppedCopies (s : State) (v : Nat) : List Bte := (s.btes.filter (fun p => p.2.vd == v && !p.2.sup && !p.2.todo.isEmpty)).map (·.2)

def State.copyEntry (s : State) (b : Bte) : List Byte :=
  let (q, seq) := b.queue.getD (0xFFF, b.region)
  leBytes 8 q ++ leBytes 8 seq ++ b.body ++ s.bitmap b

/-- The record of a stopped virtual device. -/
def State.exportRecord (s : State) (v : Nat) : List Byte :=
  let qs := s.queues.filter (fun p => p.2.kind != 3 && p.2.vd == v)
  let cs := s.stoppedCopies v
  leBytes 4 v ++ leBytes 4 qs.length ++ leBytes 8 cs.length ++ qs.flatMap (fun p => s.queueEntry p.1 p.2) ++ cs.flatMap s.copyEntry

/-- VD.EXPORT. A number that names no device is BADARG (the model's choice, log 44). With a completion object that cannot be read correctly it writes nothing,
and the outcome is FAULT with the read's cause (the model's choice, log 44). -/
def State.vdExport (s : State) (p : Pkt) : State × Nat × Nat :=
  match AMap.find s.vds p.vd with
  | none => (s, resBadarg, 0)
  | some _ =>
    if !s.vdStopped p.vd then (s, resWrongState, 0)
    else
      let r := s.exportRecord p.vd
      if r.length > p.w 3 || !s.hostOk (p.w 2) r.length then (s, resBadarg, 0)
      else match (s.stoppedCopies p.vd).findSome? s.bitmapBad with
        | some f => (s, resFault, f.toNat)
        | none => (s.hostPut (p.w 2) r, resOk, 0)

def execVdExport (s : State) : Out := s.controlC 0x35 State.vdExport

/-- The queue entry i of a record at a host address: QID, WIDX, RIDX and CFG. -/
def State.recordEntry (s : State) (a i : Nat) : Nat × Nat × Nat × Nat :=
  let b := s.rd (hostKey (a + 16 + 128 * i)) 48
  (fieldLe b 0 2, fieldLe b 8 8, fieldLe b 16 8, fieldLe b 32 8)

/-- A listed queue qualifies (R358). -/
def State.importable (s : State) (v : Nat) (e : Nat × Nat × Nat × Nat) : Bool :=
  match s.queue e.1 with
  | some q => q.kind != 3 && q.vd == v && !q.used && q.cfg % 256 == e.2.2.2 % 256
  | none => false

/-- One queue comes into service; with a WIDX that has reached its end it is DEAD (R41, R358). With the cause where a port refuses one of the writes
of its descriptor: the queue then stays as it was (log 45). -/
def State.importQueue (s : State) (e : Nat × Nat × Nat × Nat) : State × Option Byte :=
  match s.queue e.1 with
  | none => (s, none)
  | some q =>
    let st := if e.2.1 < 2 ^ 48 then QState.run else .dead
    match s.devWrites (s.descWords q [(0, e.2.1), (0x40, e.2.2.1), (0x60, statWord st e.2.2.1)]) with
    | (t, some f) => (t, some f)
    | (t, none) =>
      (t.putQueue e.1 { q with r := e.2.2.1, waitFrom := none, heldStall := false, seen := [], state := st, seqAt := e.2.2.1 }, none)

/-- The queues of a record in order, up to the first whose descriptor cannot be written. -/
def State.importAll (s : State) : List (Nat × Nat × Nat × Nat) → State × Option Byte
  | [] => (s, none)
  | e :: es =>
    match s.importQueue e with
    | (t, some f) => (t, some f)
    | (t, none) => t.importAll es

/-- VD.IMPORT. A descriptor that cannot be written ends it with FAULT and the port's cause, the queues before it in service (the model's choice,
log 45). -/
def State.vdImport (s : State) (p : Pkt) : State × Nat × Nat :=
  let a := p.w 2
  if (AMap.find s.vds p.vd).isNone || !s.hostOk a 16 then (s, resBadarg, 0)
  else
    let h := s.rd (hostKey a) 16
    let n := fieldLe h 4 4
    let es := (List.range (min n 4097)).map (s.recordEntry a)
    if fieldLe h 0 4 != p.vd || n > 4096 || !s.hostOk a (16 + 128 * n) || !es.all (s.importable p.vd) then (s, resBadarg, 0)
    else match s.importAll es with
      | (t, some f) => (t, resFault, f.toNat)
      | (t, none) => (t, resOk, 0)

def execVdImport (s : State) : Out := s.controlC 0x36 State.vdImport

/-- FW.INFO: the quote body of R33 with a zero nonce. -/
def State.fwInfo (s : State) (p : Pkt) : State × Nat :=
  if !s.hostOk (p.w 1) 256 then (s, resBadarg) else (s.hostPut (p.w 1) (s.quoteBody (List.replicate 32 0)), resOk)

def execFwInfo (s : State) : Out := s.control 0x40 State.fwInfo

end Sys2Proof.Machine
end

