-- ==== Sys2Proof/Machine/FieldExec.lean ====
section
/-! DEFINITION. The steps of the Field's elements, one definition per operation of R214: the element fires, alone or with those that must
fire with it, or raises its kind's fault; where it cannot fire nothing happens (R101, R102). -/

namespace Sys2Proof.Machine

open Sys2Proof

/-- MX firing that accumulates a tile of matrix products. R300. -/
def execMxMma (e : Nat) (s : State) : Out := s.elemStep 0x0 0x0 e

/-- MX firing with block scales. R301. -/
def execMxMmaBs (e : Nat) (s : State) : Out := s.elemStep 0x0 0x1 e

/-- MX firing of a linear recurrence across tiles. R302. -/
def execMxMmaRc (e : Nat) (s : State) : Out := s.elemStep 0x0 0x2 e

/-- MX emits a tile of zeros per trigger token. R303. -/
def execMxMzero (e : Nat) (s : State) : Out := s.elemStep 0x0 0x3 e

/-- MX firing whose tile ends at END. R300. -/
def execMxMdrn (e : Nat) (s : State) : Out := s.elemStep 0x0 0x4 e

/-- Vector add firing. R305. -/
def execVxAdd (e : Nat) (s : State) : Out := s.elemStep 0x1 0x0 e

/-- Vector subtract firing. R305. -/
def execVxSub (e : Nat) (s : State) : Out := s.elemStep 0x1 0x1 e

/-- Vector multiply firing. R305. -/
def execVxMul (e : Nat) (s : State) : Out := s.elemStep 0x1 0x2 e

/-- Vector fused multiply-add firing. R305. -/
def execVxFma (e : Nat) (s : State) : Out := s.elemStep 0x1 0x3 e

/-- Vector minimum firing. R305. -/
def execVxMin (e : Nat) (s : State) : Out := s.elemStep 0x1 0x4 e

/-- Vector maximum firing. R305. -/
def execVxMax (e : Nat) (s : State) : Out := s.elemStep 0x1 0x5 e

/-- Vector absolute-value firing. R305. -/
def execVxAbs (e : Nat) (s : State) : Out := s.elemStep 0x1 0x6 e

/-- Vector negate firing. R305. -/
def execVxNeg (e : Nat) (s : State) : Out := s.elemStep 0x1 0x7 e

/-- Vector compare firing. R306. -/
def execVxCmp (e : Nat) (s : State) : Out := s.elemStep 0x1 0x8 e

/-- Vector bitwise AND firing. R305. -/
def execVxAnd (e : Nat) (s : State) : Out := s.elemStep 0x1 0x9 e

/-- Vector bitwise OR firing. R305. -/
def execVxOr (e : Nat) (s : State) : Out := s.elemStep 0x1 0xA e

/-- Vector bitwise XOR firing. R305. -/
def execVxXor (e : Nat) (s : State) : Out := s.elemStep 0x1 0xB e

/-- Vector shift-left firing. R305. -/
def execVxShl (e : Nat) (s : State) : Out := s.elemStep 0x1 0xc e

/-- Vector shift-right firing. R305. -/
def execVxShr (e : Nat) (s : State) : Out := s.elemStep 0x1 0xd e

/-- Vector conversion firing between FP32 and INT32. R307. -/
def execVxCvt (e : Nat) (s : State) : Out := s.elemStep 0x1 0xe e

/-- Segmented accumulate firing. R308. -/
def execVxAcc (e : Nat) (s : State) : Out := s.elemStep 0x1 0xf e

/-- Segmented prefix-sum firing. R308. -/
def execVxScan (e : Nat) (s : State) : Out := s.elemStep 0x1 0x10 e

/-- Exact segment sum firing. R311. -/
def execRxRsum (e : Nat) (s : State) : Out := s.elemStep 0x2 0x0 e

/-- Segment maximum firing. R311. -/
def execRxRmax (e : Nat) (s : State) : Out := s.elemStep 0x2 0x1 e

/-- Segment minimum firing. R311. -/
def execRxRmin (e : Nat) (s : State) : Out := s.elemStep 0x2 0x2 e

/-- Segment maximum and index firing. R311. -/
def execRxRargmax (e : Nat) (s : State) : Out := s.elemStep 0x2 0x3 e

/-- Exact segment sum of squares firing. R311. -/
def execRxRsumsq (e : Nat) (s : State) : Out := s.elemStep 0x2 0x4 e

/-- Correctly rounded 2^x firing. R313. -/
def execFxExp2 (e : Nat) (s : State) : Out := s.elemStep 0x3 0x0 e

/-- Correctly rounded log2 firing. R313. -/
def execFxLog2 (e : Nat) (s : State) : Out := s.elemStep 0x3 0x1 e

/-- Reciprocal firing. R313. -/
def execFxRcp (e : Nat) (s : State) : Out := s.elemStep 0x3 0x2 e

/-- Reciprocal square-root firing. R313. -/
def execFxRsqrt (e : Nat) (s : State) : Out := s.elemStep 0x3 0x3 e

/-- sin(πx) firing. R313. -/
def execFxSin (e : Nat) (s : State) : Out := s.elemStep 0x3 0x4 e

/-- tanh firing. R313. -/
def execFxTanh (e : Nat) (s : State) : Out := s.elemStep 0x3 0x5 e

/-- Table lookup firing, with the table loaded from port 1. R314. -/
def execFxLut (e : Nat) (s : State) : Out := s.elemStep 0x3 0x6 e

/-- Address-generator read emitting tokens from memory. R318. -/
def execAgRd (se : Nat) (fetch : Bool) (s : State) : Out := .next ((s.marks s.cur 300).agStep 0 se fetch)

/-- Address-generator write storing the live values of tokens. R318. -/
def execAgWr (se : Nat) (fetch : Bool) (s : State) : Out := .next ((s.marks s.cur 300).agStep 1 se fetch)

/-- Read that waits on full/empty bits, optionally taking them. R318. -/
def execAgRdfe (se : Nat) (fetch : Bool) (s : State) : Out := .next ((s.marks s.cur 300).agStep 2 se fetch)

/-- Indexed gather read. R320. -/
def execAgGather (se : Nat) (fetch : Bool) (s : State) : Out := .next ((s.marks s.cur 300).agStep 3 se fetch)

/-- Ring-buffer read or write with optional full/empty waits. R319. -/
def execAgRing (se : Nat) (fetch : Bool) (s : State) : Out := .next ((s.marks s.cur 300).agStep 4 se fetch)

/-- Read or write through a survivor map of KV blocks. R321. -/
def execAgSurv (se : Nat) (fetch : Bool) (s : State) : Out := .next ((s.marks s.cur 300).agStep 5 se fetch)

/-- Quantisation firing with derived or supplied block scales. R323. -/
def execQxQuant (e : Nat) (s : State) : Out := s.elemStep 0x5 0x0 e

/-- Dequantisation firing. R324. -/
def execQxDeq (e : Nat) (s : State) : Out := s.elemStep 0x5 0x1 e

/-- Block-scale derivation firing. R323. -/
def execQxBscale (e : Nat) (s : State) : Out := s.elemStep 0x5 0x2 e

/-- Rounding firing, nearest or stochastic. R325. -/
def execQxRound (e : Nat) (s : State) : Out := s.elemStep 0x5 0x3 e

/-- Delay-line firing. R326. -/
def execDlDelay (e : Nat) (s : State) : Out := s.elemStep 0x6 0x0 e

/-- Primed delay firing that injects PCOUNT tokens per round. R326. -/
def execDlPrime (e : Nat) (s : State) : Out := s.elemStep 0x6 0x1 e

/-- Transpose firing. R328. -/
def execPmTrans (e : Nat) (s : State) : Out := s.elemStep 0x7 0x0 e

/-- Broadcast firing. R328. -/
def execPmBcast (e : Nat) (s : State) : Out := s.elemStep 0x7 0x1 e

/-- Shuffle firing. R328. -/
def execPmShuf (e : Nat) (s : State) : Out := s.elemStep 0x7 0x2 e

/-- Pack firing. R328. -/
def execPmPack (e : Nat) (s : State) : Out := s.elemStep 0x7 0x3 e

/-- Unpack firing. R328. -/
def execPmUnpack (e : Nat) (s : State) : Out := s.elemStep 0x7 0x4 e

/-- Per-value select firing. R329. -/
def execSmSel (e : Nat) (s : State) : Out := s.elemStep 0x8 0x0 e

/-- Control-driven merge firing. R330. -/
def execSmMerge (e : Nat) (s : State) : Out := s.elemStep 0x8 0x1 e

/-- Control-driven split firing. R330. -/
def execSmSplit (e : Nat) (s : State) : Out := s.elemStep 0x8 0x2 e

/-- Live-value compaction firing. R331. -/
def execSmFilter (e : Nat) (s : State) : Out := s.elemStep 0x8 0x3 e

/-- Constant-token firing per trigger. R331. -/
def execSmConst (e : Nat) (s : State) : Out := s.elemStep 0x8 0x4 e

/-- Counter-based random bits firing. R333. -/
def execRnRngBits (e : Nat) (s : State) : Out := s.elemStep 0x9 0x0 e

/-- Counter-based Bernoulli firing. R333. -/
def execRnRngBern (e : Nat) (s : State) : Out := s.elemStep 0x9 0x1 e

/-- Opens a baton-guarded section. R335. -/
def execGtEntry (e : Nat) (s : State) : Out := s.elemStep 0xA 0x0 e

/-- Closes a section and releases its baton. R335. -/
def execGtExit (e : Nat) (s : State) : Out := s.elemStep 0xA 0x1 e

/-- Passes a token once the producer scope's stores reach the wider scope. R172. -/
def execGtBound (e : Nat) (s : State) : Out := s.elemStep 0xA 0x2 e

/-- Opens a section after its signal token, as an acquire. R334. -/
def execGtAcq (e : Nat) (s : State) : Out := s.elemStep 0xA 0x3 e

/-- Emits a token per control value sent by INJ. R337. -/
def execPtCtlin (e : Nat) (s : State) : Out := s.elemStep 0xB 0x0 e

/-- Writes a value to a sink register while it is not valid. R337. -/
def execPtSink (e : Nat) (s : State) : Out := s.elemStep 0xB 0x1 e

/-- Issues an engine memory request from a token. R338. -/
def execPtEreq (e : Nat) (s : State) : Out := s.elemStep 0xB 0x2 e

/-- Emits an engine response token in request order, as an acquire. R338. -/
def execPtErsp (e : Nat) (s : State) : Out := s.elemStep 0xB 0x3 e

/-- Posts to a trigger granule once earlier stores reach DEV level. R339. -/
def execPtTrig (e : Nat) (s : State) : Out := s.elemStep 0xB 0x4 e

end Sys2Proof.Machine
end

