-- ==== Sys2Proof/Machine/Starter.lean ====
section
/-! DEFINITION. The configuration cache, arms, the Starter and the controller tree (R108, R110 to R114, R119, R120, R259, R262, R263). -/

namespace Sys2Proof.Machine

open Sys2Proof

/-! ### Round commands (R115, R263) -/

/-- n rounds for slot k: they join a tail entry of the slot, or take a new one; none where the queue of 16 is full. -/
def Engine.command (e : Engine) (k n : Nat) : Option Engine :=
  let es := e.slot k
  let e1 := e.setSlot k { es with commanded := es.commanded + n }
  match e.cmds.getLast? with
  | some (j, m) =>
    if j == k && m + n ≤ 2 ^ 32 - 1 then some { e1 with cmds := e.cmds.dropLast ++ [(k, m + n)] }
    else if e.cmds.length ≥ 16 then none else some { e1 with cmds := e.cmds ++ [(k, n)] }
  | none => some { e1 with cmds := [(k, n)] }

/-! ### The cache (R108, R112) -/

/-- A slot that a failed refetch empties: a controller node that holds it ends, whether it runs, will run, or is still open; what its runs had
in flight is gone, and it arms nothing more (R108, log 34). -/
def Ctl.lose (c : Ctl) (k : Nat) : Ctl :=
  let holds := fun (x : CtlNode) => x.kids.any (fun y => match y with | .arm j _ _ _ => j == k | .node _ => false)
  { c with
    nodes := c.nodes.map (fun x => if holds x then { x with iters := 0, kids := [] } else x),
    runs := c.runs.map (fun x => if holds (c.node x.node) then { x with flight := [] } else x) }

/-- The block of a slot is read again from its configuration store and checked (R108, R112); a failure empties the slot and is delivered
as a Field fault with the slot in TVAL. The Bool tells that the block is resident. -/
def State.refetch (s : State) (r k : Nat) : State × Bool :=
  let sl := (s.region r).slot k
  if sl.block.isSome then (s, true)
  else if !sl.stored then (s, false)
  else
    let bad := fun (c : Byte) =>
      ((s.onRegion r (fun g => { (g.loseSlot k) with ctl := g.ctl.lose k })).pendFault r c (BitVec.ofNat 64 k) true, false)
    match s.readBlock sl.store with
    | .error (c, _) => bad c
    | .ok (s1, b, bytes) =>
      match blockFault b bytes (some (sl.blkid, sl.crc)) with
      | some c => bad c
      | none => (s1.onRegion r (fun g => g.setSlot k { g.slot k with block := some b }), true)

/-! ### Arms (R110, R259, R317) -/

/-- An engine's 16-bit arm parameter (R110). -/
def armParam (p0 p1 : Word) (se : Nat) : Nat := bitsOf (if se < 4 then p0 else p1).toNat (16 * (se % 4)) 16

/-- The round registers that the AGs of a slot with a resident block copy at arm, in the order of their elements. -/
def Region.armRegs (g : Region) (k : Nat) (p0 p1 : Word) (rot : Nat) : List (Nat × RoundReg) :=
  let cap := fun (n : Nat) => if n == 0 then Cap.null else g.pacer.c.toList.getD n Cap.null
  match (g.slot k).block with
  | none => []
  | some b => (b.elems.filter (fun w => w.kind == 4)).map (fun w => (w.se, roundReg w (cap w.creg) (armParam p0 p1 w.se) rot))

/-- The engine of the first AG whose shape record is invalid at arm (0x60, R317). -/
def Region.armFault (g : Region) (k : Nat) (p0 p1 : Word) : Option Nat :=
  ((g.armRegs k p0 p1 0).find? (fun x => !x.2.armOk || !x.2.unusedOk)).map (·.1)

/-- The engine of the first AG whose shape record the overridden extents make invalid, whatever its capability will be when the controller
makes the arm (R259, R317). -/
def Region.shapeFault (g : Region) (k : Nat) (p0 p1 : Word) : Option Nat :=
  ((g.armRegs k p0 p1 0).find? (fun x => !x.2.unusedOk || (x.2.op == 4 && x.2.ext2 > x.2.ext1))).map (·.1)

/-- The arm of a slot with a resident block: every AG copies its round register. Rounds commanded under an arm that CFG.DISARM released, and not yet
started, are gone (R260). -/
def Region.armSlot (g0 : Region) (k total : Nat) (p0 p1 : Word) (tree : Bool) (rot : Nat) : Region :=
  let cap := fun (n : Nat) => if n == 0 then Cap.null else g0.pacer.c.toList.getD n Cap.null
  let g := if (g0.slot k).ebb then { g0 with engines := AMap.mapV g0.engines (·.dropCommands k) } else g0
  let g1 := (g.armRegs k p0 p1 rot).foldl (fun (h : Region) x => h.setEngSlot x.1 k { h.engSlot x.1 k with reg := some x.2 }) g
  let arm : Arm := { total := total, done := 0, ends := [], p0 := p0, p1 := p1, caps := (List.range 16).map cap, tree := tree, decided := false }
  let g2 := g1.setSlot k { g.slot k with ebb := false, arm := some arm }
  { g2 with insts := g2.insts.map (fun i => if i.slot != k then i else if i.closed then { i with due := [] } else { i with caps := i.block.elems.map (fun w => cap w.capReg) }) }

/-- Round commands for every ENTRY and EXIT engine of a slot's configuration, as STRM.GO gives them (R262). -/
def Region.commandAll (g : Region) (k n : Nat) : Option Region :=
  match (g.slot k).block with
  | none => none
  | some b => (b.sesOf none).foldl (fun acc se => acc.bind (fun h => ((h.engine se).command k n).map (h.setEngine se))) (some g)

/-! ### The Starter (R113) -/

/-- The waiting tokens of a slot: those in the entry queues of its ENTRY engines. -/
def Region.waitingTokens (g : Region) (k : Nat) (b : Block) : Nat :=
  ((List.range 8).filter (fun se => b.entry.testBit se)).foldl (fun n se => n + (g.engSlot se k).entry.length) 0

/-- The configuration that runs: the one the Field has taken last. -/
def Region.running (g : Region) : Option Inst := g.insts.find? (fun i => !i.closed)

/-- The configuration stands between two tiles of its arm: its lowest ENTRY engine has begun no further round, and no other one is ahead of it (R111, R113;
log 34). -/
def Region.atTile (g : Region) (i : Inst) (a : Arm) : Bool :=
  (List.range i.block.elems.length).all (fun e =>
    let w := i.block.el e
    let mid := (i.el e).cnt.getD 0 0 == 1
    let n := AMap.findD a.ends w.se 0
    let due := g.share i.slot a w.se a.done
    w.kind != 4 || w.agWrite || (if w.se == i.block.lowest then !mid else n < due || (n == due && !mid)))

/-- Old configurations that nothing can move in any more leave the Field. -/
def Region.sweep (g : Region) : Region :=
  { g with insts := g.insts.filter (fun i => !(i.closed && (g.liveElems i).isEmpty)) }

/-- One of the three moments of R113; the tile count of an arm expires once, and a Field whose configuration has no tile left to run and no token is
idle once no configuration has one. -/
def Region.moment (g : Region) : Bool :=
  let idle := g.insts.all (fun i => !i.busy)
  match g.running with
    | none => idle
    | some i =>
      match (g.slot i.slot).arm with
      | none => idle
      | some a =>
        if a.done ≥ a.total then !a.decided || idle
        else g.atTile i a && !i.block.nostarve && g.waitingTokens i.slot i.block == 0 && g.starve ≥ 16

/-- The candidates of a decision with their waiting tokens, by rising slot. -/
def Region.candidates (g : Region) : List (Nat × Nat) :=
  g.slots.filterMap (fun p =>
    match p.2.arm, p.2.block with
    | some _, some b => let n := g.waitingTokens p.1 b; if n > 0 then some (p.1, n) else none
    | _, _ => none)

/-- The first entry with the greatest measure. -/
def bestBy (f : Nat × Nat → Nat) : List (Nat × Nat) → Option (Nat × Nat)
  | [] => none
  | c :: cs => some (cs.foldl (fun a b => if f b > f a then b else a) c)

/-- The choice of R113. -/
def Region.choose (g : Region) (cs : List (Nat × Nat)) : Option Nat :=
  let passed := fun (k : Nat) => (g.slot k).passed
  match bestBy (fun c => passed c.1) (cs.filter (fun c => passed c.1 ≥ 4)) with
  | some c => some c.1
  | none => (bestBy (fun c => c.2) cs).map (·.1)

/-- STARTER_DECISION: passed-over counts, and the load of the chosen configuration unless it runs already (R111, R113, R114). -/
def Region.decide (g0 : Region) : Region :=
  let g := g0.sweep
  if g.frozen || !g.moment then g0
  else
    let cs := g.candidates
    match g.choose cs with
    | none => g0
    | some k =>
      let counted := AMap.mapV g.slots id |>.map (fun p =>
        (p.1, { p.2 with
          passed := if p.1 != k && cs.any (fun c => c.1 == p.1) then p.2.passed + 1 else 0,
          arm := p.2.arm.map (fun a => if (g.running.map (·.slot)) == some p.1 && a.done ≥ a.total then { a with decided := true } else a) }))
      let g1 := { g with slots := counted, starve := 0 }
      if (g1.running.map (·.slot)) == some k then g1
      else
        match (g1.slot k).block, (g1.slot k).arm with
        | some b, some a =>
          let g2 := ({ g1 with insts := g1.insts.map g1.close } : Region).sweep
          let inst := { mkInst k b a.caps g2.insts.isEmpty with load := g1.insts.foldl (fun n i => max n i.load) 0 + 1 }
          { g2 with insts := g2.insts ++ [inst] }
        | _, _ => g1

/-! ### Reconfiguration (R114) -/

/-- The old element on the site of element e of a configuration: an AG's site is its engine's, any other has the ordinal in its kind. -/
def siteOf (old new : Inst) (e : Nat) : Option Nat :=
  let w := new.block.el e
  let ord := ((List.range e).filter (fun j => (new.block.el j).kind == w.kind)).length
  let same := (List.range old.block.elems.length).filter (fun j => (old.block.el j).kind == w.kind)
  if w.kind == 4 then same.find? (fun j => (old.block.el j).se == w.se) else same[ord]?

/-- RECONFIGURATION_WAVE: element e of the incoming configuration takes its word, once the old configuration's last token has passed its
site and the wave has come to it along a link. -/
def Region.wave (g : Region) (e : Nat) : Region :=
  if g.frozen then g
  else match g.running with
    | none => g
    | some i =>
      let olds := g.insts.filter (·.closed)
      let free := olds.all (fun o => match siteOf o i e with | none => true | some j => !(g.liveElems o).contains j)
      let feeds := i.links.filter (fun l => l.dst == e)
      let come := feeds.isEmpty || feeds.any (fun l => (i.el l.src).taken) || (i.block.el e).kind == 4
      if e < i.elems.length && !(i.el e).taken && free && come then
        let j := i.setEl e { i.el e with taken := true }
        let g1 := { g with insts := g.insts.map (fun x => if x.load == i.load then j else x) }
        if j.elems.all (·.taken) then g1.sweep else g1
      else g

/-! ### The arm boundary (R111) -/

/-- A request of the configuration of a slot: a stream engine's or an element's. -/
def ofSlot (r k : Nat) (i : Issuer) : Bool :=
  match i with
  | .engine q j _ => q == r && j == k
  | .elem q j _ => q == r && j == k
  | _ => false

/-- Every store of a slot's configuration has been made and applied at its port, and its fault reports are back (R111, R120). -/
def State.storesDone (s : State) (r k : Nat) : Bool :=
  !s.reqs.any (fun q => ofSlot r k q.issuer && q.act.mutates) && !s.resps.any (fun q => ofSlot r k q.issuer && q.cause.isSome)

/-- The engine has no further token for the slot: none waits or is being read, and no round of it runs or is commanded. -/
def Engine.doneWith (e : Engine) (k : Nat) : Bool :=
  !e.waiting k && !e.reading k && !e.round.any (fun x => x.slot == k) && !e.cmds.any (fun c => c.1 == k)

/-- The last tile of a slot's arm has passed, with every store at its port: each reading engine has given the Field its rounds of all tiles, or has no
further token (log 34). Whether the block is resident makes no difference (R112, R121). -/
def State.armOver (s : State) (r k : Nat) : Bool :=
  let g := s.region r
  match (g.slot k).arm with
  | none => false
  | some a =>
    a.done ≥ a.total && s.storesDone r k && !g.fieldBusy k &&
      (List.range 8).all (fun se =>
        !(g.engSlot se k).reg.any (fun x => !x.writes) || AMap.findD a.ends se 0 ≥ g.share k a se a.total || (g.engine se).doneWith k)

/-! ### The controller tree (R119, R262) -/

/-- Child j of a node. -/
def CtlNode.kid (n : CtlNode) (j : Nat) : Option CtlChild := n.kids[j]?

/-- The child of a run's iteration changes its state. -/
def Ctl.mark (c : Ctl) (run it kid : Nat) (st : KidSt) : Ctl :=
  { c with runs := c.runs.map (fun x =>
      if x.id == run then { x with flight := x.flight.map (fun f => if f.1 == it then (f.1, f.2.set kid st) else f) } else x) }

/-- The arm of a slot that the controller made has ended: its child ends. -/
def Ctl.armEnded (c : Ctl) (k : Nat) : Ctl :=
  let hit := c.runs.findSome? (fun x =>
    let n := c.node x.node
    x.flight.findSome? (fun f =>
      ((List.range n.kids.length).find? (fun j =>
        f.2.getD j .waiting == .running && match n.kid j with | some (.arm sl _ _ _) => sl == k | _ => false)).map (fun j => (x.id, f.1, j))))
  match hit with
  | none => c
  | some (x, it, j) => c.mark x it j .ended

/-- A run may start its next iteration. -/
def Ctl.mayIterate (c : Ctl) (x : CtlRun) : Bool :=
  let n := c.node x.node
  x.next < n.iters && match n.kind with
    | .pipe => x.flight.length < n.depth
    | _ => x.flight.isEmpty

/-- Child j of an iteration may start. -/
def Ctl.mayStart (c : Ctl) (x : CtlRun) (it j : Nat) (sts : List KidSt) : Bool :=
  let n := c.node x.node
  sts.getD j .ended == .waiting &&
    match n.kind with
    | .strm => true
    | .seq => (sts.take j).all (· == .ended)
    | .pipe =>
      (j == 0 || sts.getD (j - 1) .ended == .ended) &&
        (match x.flight.find? (fun f => f.1 + 1 == it) with | none => true | some f => f.2.getD j .ended == .ended)

/-- A run that is over leaves, and its parent's child ends; with the last run the tree is over. -/
def Ctl.finish (c : Ctl) : Option Ctl :=
  match c.runs.find? (fun x => x.flight.isEmpty && (x.next ≥ (c.node x.node).iters || (c.node x.node).kids.isEmpty)) with
  | none => none
  | some x =>
    let c1 := { c with runs := c.runs.filter (fun y => y.id != x.id) }
    let c2 := match x.parent with | none => c1 | some (p, it, j) => c1.mark p it j .ended
    some (if c2.runs.isEmpty && c2.stack.isEmpty then { c2 with nodes := [] } else c2)

/-- CONTROLLER_ITERATION: one action of the running tree: an iteration or a run ends, an iteration starts, or a child starts; an arm
waits while its slot still has one, and for room in the engines' command queues. -/
def State.controller (s : State) (r : Nat) : State :=
  let g := s.region r
  let c := g.ctl
  if g.frozen then s
  else
    match c.runs.find? (fun x => x.flight.any (fun f => f.2.all (· == .ended))) with
    | some x =>
      s.onRegion r (fun g => { g with ctl := { c with runs := c.runs.map (fun y =>
        if y.id == x.id then { y with flight := y.flight.filter (fun f => !f.2.all (· == .ended)) } else y) } })
    | none =>
      match c.finish with
      | some c1 => s.onRegion r (fun g => { g with ctl := c1 })
      | none =>
        let starts := c.runs.flatMap (fun x => x.flight.flatMap (fun f =>
          ((List.range f.2.length).filter (fun j => c.mayStart x f.1 j f.2)).map (fun j => (x, f.1, j))))
        let go := starts.foldl (fun (acc : Option State) t =>
          match acc with
          | some u => some u
          | none =>
            let n := c.node t.1.node
            match n.kid t.2.2 with
            | some (.node m) =>
              some (s.onRegion r (fun g => { g with ctl :=
                let c1 := c.mark t.1.id t.2.1 t.2.2 .running
                { c1 with runs := c1.runs ++ [{ id := c.nextRun, node := m, parent := some (t.1.id, t.2.1, t.2.2), next := 0, flight := [] }],
                          nextRun := c.nextRun + 1 } }))
            | some (.arm k total p0 p1) =>
              if (g.slot k).arm.isSome then none
              else
                let (s1, ok) := s.refetch r k
                if !ok then (if s1 = s then none else some s1)
                else
                  let rot := match n.kind with | .pipe => t.2.1 % n.depth | _ => 0
                  match (s1.region r).armFault k p0 p1 with
                  | some se => some (s1.pendFault r 0x60 (BitVec.ofNat 64 se) true)
                  | none =>
                    match ((s1.region r).armSlot k total p0 p1 true rot).commandAll k total with
                    | none => none
                    | some g2 => some (s1.setRegion r { g2 with ctl := g2.ctl.mark t.1.id t.2.1 t.2.2 .running })
            | none => none) none
        match go with
        | some u => u
        | none =>
          match c.runs.find? (fun x => c.mayIterate x) with
          | none => s
          | some x =>
            s.onRegion r (fun g => { g with ctl := { c with runs := c.runs.map (fun y =>
              if y.id == x.id then
                { y with flight := y.flight ++ [(y.next, (c.node y.node).kids.map (fun _ => KidSt.waiting))], next := y.next + 1 }
              else y) } })

/-- A disarmed slot with no token left in the Field: its writing engines start no further round either, and hold none (R260). -/
def Region.ebbOut (g : Region) (k : Nat) : Region :=
  if !(g.slot k).ebb || g.fieldBusy k then g
  else
    let g1 := g.setSlot k { g.slot k with ebb := false }
    g1.engines.foldl (fun (h : Region) p => h.setEngine p.1 ((p.2.dropSlot k).setSlot k (p.2.slot k).dropRounds)) g1

/-- DRAIN's condition (R120, R262). -/
def State.drained (s : State) (r k : Nat) : Bool :=
  let g := s.region r
  (g.slot k).arm.isNone && !g.slotBusy k && !g.inTree k && s.storesDone r k

end Sys2Proof.Machine
end

