-- ==== Sys2Proof/Machine/FieldInstr.lean ====
section
/-! DEFINITION. The FLD group of Pacer instructions: configurations, the controller tree, streams, the control network, sinks and
snapshots (R255 to R267). -/

namespace Sys2Proof.Machine

open Sys2Proof

/-- An immediate field above its limit faults with 0x0E (R255). -/
def State.within (s : State) (i : Instr) (v : BitVec 5) (limit : Nat) (k : State → Out) : Out :=
  if v.toNat ≤ limit then k s else s.fail0 0x0E i

/-- A count from 1 to 2^32 − 1, else 0x0E. -/
def State.counted (s : State) (i : Instr) (v : Word) (k : State → Out) : Out :=
  if 1 ≤ v.toNat && v.toNat ≤ 2 ^ 32 - 1 then k s else s.fail0 0x0E i

/-- CFG.LOAD (R257). A configuration that the slot held, and that is still loaded in the Field, holds no token and leaves it. A fault leaves the slot
empty, its control-port values and parameters too (R108); one that a port finds is a deferred store fault (R256, log 79). -/
def execCfgLoad (ca : CReg) (slot : BitVec 5) (s : State) : Out :=
  let i := Instr.cfgLoad ca slot
  s.within i slot 7 fun s =>
    let k := slot.toNat
    let c := s.rc ca
    if c.cursor.toNat % 16 != 0 then s.fail0 0x0E i
    else if s.reg.armed k || s.reg.slotBusy k then s.fail0 0x0F i
    else
      let lost := s.onReg (·.loseSlot k)
      match s.readBlock c with
      | .error (f, a) => lost.failRead i c (a % 2 ^ 64) (if a == c.cursor.toNat then 16 else 8) (permLoad + permEngine) memSpaces f State.deferred
      | .ok (s1, b, bytes) =>
        match blockFault b bytes none with
        | some f => (s1.onReg (·.loseSlot k)).fail f (BitVec.ofNat 64 k)
        | none =>
          .next ((s1.onReg (fun g => ({ g.replaceSlot k with insts := g.insts.filter (fun i => i.slot != k) } : Region).setSlot k
            { Slot.empty with stored := true, store := c, blkid := b.blkid, crc := b.crc, block := some b, ctl := (g.slot k).ctl })).advance)

/-- CFG.EVICT (R258). -/
def execCfgEvict (slot : BitVec 5) (s : State) : Out :=
  let i := Instr.cfgEvict slot
  s.within i slot 7 fun s =>
    let k := slot.toNat
    if s.reg.inTree k then s.fail0 0x0F i
    else .next ((if (AMap.find s.reg.slots k).isSome then s.onReg (fun g => g.setSlot k { g.slot k with block := none }) else s).advance)

/-- The innermost open node of the controller takes a child; none where it has eight (R262). -/
def Ctl.addKid (c : Ctl) (kid : CtlChild) : Option Ctl :=
  match c.stack with
  | [] => none
  | n :: _ =>
    if (c.node n).kids.length ≥ 8 then none
    else some { c with nodes := c.nodes.map (fun x => if x.id == n then { x with kids := x.kids ++ [kid] } else x) }

/-- CFG.ARM (R259): d names the block of P0 and P1. With a controller node open it is recorded as the node's next child; the checks are the
same, but for the capabilities, which are those in force when the controller makes the arm (R317, log 34). -/
def execCfgArm (d a : XReg) (slot : BitVec 5) (s : State) : Out :=
  let i := Instr.cfgArm d a slot
  s.within i slot 7 fun s =>
    if d.toNat == 31 then s.fail0 0x0E i
    else s.counted i (s.rx a) fun s =>
      let k := slot.toNat
      let total := (s.rx a).toNat
      let p0 := s.rxBlock d 0
      let p1 := s.rxBlock d 1
      let sl := s.reg.slot k
      if !sl.stored || s.reg.armed k then s.fail0 0x0F i
      else if !s.reg.ctl.stack.isEmpty && (s.reg.ctl.addKid (.arm k total p0 p1)).isNone then s.fail0 0x0E i
      else
        match s.refetch s.cur k with
        | (s1, false) => .next s1
        | (s1, true) =>
          if s1.reg.ctl.stack.isEmpty then
            match s1.reg.armFault k p0 p1 with
            | some se => s1.fail 0x60 (BitVec.ofNat 64 se)
            | none => .next ((s1.onReg (fun g => g.armSlot k total p0 p1 false 0)).advance)
          else
            match s1.reg.shapeFault k p0 p1 with
            | some se => s1.fail 0x60 (BitVec.ofNat 64 se)
            | none => .next ((s1.onReg (fun g => { g with ctl := (g.ctl.addKid (.arm k total p0 p1)).getD g.ctl })).advance)

/-- CFG.DISARM (R260): rounds that read end with the arm; tokens in the Field pass on, and the writing engines' rounds go on until the Field
holds none of them (ebb). A marker behind the discarded tokens stands at the head of the queue then (R135). -/
def Region.disarm (g : Region) (k : Nat) : Region :=
  let g1 := g.setSlot k { g.slot k with arm := none, ebb := true }
  (List.range 8).foldl (fun (h : Region) se =>
    let e := h.engine se
    let es := e.slot k
    let writes := match es.reg with | some r => r.writes | none => false
    let es1 : EngSlot := { es with entry := [], mark := es.mark.map (fun _ => 0) }
    h.setEngine se (if writes then { e.setSlot k es1 with fetches := e.fetches.filter (fun f => f.slot != k) }
      else (e.dropSlot k).setSlot k es1.dropRounds)) g1

def execCfgDisarm (d : XReg) (slot : BitVec 5) (s : State) : Out :=
  let i := Instr.cfgDisarm d slot
  s.within i slot 7 fun s =>
    let k := slot.toNat
    if s.reg.inTree k then s.fail0 0x0F i
    else match (s.reg.slot k).arm with
      | none => s.ret d 0
      | some a => (s.onReg (·.disarm k)).ret d (BitVec.ofNat 64 a.done)

/-- CFG.QUERY's word (R261). -/
def Region.status (g : Region) (k : Nat) : Word :=
  let sl := g.slot k
  let left := match sl.arm with | some a => a.total - a.done | none => 0
  let bit := fun (b : Bool) (n : Nat) => if b then 2 ^ n else 0
  BitVec.ofNat 64 (left * 2 ^ 32 + sl.blkid * 2 ^ 16 + sl.passed % 256 * 2 ^ 8 + bit (g.inTree k) 4 + bit sl.stored 3 +
    bit (g.insts.any (fun i => i.slot == k)) 2 + bit (g.armed k) 1 + bit sl.block.isSome 0)

def execCfgQuery (d : XReg) (slot : BitVec 5) (s : State) : Out :=
  s.within (.cfgQuery d slot) slot 7 fun s => s.ret d (s.reg.status slot.toNat)

/-! ### The controller tree (R119, R262) -/

/-- A node opens: eight open nodes give 0x0B, a parent with eight children 0x0E. -/
def State.ctlOpen (s : State) (i : Instr) (kind : CtlKind) (depth : Nat) (iters : Word) : Out :=
  s.counted i iters fun s =>
    let c := s.reg.ctl
    if c.stack.length ≥ 8 then s.fail0 0x0B i
    else if (match c.stack with | [] => false | n :: _ => (c.node n).kids.length ≥ 8) then s.fail0 0x0E i
    else
      .next ((s.onReg (fun g => { g with ctl := { c with
        nodes := c.nodes ++ [{ id := c.nextId, kind := kind, depth := depth, iters := iters.toNat, kids := [] }],
        stack := c.nextId :: c.stack, nextId := c.nextId + 1 } })).advance)

def execCtlSeq (a : XReg) (s : State) : Out := s.ctlOpen (.ctlSeq a) .seq 1 (s.rx a)
def execCtlPipe (a : XReg) (depth : BitVec 5) (s : State) : Out :=
  if 1 ≤ depth.toNat && depth.toNat ≤ 8 then s.ctlOpen (.ctlPipe a depth) .pipe depth.toNat (s.rx a) else s.fail0 0x0E (.ctlPipe a depth)
def execCtlStrm (a : XReg) (s : State) : Out := s.ctlOpen (.ctlStrm a) .strm 1 (s.rx a)

/-- CTL.END: the innermost node becomes a child of its parent, or the tree starts. -/
def execCtlEnd (s : State) : Out :=
  let c := s.reg.ctl
  match c.stack with
  | [] => s.fail0 0x0C .ctlEnd
  | n :: rest =>
    let c1 := { c with stack := rest }
    let c2 := if rest.isEmpty then
        { c1 with runs := c1.runs ++ [{ id := c1.nextRun, node := n, parent := none, next := 0, flight := [] }], nextRun := c1.nextRun + 1 }
      else (c1.addKid (.node n)).getD c1
    .next ((s.onReg (fun g => { g with ctl := c2 })).advance)

/-! ### Streams and the control network (R263 to R265) -/

/-- The engine backs an AG element of the slot's configuration. -/
def Region.backs (g : Region) (se k : Nat) : Bool :=
  match (g.slot k).block with
  | some b => (b.sesOf none).contains se
  | none => (g.engSlot se k).reg.isSome

def execStrmGo (se : BitVec 5) (a : XReg) (slot : BitVec 5) (s : State) : Out :=
  let i := Instr.strmGo se a slot
  s.within i se 7 fun s => s.within i slot 7 fun s => s.counted i (s.rx a) fun s =>
    let e := se.toNat
    let k := slot.toNat
    if !s.reg.armed k then s.fail 0x67 (BitVec.ofNat 64 e)
    else if !s.reg.backs e k then s.fail0 0x0E i
    else if !((s.reg.engSlot e k).reg.all (·.armOk)) then s.fail 0x60 (BitVec.ofNat 64 e)
    else match (s.reg.engine e).command k (s.rx a).toNat with
      | none => s.fail0 0x0F i
      | some en => .next ((s.onReg (·.setEngine e en)).advance)

def execStrmParm (a b : XReg) (s : State) : Out :=
  let i := Instr.strmParm a b
  let w := (s.rx a).toNat
  let field := bitsOf w 8 3
  if w / 2 ^ 11 != 0 || field > 4 || w.testBit 7 || w.testBit 3 then s.fail0 0x0E i
  else
    let se := bitsOf w 0 3
    match (s.reg.engine se).parm (bitsOf w 4 3) field (s.rx b) with
    | none => s.block
    | some en => .next ((s.onReg (·.setEngine se en)).advance)

def execInj (port : BitVec 5) (a : XReg) (slot : BitVec 5) (s : State) : Out :=
  let i := Instr.inj port a slot
  s.within i port 3 fun s => s.within i slot 7 fun s =>
    let sl := s.reg.slot slot.toNat
    let q := AMap.findD sl.ctl port.toNat []
    if q.length ≥ 4 then s.block
    else .next ((s.onReg (·.setSlot slot.toNat { sl with ctl := AMap.put sl.ctl port.toNat (q ++ [s.rx a]) })).advance)

def execGetk (d : XReg) (k : BitVec 3) (s : State) : Out :=
  let p := s.reg.pacer
  if p.kValid.getLsbD k.toNat then
    (s.onPacer (fun p => { p with kValid := p.kValid &&& ~~~((1 : BitVec 8) <<< k.toNat) })).ret d (p.k[k.toNat]'k.isLt)
  else s.block

def execDrain (slot : BitVec 5) (s : State) : Out :=
  s.within (.drain slot) slot 7 fun s => if s.drained s.cur slot.toNat then .next s.advance else s.block

/-! ### Snapshots (R266, R267) -/

/-- The markers of a snapshot of a slot: every input owes one, and port 8 stands for an engine or control port (R135). -/
def Region.startSnap (g : Region) (k : Nat) (buf : Cap) (b : Block) : Region :=
  let es := List.range b.elems.length
  let source := fun (w : ElemWord) => (w.kind == 4 && !w.agWrite) || (w.kind == 0xB && (w.op == 0 || w.op == 3))
  let owed := es.flatMap (fun e => (b.el e).ports.map (fun p => (e, p)) ++ if source (b.el e) then [(e, 8)] else [])
  let exits := (List.range 8).filter (fun se => b.exit.testBit se)
  let g1 := (b.sesOf none).foldl (fun (h : Region) se =>
    let e := h.engine se
    h.setEngSlot se k { e.slot k with mark := some ((e.slot k).entry.length + (e.fetches.filter (fun f => f.slot == k)).length) }) g
  { g1 with snap := { status := .pending, slot := k, buf := buf, recorded := [], owed := owed, logs := [], exits := exits } }

/-- The bytes that a snapshot's buffer must span. -/
def snapSize (elems : Nat) : Nat := snapPart elems

/-- SNAP.MARK (R266): ELEMS of a block that is not resident is known, and the span checked, once it has been refetched. -/
def execSnapMark (ca : CReg) (slot : BitVec 5) (s : State) : Out :=
  let i := Instr.snapMark ca slot
  s.within i slot 7 fun s =>
    let k := slot.toNat
    let c := s.rc ca
    let sl := s.reg.slot k
    let span := fun (b : Option Block) => s.access c c.cursor.toNat (snapSize ((b.map (·.elemCount)).getD 0)) (permStore + permEngine) kindWrite
      memSpaces Use.store
    if c.cursor.toNat % 4096 != 0 then s.fail0 0x0E i
    else match span sl.block with
      | .error f => s.failAt i c.cursor f
      | .ok _ =>
        if !s.reg.armed k || s.reg.snap.status == .pending then s.fail0 0x0F i
        else
          match s.refetch s.cur k with
          | (s1, false) => .next s1
          | (s1, true) =>
            match (s1.reg.slot k).block with
            | none => .next s1
            | some b =>
              match span (some b) with
              | .error f => s1.failAt i c.cursor f
              | .ok _ => .next (((s1.onReg (·.startSnap k c b)).marks s1.cur 300).advance)

/-- SNAP.WAIT's word. -/
def SnapStatus.word : SnapStatus → Word
  | .done => 0xAE00
  | .pending => 1
  | .failed => 0x5E02
  | .none => 3

def execSnapWait (d a : XReg) (slot : BitVec 5) (s : State) : Out :=
  s.within (.snapWait d a slot) slot 7 fun s =>
    let st := s.reg.snap.status
    let start := match s.reg.wait with | .snap t => t | _ => s.cyc
    if st != .pending || s.rx a == 0 || s.cyc - start ≥ (s.rx a).toNat then
      (s.onReg (fun g => { g with wait := .none, snap := { g.snap with status := if st == .pending then .pending else .none } })).ret d st.word
    else .next (s.onReg (fun g => { g with wait := .snap start }))

end Sys2Proof.Machine
end

