-- ==== Sys2Proof/Machine/FieldUnits.lean ====
section
/-! DEFINITION. The steps of the region's units around the Field: the Starter, the reconfiguration wave, refetch and soft errors of the
configuration cache, round starts, routers, the controller and split markers (R103, R112 to R115, R119, R135). -/

namespace Sys2Proof.Machine

open Sys2Proof

/-- R113. -/
def execStarterDecision (s : State) : Out := .next (s.onReg Region.decide)

/-- R114. -/
def execReconfigurationWave (e : Nat) (s : State) : Out := .next (s.onReg (·.wave e))

/-- R112: a waiting token of a slot that is not resident makes the cache refetch its block. -/
def execConfigRefetch (slot : Nat) (s : State) : Out :=
  let g := s.reg
  if !g.frozen && (List.range 8).any (fun se => (g.engine se).waiting slot) then .next (s.refetch s.cur slot).1 else .next s

/-- R112: the slot's block stops being resident; its arm and its configuration store stay. -/
def execCacheSoftError (slot : Nat) (s : State) : Out :=
  .next (if (AMap.find s.reg.slots slot).isSome then s.onReg (fun g => g.setSlot slot { g.slot slot with block := none }) else s)

/-- R115, R116, R317. -/
def execRoundStart (se : Nat) (s : State) : Out := .next (s.roundStart s.cur se)

/-- R103: a frozen Field moves nothing. -/
def execRouterMove (link : Nat) (s : State) : Out :=
  .next (if s.reg.frozen then s else s.onReg (fun g => { g with insts := moveLink s.stamp g.insts link }))

/-- R119, R262. -/
def execControllerIteration (s : State) : Out := .next (s.controller s.cur)

/-- R135. -/
def execSplitMarker (e port : Nat) (s : State) : Out := .next (s.splitMarker s.cur e port)

end Sys2Proof.Machine
end

