-- ==== Sys2Proof/Machine/HostReqs.lean ====
section
/-! DEFINITION. Host requests at the Isaud edge (R14 to R17) and the steps of the ordering machine as rows of their own: PASS, ADMIT, APPLY,
SERVE, COMBINE and a device write with completion (R15, R167, R180). -/

namespace Sys2Proof.Machine

open Sys2Proof

/-! ### Requests from the host (R14 to R17) -/

/-- A request may be issued: the link is up, and n bytes, 1 to 256, cross no 256-byte boundary. -/
def State.hostMay (s : State) (addr n : Nat) : Bool :=
  s.isaudUp && 1 ≤ n && n ≤ 256 && addr / 256 == (addr + n - 1) / 256

/-- An aligned access of up to 64 bytes within a 64-byte boundary is one request; others go granule by granule (R17, R142). -/
def hostPieces (addr n : Nat) : List (Nat × Nat) := if n ≤ 64 && addr % n == 0 && addr / 64 == (addr + n - 1) / 64 then [(addr, n)] else pieces addr n

/-- The places of a host access: keys, sizes, ports and merging flags; none where the virtual device or a translation fails. -/
def State.hostPlaces (s : State) (ap : Aperture) (addr n : Nat) (use : Use) : Option (List (Nat × Nat × Port × Bool)) :=
  match ap with
  | .sup => some [(apKey addr, n, .aperture, false)]
  | .vd v =>
    (hostPieces addr n).foldl (fun acc p =>
      match acc, s.translate (some v) p.1 use 0x34 with
      | some l, .ok (pa, cm) => some (l ++ [(hbmKey pa, p.2, portOf (hbmKey pa), cm)])
      | _, _ => none) (some [])

/-- A request that the device turns away: it completes with status UNSUPPORTED in its turn (R16, R17). -/
def State.unsupported (s : State) (thread : Nat) : State :=
  ({ s with hostOps := s.hostOps ++ [{ thread := thread, ids := [], got := [], ok := false }] } : State).hostConsume thread

/-- Requests of a thread enter the inbound queue; a non-posted one waits for its completions (R14, R16). -/
def State.hostIssue (s : State) (thread : Nat) (posted : Bool) (rs : List NewReq) : State :=
  let (s1, ids) := s.enter (.host thread) (.inHost thread) rs
  { s1 with
    reqs := s.reqs ++ (s1.reqs.drop s.reqs.length).map (fun q => { q with posted := posted }),
    hostOps := if posted then s1.hostOps else s1.hostOps ++ [{ thread := thread, ids := ids, got := [], ok := true }] }

/-- HOST_READ. -/
def execHostRead (thread : Nat) (ap : Aperture) (addr n : Nat) (s : State) : Out :=
  .next (if !s.hostMay addr n then s
    else match s.hostPlaces ap addr n Use.read with
      | none => s.unsupported thread
      | some ps => s.hostIssue thread false (ps.map (fun p => { key := p.1, va := 0, port := p.2.2.1, cmpr := p.2.2.2, act := .read p.2.1 })))

/-- A host write's requests: its bytes dealt out to its places. -/
def hostWrites (ps : List (Nat × Nat × Port × Bool)) (bytes : List Byte) : List NewReq :=
  (ps.foldl (fun (acc : List NewReq × List Byte) p =>
    (acc.1 ++ [{ key := p.1, va := 0, port := p.2.2.1, cmpr := p.2.2.2, act := .write (plain (acc.2.take p.2.1)) .keep }],
      acc.2.drop p.2.1)) ([], bytes)).1

/-- POSTED_WRITE: one that cannot be translated is discarded (log 62). -/
def execPostedWrite (thread : Nat) (ap : Aperture) (addr : Nat) (bytes : List Byte) (s : State) : Out :=
  .next (if !s.hostMay addr bytes.length then s
    else match s.hostPlaces ap addr bytes.length Use.store with
      | none => s
      | some ps => s.hostIssue thread true (hostWrites ps bytes))

/-- A host's write with completion: as a posted write, with a completion once it is applied (R14). -/
def State.hostWriteDone (s : State) (w : HostWrite) : State :=
  if !s.hostMay w.addr w.bytes.length then s
  else match s.hostPlaces w.ap w.addr w.bytes.length Use.store with
    | none => s.unsupported w.thread
    | some ps => s.hostIssue w.thread false (hostWrites ps w.bytes)

/-- A host atomic on n bytes: UNSUPPORTED where it is not naturally aligned (R17). -/
def State.hostAtomic (s : State) (thread : Nat) (ap : Aperture) (addr n : Nat) (op : AmoOp) (v cmp : Word) : Out :=
  .next (if !s.isaudUp then s
    else if addr % n != 0 then s.unsupported thread
    else match s.hostPlaces ap addr n Use.store with
      | none => s.unsupported thread
      | some ps => s.hostIssue thread false (ps.map (fun p => { key := p.1, va := 0, port := p.2.2.1, cmpr := p.2.2.2, act := .amo op n v cmp })))

def execFadd32 (thread : Nat) (ap : Aperture) (addr : Nat) (v : BitVec 32) (s : State) : Out :=
  s.hostAtomic thread ap addr 4 .add (v.zeroExtend 64) 0
def execFadd64 (thread : Nat) (ap : Aperture) (addr : Nat) (v : Word) (s : State) : Out := s.hostAtomic thread ap addr 8 .add v 0
def execSwap64 (thread : Nat) (ap : Aperture) (addr : Nat) (v : Word) (s : State) : Out := s.hostAtomic thread ap addr 8 .swap v 0
def execCas64 (thread : Nat) (ap : Aperture) (addr : Nat) (cmp v : Word) (s : State) : Out := s.hostAtomic thread ap addr 8 .cas v cmp

/-! ### The aperture's port (R35) -/

/-- A host request takes effect at the supervisor aperture. A read of the open window returns the bytes of an uncorrectable granule (the model's choice,
log 62). -/
def State.applyAperture (s : State) (q : Req) : State :=
  let off := q.key - apKey 0
  let t := s.dropReq q
  match q.act with
  | .read n => t.respond q (t.apRead off n) false
  | .write bs _ => ((t.apWrite off (bs.map (·.1))).deadQueues q.key).finish q
  | .amo op size v cmp =>
    let old := leNat (t.apRead off size)
    ((t.apWrite off (leBytes size (amoNew op old v cmp size))).deadQueues q.key).respond q (leBytes size old) true
  | _ => t.report q 0xB1

/-- APPLY at any port. -/
def State.applyAt (s : State) (p : Port) : State :=
  match p with
  | .aperture => match s.headOf .pq .aperture with
    | some q => s.applyAperture q
    | none => s
  | _ => s.applyPort p

/-! ### Rows of the ordering machine (R15, R167, R180) -/

def execPass (l : Level) (unit : Nat) (p : Port) (s : State) : Out := .next (s.pass l unit p)
def execAdmit (fromPeer : Bool) (n : Nat) (s : State) : Out := .next (s.admitReq fromPeer n)
def execApply (p : Port) (s : State) : Out := .next (s.applyAt p)
def execServe (p : Port) (g : Nat) (s : State) : Out := .next (s.serve (portNum p) g)
def execCombine (w e : Nat) (s : State) : Out := .next (s.combineWin w e)

/-- The request writes. -/
def Act.writes : Act → Bool
  | .write _ _ => true
  | .writeDone _ => true
  | .capWrite _ _ => true
  | _ => false

/-- The device's write at the head of the host port's queue becomes visible, and its completion sets out (R15). -/
def State.deviceWriteDone (s : State) : State :=
  match s.headOf .pq .host with
  | some q => if q.act.writes then (s.applyReq q).getD s else s
  | none => s

/-- WRITE_WITH_COMPLETION (R14, R15): the host issues one, or the device's own is made. -/
def execWriteWithCompletion (s : State) : Out :=
  .next (match s.hostWrite with
    | some w => ({ s with hostWrite := none } : State).hostWriteDone w
    | none => s.deviceWriteDone)

end Sys2Proof.Machine
end

