-- ==== Sys2Proof/Machine/TaskInstr.lean ====
section
/-! DEFINITION. The TASK group of Pacer instructions but for sequences: tasks, triggers, heats and the ballot (R66, R73, R74, R78 to R82, R84,
R89, R284 to R287), and the arm boundary as a cancellation point (R72, R111). -/

namespace Sys2Proof.Machine

open Sys2Proof

/-- ARM_BOUNDARY (R72, R111, R252, R262): the arm is released, EV bit 1 is set, and a pending cancel takes effect. -/
def execArmBoundary (slot : Nat) (s : State) : Out :=
  .next (if s.reg.frozen || !s.armOver s.cur slot then s
    else
      (s.onReg (fun g =>
        let sl := g.slot slot
        { (g.setSlot slot { sl with arm := none }) with
          ctl := if sl.arm.any (·.tree) then g.ctl.armEnded slot else g.ctl,
          pacer := { g.pacer with ev := g.pacer.ev ||| 2 } })).cancelPoint s.cur 4)

/-! ### Tasks (R66, R284, R285) -/

/-- The queue whose descriptor stands at a key. -/
def State.queueAt (s : State) (k : Nat) : Option (Nat × Queue) := s.queues.find? (fun p => s.queueKey p.2 p.2.desc == some k)

/-- TASK.SPAWN (R284): the checks, the release at DEV, and the claim; the slot write follows the claim's response. What a
port finds in reading the packet is a deferred store fault (R256, log 79). -/
def execTaskSpawn (d : XReg) (ca cb : CReg) (s : State) : Out :=
  let i := Instr.taskSpawn d ca cb
  let qc := s.rc ca
  let pc := s.rc cb
  if pc.cursor.toNat % 64 != 0 then s.fail0 0x0E i
  else match s.access qc qc.cursor.toNat 128 (permLoad + permStore + permAtomic) kindAtomic memSpaces Use.store with
    | .error f => s.failAt i qc.cursor f
    | .ok (sp, ps) =>
      match s.access pc pc.cursor.toNat 64 permLoad kindRead recordSpaces Use.read with
      | .error f => s.failAt i pc.cursor f
      | .ok _ =>
        let key := match ps with | p :: _ => p.key | [] => 0
        match s.queueAt key with
        | none => s.fail 0x9C s.reg.pacer.taskid
        | some (qid, q) =>
          if q.kind != 1 || q.state == .dead then s.fail 0x9C s.reg.pacer.taskid
          else if s.vd != some q.vd then s.fail 0x9F s.reg.pacer.taskid
          else match s.fetchData pc pc.cursor.toNat 64 permLoad recordSpaces with
            | .error f => s.failRead i pc pc.cursor.toNat 64 permLoad recordSpaces f (fun t => t.deferredTo d)
            | .ok (s1, pkt) =>
              if fieldLe pkt 0 1 != 1 then s1.fail0 0x0E i
              else if !s1.released 3 then s1.block
              else s1.issueWait qc.cursor sp 8 (ps.take 1) (fun _ => .claim q.slots) (.spawnClaim d qid pkt)

/-- TASK.CANCEL (R71, R285). -/
def execTaskCancel (d a : XReg) (s : State) : Out :=
  let id := (s.rx a).toNat
  if (match s.vd with | some v => s.cancellable v id | none => false) then .next (((s.wx d 0).advance).cancelTask id)
  else s.ret d 1

/-- TASK.RETIRE (R66, R69, R72, R285): it waits for the stores of Pacer and Field; a fault that they left pending comes first, then a
pending cancel. The task ends with its last member. -/
def execTaskRetire (s : State) : Out :=
  if s.sup then s.fail0 0x0F .taskRetire
  else if !(s.reg.task.bind s.task).all (fun t => s.applied t [s.cur]) || !s.settled s.cur || s.reg.pend.isSome then s.block
  else
    match s.reg.task with
    | none => .next (s.onReg (fun g => { g with run := .off }))
    | some id =>
      if s.cancelPending s.cur then .next (s.cancelPoint s.cur 6)
      else
        let s1 := (s.onTask id (fun t => { t with retired := t.retired ++ [s.reg.rank] })).onReg (fun g => { g with run := .off, frozen := true })
        .next (match s1.task id with
          | none => s1
          | some t => if t.retired.length ≥ t.gang then s1.finishTask id { fate := 1, res := resOk, cause := 0, quiet := false } else s1)

/-! ### Triggers (R73, R74, R286) -/

def trigWord1 (task : Nat) : Nat := 3 * 2 ^ 56 + task
def trigWord0 (bound : Bool) (pend : Nat) : Nat := (if bound then 2 ^ 16 else 0) + pend

/-- A TCB loses the binding of a trigger (R64, R286): it becomes UNLAUNCHED after its last accepted run, unless another trigger holds it. -/
def State.unbound (s : State) (id : Nat) : State :=
  match s.task id with
  | none => s
  | some t =>
    if s.trigs.any (fun x => x.task == id) then s
    else if t.st == .armed then
      let s1 := s.writeState t .unlaunched
      { s1 with tasks := AMap.del s1.tasks id }
    else s.putTask id { t with unbind := true }

/-- The committed binding of a granule is removed. -/
def State.dropBinding (s : State) (g : Nat) : State :=
  match s.trigs.find? (fun t => t.key == g) with
  | none => s
  | some t => ({ s with trigs := s.trigs.filter (fun x => x.key != g) } : State).unbound t.task

/-- What a failed check of TRIG.BIND concerns: the TCB's contents, the heat that it names, or the Marshal's read of it (R74, R374). -/
inductive BindFail where
  | contents | heat | read
deriving DecidableEq, Repr

/-- The checks of R74 on a TCB: its contents, the id it keeps while ARMED, or the cause and what it concerns. Launch check 8 does not ask whether the heat
of an HV TCB is still OPEN (the model's choice, log 73). -/
def State.bindCheck (s : State) (vd : Nat) (c : Cap) : Except (Byte × BindFail) (Tcb × Option Nat) :=
  match s.readTcb vd c with
  | .error f => .error (f, .read)
  | .ok b =>
    let t := b.task vd 0 c none [] Cap.null Cap.null
    let old := if b.state == TaskState.armed.code then s.taskAt vd c.spaceAt c.cursor.toNat else none
    if b.state != 0 && b.state != TaskState.cancelled.code && old.isNone then .error (0x96, .contents)
    else match s.tcbFault b t with
      | some f => .error (f, .contents)
      | none =>
        if old.isNone && s.heatCheck t == none then .error (0x94, .heat)
        else if schedGang t.sched > 1 then .error (0x97, .contents)
        else .ok (b, old)

/-- A binding commits, or its port refuses it (R73, R74): the TCB becomes ARMED, under a new task id unless it was, and accepts the latched posts.
One with HV = 1 takes its sibling slot, and the end of its first run is the sibling's final state (the model's choice, log 73). -/
def State.bindTrigger (s : State) (k vd : Nat) (c : Cap) (b : Tcb) (old : Option Nat) (args : List Word) (pend : Nat) (cmpr : Bool) : Except Byte State :=
  let (id, s1) := match old with | some id => (id, s) | none => s.newId vd
  let fresh := b.task vd id c none args Cap.null Cap.null
  let t := match s1.task id with | some u => { fresh with runs := u.runs, ordinal := u.ordinal } | none => fresh
  let s2 := (if old.isNone then (s1.writeTaskId t id).joinHeat id t else s1).putTask id { t with st := .armed }
  ((s2.writeState t .armed).setObj k (trigWord0 true 0) (trigWord1 id) cmpr).map (fun s3 =>
    ({ (s3.setLive k true) with trigs := s3.trigs ++ [{ key := k / 16, task := id }] } : State).acceptRun id pend)

/-- Why the port refuses a binding: a link, a granule that is a barrier or a baton, or uncorrectable metadata or data (R122, R130, R286). -/
def State.bindFault (s : State) (p : Piece) : Option Byte :=
  let k := p.key / 16 * 16
  (s.portFault (some (dieOf s.cur)) (portOf p.key)).or
    (if s.isTrigger k then s.objFault k else if s.liveAt k then some 0x7F else s.metaFault k)

/-- TRIG.BIND (R286): the TCB is checked first, then the granule. -/
def execTrigBind (cd ca : CReg) (b : XReg) (s : State) : Out :=
  let i := Instr.trigBind cd ca b
  if b.toNat > 28 then s.fail0 0x0E i
  else s.wordOp i ca 16 permAtomic kindAtomic memSpaces Use.store 0 0 [0] fun a sp ps =>
    match ps with
    | [] => s.fail0 0x0E i
    | p :: _ =>
      let tc := s.rc cd
      let vd := s.vd.getD 32
      let args := (List.range 4).map (fun j => s.rxBlock b j)
      match if cd = 0 then none else some (tc.checkHere 128 (permLoad + permStore) kindRead) with
      | some (.error f) => s.failAt i tc.cursor f
      | _ =>
        if cd ≠ 0 ∧ tc.cursor.toNat % 128 ≠ 0 then s.fail0 0x0E i
        else
          let s1 := s.flushFor ps
          let k := p.key / 16 * 16
          let trig := s1.isTrigger k
          let pend := if trig then s1.w0 k % 65536 else 0
          let done := fun (r : Except Byte State) => match r with
            | .ok u => Host.Outcome.next (((u.walked sp (inSpace a) 16).noteAccess a 16).advance)
            | .error f => s1.deferred f a
          if cd = 0 then match s1.bindFault p with
            | some f => s1.deferred f (s1.tvalOf (portOf p.key) a f)
            | none => done (((s1.dropBinding (k / 16)).setObj k (trigWord0 false pend) (trigWord1 0) p.cmpr).map (·.setLive k true))
          else match s1.bindCheck vd tc with
            | .error (f, .heat) => s1.fail f (BitVec.ofNat 64 (match s1.readTcb vd tc with | .ok b => bitsOf b.sched 16 8 | .error _ => 0))
            | .error (f, .read) => (s1.unitFail 0 f tc.cursor.toNat).fail f tc.cursor
            | .error (f, .contents) => if f.toNat / 16 == 9 then s1.fail f s1.reg.pacer.taskid else s1.fail f tc.cursor
            | .ok (bk, old) => match s1.bindFault p with
              | some f => s1.deferred f (s1.tvalOf (portOf p.key) a f)
              | none =>
                -- no room for one more tracked task (R76, log 78)
                if old.isNone && s1.tracked ≥ taskLimit then s1.block else
                let gone := (s1.trigs.find? (fun t => t.key == k / 16)).map (·.task)
                -- a rebind to the same TCB leaves it armed (R73)
                let s2 := if gone == old && old.isSome then { s1 with trigs := s1.trigs.filter (fun x => x.key != k / 16) } else s1.dropBinding (k / 16)
                done (s2.bindTrigger k vd tc bk old args pend p.cmpr)

/-- TRIG.UNBIND (R286): keep 0 tears the trigger down. -/
def execTrigUnbind (ca : CReg) (keep : BitVec 5) (s : State) : Out :=
  let i := Instr.trigUnbind ca keep
  if keep.toNat > 1 then s.fail0 0x0E i
  else s.wordOp i ca 16 permAtomic kindAtomic memSpaces Use.store 0 0 [0] fun a sp ps =>
    match ps with
    | [] => s.fail0 0x0E i
    | p :: _ =>
      let s1 := s.flushFor ps
      let k := p.key / 16 * 16
      if let some f := (s1.portFault (some (dieOf s1.cur)) (portOf p.key)).or (s1.objFault k) then s1.deferred f (s1.tvalOf (portOf p.key) a f)
      else if !s1.isTrigger k then s1.deferred 0x78 a
      else if (s1.trigs.find? (fun t => t.key == k / 16)).isNone then s1.deferred 0x9D s1.reg.pacer.taskid
      else
        let pend := s1.w0 k % 65536
        let s2 := s1.dropBinding (k / 16)
        match (if keep = 0 then (s2.setObj k 0 0 p.cmpr).map (·.setLive k false) else s2.setObj k (trigWord0 false pend) (trigWord1 0) p.cmpr) with
        | .ok s3 => .next (((s3.walked sp (inSpace a) 16).noteAccess a 16).advance)
        | .error f => s1.deferred f a

/-! ### Heats and the ballot (R78 to R84, R89, R287) -/

/-- The virtual device for which the current code opens heats; 32 for supervisor code that runs for none. -/
def State.heatVd (s : State) : Nat := if s.sup then 32 else s.vd.getD 32

/-- The operands of HEAT.OPEN are within their limits (R78). -/
def heatOperandsOk (w : Nat) (c : Cap) : Bool :=
  let n := bitsOf w 0 7
  let q := bitsOf w 8 7
  w == n + q * 2 ^ 8 + bitsOf w 16 14 * 2 ^ 16 && 2 ≤ n && n ≤ 64 && 1 ≤ q && q ≤ n && c.cursor.toNat % 64 == 0 &&
    match c.checkHere (64 + 32 * n) permStore kindWrite with | .ok _ => true | .error _ => false

def mkHeat (vd w : Nat) (c : Cap) : Heat :=
  { vd := vd, n := bitsOf w 0 7, q := bitsOf w 8 7, grace := bitsOf w 16 14, rec_ := c, st := .open_, win := 0, decider := 0xFF, table := [],
    sibs := List.replicate (bitsOf w 0 7) Sibling.empty, done := false, closing := false, postAt := none }

def execHeatOpen (d : XReg) (ca : CReg) (b : XReg) (s : State) : Out :=
  let w := (s.rx b).toNat
  let c := s.rc ca
  if !heatOperandsOk w c then
    -- no heat id exists: TVAL is a free value
    let (v, s1) := s.drawWord
    s1.fail 0x94 v
  else match leastFree (s.heats.map (·.1)) 256 with
    | none => s.ret d (BitVec.allOnes 64)
    | some h => (s.putHeat h (mkHeat s.heatVd w c)).ret d (BitVec.ofNat 64 h)

/-- The heat that an operand names, if it is open for the caller. -/
def State.heatFor (s : State) (a : Word) : Option Heat := (s.heat a.toNat).filter (fun x => x.vd == s.heatVd)

/-- HEAT.CLOSE (R89). -/
def State.closeHeat (s : State) (h : Nat) (x : Heat) : State :=
  if x.done then { s with heats := AMap.del s.heats h }
  else
    let s1 := s.putHeat h { x with closing := true }
    if x.st == .open_ then (s1.decideHeat h .abandoned 0 0xFF).cancelSiblings h (x.losers none) else s1

def execHeatClose (a : XReg) (s : State) : Out :=
  match s.heatFor (s.rx a) with
  | none => s.fail 0x94 (s.rx a)
  | some x => .next (s.advance.closeHeat (s.rx a).toNat x)

/-- A post reaches the Podium (R80 to R82): the state, and the status returned. -/
def State.applyPost (s : State) (h i : Nat) (x0 : Heat) (hash : Word) : State × Nat :=
  let x := { x0 with postAt := some (s.now, i) }
  let idx := x.table.findIdx? (fun e => e.1 == hash)
  let note := fun (y : Heat) (slot : Nat) (late : Bool) =>
    y.setSib i { y.sib i with hash := some hash, slot := slot, late := late, settled := true }
  if x.st != .open_ then (s.putHeat h (note x (idx.getD 0x10) true), 2)
  else
    match idx with
    | none =>
      if x.table.length ≥ 16 then ((s.putHeat h (note x 0x10 false)).settleHeat h, 3)
      else count { x with table := x.table ++ [(hash, 1, i)] } x.table.length 1 note
    | some j =>
      let e := x.table.getD j (hash, 0, i)
      count { x with table := x.table.set j (hash, e.2.1 + 1, min e.2.2 i) } j (e.2.1 + 1) note
where
  count (y : Heat) (slot n : Nat) (note : Heat → Nat → Bool → Heat) : State × Nat :=
    let z := note y slot false
    let s1 := s.putHeat h z
    if n == y.q then ((s1.decideHeat h .decided hash i).cancelSiblings h (z.losers (some hash)), 1)
    else (s1.settleHeat h, 0)

/-- BALLOT.POST (R80, R287). -/
def execBallotPost (d a : XReg) (s : State) : Out :=
  match if s.sup then none else s.reg.task.bind (fun id => (s.task id).bind (fun t => s.sibOf id t)) with
  | none =>
    let (v, s1) := s.drawWord
    s1.fail 0x98 v
  | some (h, i) =>
    match s.heat h with
    | none => s.fail 0x98 (BitVec.ofNat 64 h)
    | some x =>
      if (x.sib i).hash.isSome then s.fail 0x98 (BitVec.ofNat 64 h)
      else if !s.released 4 then s.block
      -- posts of one fc are applied in ascending sibling index: one that comes behind a higher index reaches the Podium in a later fc (R80)
      else if x.postAt.any (fun p => p.1 == s.now && p.2 > i) then s.block
      else
        let hash := s.rx a
        let (s1, st) := s.applyPost h i x hash
        s1.ret d (BitVec.ofNat 64 st)

/-- The hash-table slot of the caller in a heat. -/
def State.mySlot (s : State) (h : Nat) : Nat :=
  match s.reg.task.bind (fun id => (s.task id).bind (fun t => s.sibOf id t)) with
  | some (g, i) => if g == h then ((s.heat h).map (fun x => (x.sib i).slot)).getD 0xFF else 0xFF
  | none => 0xFF

/-- BALLOT.POLL (R84, R287): the cancellation point of a task whose cancel has arrived. -/
def execBallotPoll (d a : XReg) (s : State) : Out :=
  let i := Instr.ballotPoll d a
  if d.toNat % 2 == 1 then s.fail0 0x0E i
  else if s.cancelPending s.cur then .next (s.cancelPoint s.cur 5)
  else match if s.sup then s.heat (s.rx a).toNat else s.heatFor (s.rx a) with
    | none => s.fail 0x94 (s.rx a)
    | some x =>
      let slot := if s.sup then 0xFF else s.mySlot (s.rx a).toNat
      .next (((s.wx d x.win).wx (d + 1) (BitVec.ofNat 64 (x.st.code + slot * 256))).advance)

end Sys2Proof.Machine
end

