-- ==== Sys2Proof/Machine/Index.lean ====
section
/-! DEFINITION. The Prefix Index and the sequence instructions: SEQ.ADMIT, SEQ.RELEASE and KV.SLOT (R87, R90 to R94, R288, R374). The Index's
nodes stand in State.index with the least recently matched first. -/

namespace Sys2Proof.Machine

open Sys2Proof

/-- The virtual device of the current code as the units know it. -/
def State.unitVd (s : State) : Nat := s.vd.getD 32

/-- The current Pacer's own requests are applied: the unit that reads for its instruction comes after them (R168). -/
def State.flushPacer (s : State) : State :=
  let ports := (s.reqs.filter (fun q => q.issuer == .pacer s.cur)).map (·.port)
  ports.foldl (fun t p => t.flush (pacerStages t.cur) p 10000) s

/-! ### Nodes (R90, R91) -/

/-- The node of a path in a pool. -/
def State.nodeAt (s : State) (vd : Nat) (pool : Cap) (model : BitVec 32) (path : List (BitVec 32)) : Option IdxNode :=
  s.index.find? (fun n => n.vd == vd && n.pool.cursor == pool.cursor && n.model == model && n.path == path)

/-- The blocks of the longest path of at most m blocks that the tokens spell. -/
def State.matched (s : State) (vd : Nat) (q : Sqd) (toks : List (BitVec 32)) : Nat → Nat → List IdxNode
  | 0, _ => []
  | m + 1, j =>
    match s.nodeAt vd q.pool q.model (toks.take (64 * (j + 1))) with
    | some n => n :: s.matched vd q toks m (j + 1)
    | none => []

/-- Token ids of a capability, n of them from its cursor. -/
def tokenIds (bs : List Byte) (n : Nat) : List (BitVec 32) := (List.range n).map (fun i => BitVec.ofNat 32 (fieldLe bs (4 * i) 4))

/-- A sequence of a unit's accesses, each with the address it shows on failure. -/
def unitSeq (s : State) : List (Nat × (State → Except Byte State)) → Except (Byte × Nat) State
  | [] => .ok s
  | (a, f) :: fs =>
    match f s with
    | .error c => .error (c, a)
    | .ok t => unitSeq t fs

/-- REF of a block raised by 1. -/
def Pool.raise (p : Pool) (vd b : Nat) : Nat × (State → Except Byte State) :=
  (p.kvd b, fun s => (s.unitAtomic vd p.cap (p.kvd b) 4 (fun r => r + 1)).map (·.2))

/-- The transaction of an admission (R91, R87): references, the SQD's fields, and BIND for a sibling. -/
def State.admitSeq (s : State) (vd : Nat) (q : Sqd) (p : Pool) (blocks : List Nat) (bind : Option (Nat × Nat)) : Except (Byte × Nat) State :=
  let w := fun (off : Nat) (bs : List Byte) => (q.at_ off, fun (t : State) => t.unitWrite vd q.cap (q.at_ off) bs)
  let m := blocks.length
  unitSeq s (blocks.map (p.raise vd) ++
    (if m == 0 then [] else [w 0x40 (blocks.flatMap (leBytes 4))]) ++
    [w 0x10 (leBytes 4 (64 * m) ++ leBytes 4 (64 * m) ++ leBytes 4 m), w 0x20 (leBytes 4 1)] ++
    (match bind with | some (h, i) => [w 0x24 (leBytes 4 (2 ^ 31 + i * 256 + h))] | none => []))

/-- A unit's failure faults the instruction, with the log record of R374. -/
def State.unitFault (s : State) (c : Byte) (a : Nat) : Out :=
  if c.toNat / 16 == 9 then s.fail c s.reg.pacer.taskid else (s.unitFail 2 c a).fail c (BitVec.ofNat 64 a)

/-- The access to an instruction's SQD: its alignment, then the checks of R234; a failure is one of the unit's accesses (R288, R374). -/
def State.toSqd (s : State) (i : Instr) (c : Cap) (perms : Nat) (k : Out) : Out :=
  if c.cursor.toNat % 64 != 0 then s.fail0 0x0E i
  else match s.access c c.cursor.toNat 64 perms kindRead memSpaces Use.read with
    | .error f => (if f.toNat < 0x10 then s else s.unitFail 2 f c.cursor.toNat).failAt i c.cursor f
    | .ok _ => k

/-- The contents of an instruction's SQD, or the fault of the failed read. -/
def State.withSqd (s : State) (c : Cap) (k : Sqd → Out) : Out :=
  match s.readSqd s.unitVd c with
  | .error f => s.unitFault f c.cursor.toNat
  | .ok q => k q

/-- The pool of an SQD, or the fault. -/
def State.withPool (s : State) (q : Sqd) (k : Pool → Out) : Out :=
  match s.readPool s.unitVd q.pool with
  | .error f => s.unitFault f q.pool.cursor.toNat
  | .ok p => k p

/-- The current task as a sibling. -/
def State.meSib (s : State) : Option (Nat × Nat) := s.reg.task.bind (fun id => (s.task id).bind (fun t => s.sibOf id t))

/-- The current task is a sibling that has bound an SQD (R87). -/
def State.hasBound (s : State) : Bool :=
  match s.meSib with
  | some (h, j) => (s.heat h).any (fun (x : Heat) => (x.sib j).sqd.isSome)
  | none => false

/-- SEQ.ADMIT (R87, R91, R288): its checks in the order of R288. -/
def execSeqAdmit (d : XReg) (ca cb : CReg) (s0 : State) : Out :=
  let i := Instr.seqAdmit d ca cb
  if s0.sup then s0.fail0 0x0F i
  else
    let s := s0.flushPacer
    let tc := s.rc cb
    let span := (tc.top - tc.cursor.toNat).toNat
    let n := span / 4
    s.toSqd i (s.rc ca) (permLoad + permStore) <|
      match tc.checkRaw tc.cursor.toNat (4 * n) permLoad kindRead with
      | some f => s.failAt i tc.cursor f
      | none =>
        if span % 4 != 0 then s.fail0 0x0E i
        else if n < 1 || n > 262144 then s.fail 0x9E s.reg.pacer.taskid
        else s.withSqd (s.rc ca) fun q =>
        if q.st != 0 || q.bad || s.hasBound then s.fail 0x99 s.reg.pacer.taskid
        else s.withPool q fun p =>
          match s.fetchData tc tc.cursor.toNat (4 * n) permLoad recordSpaces with
          | .error f => s.failAt i tc.cursor f
          | .ok (s1, bs) =>
            let v := s1.unitVd
            let hit := s1.matched v q (tokenIds bs n) (min ((n - 1) / 64) q.room) 0
            match s1.admitSeq v q p (hit.map (·.block)) s.meSib with
            | .error (f, a) => s.unitFault f a
            | .ok s2 =>
              let s3 := { s2 with index := s2.index.filter (fun x => !hit.contains x) ++ hit.map (fun (x : IdxNode) => { x with used := s2.now }) }
              let s4 := match s.meSib with
                | some (h, j) => s3.onSib h j (fun (b : Sibling) => { b with sqd := some q.cap })
                | none => s3
              s4.ret d (BitVec.ofNat 64 (64 * hit.length))

/-! ### Publishing and release (R92) -/

/-- A node with no node below it. -/
def State.isLeaf (s : State) (n : IdxNode) : Bool :=
  s.index.all (fun x => !(x.vd == n.vd && x.pool.cursor == n.pool.cursor && x.model == n.model &&
    x.path.length > n.path.length && x.path.take n.path.length == n.path))

/-- The pool and REF of a node's block as its own capability reaches them, or the failed access; none: the pool descriptor is invalid. -/
def State.nodeRef (s : State) (n : IdxNode) : Except (Option (Byte × Nat)) (Pool × Nat) :=
  match s.readPool n.vd n.pool with
  | .error f => .error (if f == 0x9A then none else some (f, n.pool.cursor.toNat))
  | .ok p =>
    match s.unitRead n.vd p.cap (p.kvd n.block) 4 with
    | .ok bs => .ok (p, leNat bs)
    | .error f => .error (some (f, p.kvd n.block))

/-- The leaf of some nodes that an insertion evicts: the least recently matched whose block has REF = 1; each failed access on the way leaves a log
record (R374). -/
def State.evictable (s : State) : List IdxNode → State × Option (IdxNode × Pool)
  | [] => (s, none)
  | n :: ns =>
    if !s.isLeaf n then s.evictable ns
    else match s.nodeRef n with
      | .ok (p, r) => if r == 1 then (s, some (n, p)) else s.evictable ns
      | .error none => s.evictable ns
      | .error (some (f, a)) => (s.unitFail 2 f a).evictable ns

/-- INDEXED of a block set or cleared (R93). -/
def State.setIndexed (s : State) (vd : Nat) (p : Pool) (b : Nat) (v : Bool) : Except Byte State :=
  (s.unitAtomic vd p.cap (p.kvd b + 4) 4 (fun f => if v then f ||| 1 else f - f % 2)).map (·.2)

/-- The most nodes that the Index holds (R90). -/
def indexSize : Nat := 2 ^ 22

/-- Room for one node, and whether there is any: false where no leaf can be evicted, or an access of its eviction fails, which leaves the block,
its REF and its INDEXED flag as they were (R87, R90, R374). -/
def State.makeRoom (s : State) : State × Bool :=
  if s.index.length < indexSize then (s, true)
  else match s.evictable s.index with
    | (t, none) => (t, false)
    | (t, some (n, p)) =>
      match (atAddr (p.kvd n.block + 4) (t.setIndexed n.vd p n.block false)).bind (·.dropRef n.vd p n.block) with
      | .error (f, a) => (t.unitFail 2 f a, false)
      | .ok (u, _) => ({ u with index := u.index.filter (· != n) }, true)

/-- The insertion of a block: one reference, INDEXED, and the node. -/
def State.insertNode (s : State) (vd : Nat) (q : Sqd) (p : Pool) (path : List (BitVec 32)) (b : Nat) : Except (Byte × Nat) State :=
  match unitSeq s [p.raise vd b, (p.kvd b + 4, fun t => t.setIndexed vd p b true)] with
  | .error e => .error e
  | .ok s1 => .ok { s1 with index := s1.index ++ [{ vd := vd, pool := q.pool, model := q.model, path := path, block := b, used := s1.now }] }

/-- What a publication has done: blocks inserted, and the first failed access (R92, R374). -/
structure Published where
  count : Nat
  first : Option (Byte × Nat)
deriving DecidableEq, Repr

/-- A failed access of the publication: it is logged, and its block is left as it was. -/
def Published.fail (w : Published) (f : Byte) (a : Nat) : Published := { w with first := w.first.or (some (f, a)) }

/-- Block j of a sequence is published at a path that no node holds, if its SURV is all ones and there is room (R92). -/
def State.publishOne (s : State) (vd : Nat) (q : Sqd) (p : Pool) (path : List (BitVec 32)) (b : Nat) (w : Published) : State × Published :=
  match s.unitRead vd p.cap (p.kvd b + 8) 8 with
  | .error f => (s.unitFail 2 f (p.kvd b + 8), w.fail f (p.kvd b + 8))
  | .ok sv =>
    if leNat sv != 2 ^ 64 - 1 then (s, w)
    else match s.makeRoom with
      | (s1, false) => (s1, w)
      | (s1, true) => match s1.insertNode vd q p path b with
        | .error (f, a) => (s1.unitFail 2 f a, w.fail f a)
        | .ok s2 => (s2, { w with count := w.count + 1 })

/-- The publication of k blocks from block j: it stops only at a path whose node holds another block (R92). -/
def State.publish (s : State) (vd : Nat) (q : Sqd) (p : Pool) (toks : List (BitVec 32)) : Nat → Nat → Published → State × Published
  | 0, _, w => (s, w)
  | k + 1, j, w =>
    let path := toks.take (64 * (j + 1))
    match s.blockOf vd q j with
    | .error f => (s.unitFail 2 f (q.at_ (0x40 + 4 * j))).publish vd q p toks k (j + 1) (w.fail f (q.at_ (0x40 + 4 * j)))
    | .ok b =>
      match s.nodeAt vd q.pool q.model path with
      | some x => if x.block == b then s.publish vd q p toks k (j + 1) w else (s, w)
      | none => let (s1, w1) := s.publishOne vd q p path b w; s1.publish vd q p toks k (j + 1) w1

/-- A REF of 0 or a failure that a sibling's own release of its bound sequence meets shows in its entry (R87). -/
def State.ownRelease (s : State) (q : Sqd) (w : Walk) : State :=
  match s.meSib with
  | some (h, j) => s.onSib h j (fun (b : Sibling) =>
      if b.sqd.any (fun (c : Cap) => c.spaceAt == q.cap.spaceAt && c.cursor == q.cap.cursor) then { b with relfault := b.relfault || w.fault } else b)
  | none => s

/-- SEQ.RELEASE (R87, R92, R288, R374): its checks in the order of R288. -/
def execSeqRelease (d : XReg) (ca cb : CReg) (s0 : State) : Out :=
  let i := Instr.seqRelease d ca cb
  if s0.sup then s0.fail0 0x0F i
  else
    let s := s0.flushPacer
    let tc := s.rc cb
    let k := (s.rx d).toNat
    s.toSqd i (s.rc ca) (permLoad + permStore) <| s.withSqd (s.rc ca) fun q =>
      if k > q.nblk then s.fail0 0x0E i
      else match if k == 0 then none else tc.checkRaw tc.cursor.toNat (256 * k) permLoad kindRead with
        | some f => s.fail (if f == 0x14 then 0x15 else f) tc.cursor
        | none =>
          if q.st != 1 then s.fail 0x9B s.reg.pacer.taskid
          else if q.bad then s.fail 0x99 s.reg.pacer.taskid
          else s.withPool q fun p =>
          match if k == 0 then .ok (s, []) else s.fetchData tc tc.cursor.toNat (256 * k) permLoad recordSpaces with
          | .error f => s.failAt i tc.cursor f
          | .ok (s1, bs) =>
            let v := s1.unitVd
            let (s2, n) := s1.publish v q p (tokenIds bs (64 * k)) k 0 { count := 0, first := none }
            let (s3, w) := s2.walkBlocks 2 v q p q.nblk 0 { freed := 0, fault := false, first := none }
            let s4 := (s3.unitTry 2 v q.cap (q.at_ 0x20) (leBytes 4 2)).ownRelease q w
            match n.first.or w.first with
            | some (f, a) => s4.fail f (BitVec.ofNat 64 a)
            | none => s4.ret d (BitVec.ofNat 64 n.count)

/-- KV.SLOT (R94, R288). -/
def execKvSlot (d : XReg) (ca : CReg) (b : XReg) (s0 : State) : Out :=
  let i := Instr.kvSlot d ca b
  let s := s0.flushPacer
  let c := s.rc ca
  s.toSqd i c permLoad <|
    match s.kvSlot s.unitVd c (s.rx b).toNat with
    | .error (f, a) => s.unitFault f a
    | .ok (.kept blk sl) => s.ret d (BitVec.ofNat 64 (blk * 256 + sl))
    | .ok .beyond => s.ret d (BitVec.allOnes 64)
    | .ok .notKept => s.ret d (BitVec.allOnes 64 - 1)

end Sys2Proof.Machine
end

