-- ==== Sys2Proof/Machine/Integer.lean ====
section
/-! DEFINITION. Integer and immediate instructions (R218 to R224). -/

namespace Sys2Proof.Machine

open Sys2Proof

/-- X(XD) := f (X(XA), X(XB)). -/
def opRR (f : Word → Word → Word) (d a b : XReg) (s : State) : Out := s.ret d (f (s.rx a) (s.rx b))
/-- X(XD) := f (X(XA)). -/
def opR (f : Word → Word) (d a : XReg) (s : State) : Out := s.ret d (f (s.rx a))
def boolWord (b : Bool) : Word := if b then 1 else 0

def execAdd (d a b : XReg) (s : State) : Out := opRR (· + ·) d a b s
def execSub (d a b : XReg) (s : State) : Out := opRR (· - ·) d a b s
def execAnd (d a b : XReg) (s : State) : Out := opRR (· &&& ·) d a b s
def execOr (d a b : XReg) (s : State) : Out := opRR (· ||| ·) d a b s
def execXor (d a b : XReg) (s : State) : Out := opRR (· ^^^ ·) d a b s
def execAndn (d a b : XReg) (s : State) : Out := opRR (fun x y => x &&& ~~~y) d a b s
/-- The shifts read only X(XB)[5:0] (R218). -/
def shiftOf (y : Word) : Nat := y.toNat % 64
def execSll (d a b : XReg) (s : State) : Out := opRR (fun x y => x <<< shiftOf y) d a b s
def execSrl (d a b : XReg) (s : State) : Out := opRR (fun x y => x >>> shiftOf y) d a b s
def execSra (d a b : XReg) (s : State) : Out := opRR (fun x y => x.sshiftRight (shiftOf y)) d a b s
def execSlt (d a b : XReg) (s : State) : Out := opRR (fun x y => boolWord (x.slt y)) d a b s
def execSltu (d a b : XReg) (s : State) : Out := opRR (fun x y => boolWord (x.ult y)) d a b s
def execMin (d a b : XReg) (s : State) : Out := opRR (fun x y => if x.slt y then x else y) d a b s
def execMax (d a b : XReg) (s : State) : Out := opRR (fun x y => if x.slt y then y else x) d a b s
def execMinu (d a b : XReg) (s : State) : Out := opRR (fun x y => if x.ult y then x else y) d a b s
def execMaxu (d a b : XReg) (s : State) : Out := opRR (fun x y => if x.ult y then y else x) d a b s

/-! ### Multiply and divide (R219) -/

def execMul (d a b : XReg) (s : State) : Out := opRR (· * ·) d a b s
def execMulh (d a b : XReg) (s : State) : Out := opRR (fun x y => BitVec.ofInt 64 (x.toInt * y.toInt / 2 ^ 64)) d a b s
def execMulhu (d a b : XReg) (s : State) : Out := opRR (fun x y => BitVec.ofNat 64 (x.toNat * y.toNat / 2 ^ 64)) d a b s

/-- A division faults with 0x08 on a zero divisor (R219). -/
def opDiv (i : Instr) (f : Word → Word → Word) (d a b : XReg) (s : State) : Out :=
  if s.rx b = 0 then s.fail0 0x08 i else opRR f d a b s

def execDiv (d a b : XReg) (s : State) : Out := opDiv (.div d a b) (fun x y => BitVec.ofInt 64 (x.toInt.tdiv y.toInt)) d a b s
def execDivu (d a b : XReg) (s : State) : Out := opDiv (.divu d a b) (fun x y => BitVec.ofNat 64 (x.toNat / y.toNat)) d a b s
def execRem (d a b : XReg) (s : State) : Out := opDiv (.rem d a b) (fun x y => BitVec.ofInt 64 (x.toInt.tmod y.toInt)) d a b s
def execRemu (d a b : XReg) (s : State) : Out := opDiv (.remu d a b) (fun x y => BitVec.ofNat 64 (x.toNat % y.toNat)) d a b s

/-! ### Bits (R220 to R222) -/

/-- Zero bits above the highest 1 bit among the low k bits. -/
def leadZeros (v : Nat) : Nat → Nat
  | 0 => 0
  | k + 1 => if v.testBit k then 0 else 1 + leadZeros v k
/-- Zero bits below the lowest 1 bit, at most k of them, from bit i. -/
def trailZeros (v : Nat) : Nat → Nat → Nat
  | 0, _ => 0
  | k + 1, i => if v.testBit i then 0 else 1 + trailZeros v k (i + 1)
/-- PopCount of the low k bits (R216). -/
def popCount (v : Nat) : Nat → Nat
  | 0 => 0
  | k + 1 => (if v.testBit k then 1 else 0) + popCount v k

def execClz (d a : XReg) (s : State) : Out := opR (fun x => BitVec.ofNat 64 (leadZeros x.toNat 64)) d a s
def execCtz (d a : XReg) (s : State) : Out := opR (fun x => BitVec.ofNat 64 (trailZeros x.toNat 64 0)) d a s
def execPopc (d a : XReg) (s : State) : Out := opR (fun x => BitVec.ofNat 64 (popCount x.toNat 64)) d a s

/-- The field descriptor of BEXT and BINS: LO and W, if it is within its limits (R221). -/
def fieldDesc (w : Word) : Option (Nat × Nat) :=
  let v := w.toNat
  let lo := bitsOf v 0 6
  let n := bitsOf v 8 7
  if v / 2 ^ 15 != 0 || bitsOf v 6 2 != 0 || n > 64 || lo + n > 64 then none else some (lo, n)

def execBext (d a b : XReg) (s : State) : Out :=
  match fieldDesc (s.rx b) with
  | none => s.fail0 0x0E (.bext d a b)
  | some (lo, n) => s.ret d (BitVec.ofNat 64 ((s.rx a).toNat / 2 ^ lo % 2 ^ n))

def execBins (d a b : XReg) (s : State) : Out :=
  match fieldDesc (s.rx b) with
  | none => s.fail0 0x0E (.bins d a b)
  | some (lo, n) =>
    let m := BitVec.ofNat 64 ((2 ^ n - 1) * 2 ^ lo)
    s.ret d ((s.rx d &&& ~~~m) ||| ((s.rx a <<< lo) &&& m))

def execSel (d a b q : XReg) (s : State) : Out := s.ret d (if s.rx q ≠ 0 then s.rx a else s.rx b)

/-! ### Immediates (R223, R224) -/

def execAddi (d a : XReg) (imm : BitVec 16) (s : State) : Out := opR (· + sext16 imm) d a s
def execAndi (d a : XReg) (imm : BitVec 16) (s : State) : Out := opR (· &&& zext16 imm) d a s
def execOri (d a : XReg) (imm : BitVec 16) (s : State) : Out := opR (· ||| zext16 imm) d a s
def execXori (d a : XReg) (imm : BitVec 16) (s : State) : Out := opR (· ^^^ zext16 imm) d a s
def execSlli (d a : XReg) (sh : BitVec 6) (s : State) : Out := opR (· <<< sh.toNat) d a s
def execSrli (d a : XReg) (sh : BitVec 6) (s : State) : Out := opR (· >>> sh.toNat) d a s
def execSrai (d a : XReg) (sh : BitVec 6) (s : State) : Out := opR (·.sshiftRight sh.toNat) d a s
def execSlti (d a : XReg) (imm : BitVec 16) (s : State) : Out := opR (fun x => boolWord (x.slt (sext16 imm))) d a s
def execLui (d : XReg) (imm : BitVec 16) (s : State) : Out := s.ret d (sext16 imm <<< 16)
def execAuipc (d : XReg) (imm : BitVec 16) (s : State) : Out := s.ret d (s.pc + (sext16 imm <<< 16))
/-- LIMM occupies two words: execution continues at PC + 8 (R224). -/
def execLimm (d : XReg) (imm : BitVec 32) (s : State) : Out := .next ((s.wx d (imm.signExtend 64)).jump (s.pc + 8))

end Sys2Proof.Machine
end

