-- ==== Sys2Proof/Machine/Links.lean ====
section
/-! DEFINITION. The links and what comes over them: failures and their reports (R18, R22, R32, R122), requests of peers (R20, R21), and
communicators with their reduction windows and tree (R21, R277). -/

namespace Sys2Proof.Machine

open Sys2Proof

/-! ### Failures (R18, R22, R122) -/

/-- Outstanding requests to some ports fault: those that wait, and those whose completions are on their way (R18). -/
def State.linkDown (s : State) (ports : Port → Bool) (c : Byte) : State :=
  let s1 := s.failReqs (fun q => q.issuer.here && ports q.port) c
  { s1 with resps := s1.resps.map (fun (r : Resp) =>
      if r.issuer.here && ports r.port && r.cause.isNone then { r with bytes := [], cause := some (causeFor r.issuer c) } else r) }

/-- How many requests are outstanding to some ports. -/
def State.outstanding (s : State) (ports : Port → Bool) : Nat :=
  (s.reqs.filter (fun q => q.issuer.here && ports q.port)).length +
    (s.resps.filter (fun r => r.issuer.here && ports r.port && r.cause.isNone)).length

/-- A link event and its record (R32). -/
def State.linkEvent (s : State) (link : Nat) (c : Byte) (ports : Port → Bool) : State :=
  (s.log 4 link c.toNat (BitVec.ofNat 64 (s.outstanding ports))).linkDown ports c

def Port.isPeer : Port → Bool
  | .peer _ => true
  | .rwin _ => true
  | _ => false

/-- ISAUD_LINK_DOWN (R18): host packets on their way are lost. -/
def execIsaudLinkDown (s : State) : Out :=
  .next (if !s.isaudUp then s
    else
      let s1 := s.linkEvent 0 0xB0 (· == .host)
      { s1 with
        isaudUp := false, hostOps := [],
        reqs := s1.reqs.filter (fun q => match q.stage with | .inHost _ => false | _ => true) })

/-- ISAUD_LINK_RECONNECT (R18). -/
def execIsaudLinkReconnect (s : State) : Out :=
  .next (if s.mgc.boot == .power then s else { s with isaudUp := true })

/-- The path to a port of the fabric uses Celcen port b. -/
def State.onPort (s : State) (b : Bool) (p : Port) : Bool := s.pathOf p == some b

/-- The number of the link to a port, as TVAL and the log have it, if a request leaves the module there (R32, R122). -/
def State.linkOf (s : State) (p : Port) : Option Nat :=
  match p with
  | .host => some 0
  | _ => (s.pathOf p).map (fun b => if b then 2 else 1)

/-- CELCEN_BOTH_PORTS_DOWN (R22), with a record for each port that was up (the model's choice, log 61). -/
def State.bothDown (s : State) : State :=
  let s1 := if s.celcen0Up then s.linkEvent 1 0xBC (s.onPort false) else s
  let s2 := if s.celcen1Up then s1.linkEvent 2 0xBC (s.onPort true) else s1
  if s.celcen0Up || s.celcen1Up then { (s2.linkDown Port.isPeer 0xBC) with celcen0Up := false, celcen1Up := false } else s

def execCelcenBothPortsDown (s : State) : Out := .next s.bothDown

/-- CELCEN_PORT_FAIL (R22): the paths of one port move to the other, once the requests in flight on it are done (State.pathOf). -/
def execCelcenPortFail (second : Bool) (s : State) : Out :=
  .next (if (if second then !s.celcen1Up else !s.celcen0Up) then s
    else if (if second then !s.celcen0Up else !s.celcen1Up) then s.bothDown
    else
      let s1 := s.log 4 (if second then 2 else 1) (if second then 0xB8 else 0xB4) 0
      { s1 with
        celcen0Up := s1.celcen0Up && second, celcen1Up := s1.celcen1Up && !second,
        comm := { s1.comm with moved := some (second, s1.stamp) } })

/-- PEER_DEVICE_RESET (R122). -/
def execPeerDeviceReset (rank : Nat) (s : State) : Out :=
  .next (match s.peerPath rank with
    | none => s
    | some b =>
      if s.deadPeers.contains rank then s else
      let s1 := s.linkEvent (if b then 2 else 1) 0xBF (· == .peer rank)
      { s1 with deadPeers := NSet.ins s1.deadPeers rank })

/-- DIE_LINK_FAILURE (R122): the links of a compute die do not recover, and the requests that use them fault. -/
def execDieLinkFailure (die : Nat) (s : State) : Out :=
  let s1 := { s with deadDies := NSet.ins s.deadDies die }
  let hit := fun (q : Req) => q.issuer.here && s1.cut (s1.issuerDie q.issuer) q.port && match q.issuer with | .bank _ => false | _ => true
  .next (if s.deadDies.contains die then s else (s1.log 4 3 0xBD (BitVec.ofNat 64 (s1.reqs.filter hit).length)).failReqs hit 0xBD)

/-- A request faults at its link with one of the link's codes, and a record (R32, R122): event 1 refused, 2 no completion, 3 protocol error. -/
def State.failLink (s : State) (q : Req) (event : Nat) : State :=
  match s.linkOf q.port with
  | none => s
  | some link =>
    let c : Byte := BitVec.ofNat 8 (0xB0 + 4 * link + event)
    ((s.log 4 link c.toNat 1).dropReq q).report q c

/-- COMPLETION_TIMEOUT (R122): the oldest request to a port of a link has had no completion for 2^22 fc. -/
def execCompletionTimeout (p : Port) (s : State) : Out :=
  .next (match s.reqs.find? (fun q => q.port == p && q.issuer.here && s.now - q.born ≥ 2 ^ 22) with
    | none => s
    | some q =>
      s.failLink q 2)

/-- A request of this device that has come to its link is refused there with UNSUPPORTED (event 1) or meets a protocol error (event 3):
it faults with the link's code (R122, log 77). -/
def State.linkError (s : State) (stamp event : Nat) : State :=
  match s.reqs.find? (fun q => q.stamp == stamp && q.issuer.here && (q.stage == .pq || inRp q)) with
  | none => s
  | some q => s.failLink q event

/-! ### Requests of peers (R20, R21) -/

/-- The number of bytes that a peer's operation touches. -/
def peerSize : PeerOp → Nat
  | .read n => n
  | .write bs => bs.length
  | .amo .. => 8
  | .red _ n _ _ _ => n
  | .wred .. => 4

/-- A peer's request enters its inbound queue, granule by granule, translated as the inbound port does; one that fails is refused, and its
issuer learns of it at the peer. A contribution to a window goes to the switches. -/
def execPeerRequestArrival (peer : Nat) (addr : Nat) (op : PeerOp) (s : State) : Out :=
  .next (if (s.peerPath peer).isNone || s.deadPeers.contains peer || (!s.celcen0Up && !s.celcen1Up) then s
    else match op with
      | .wred rank e v =>
        match AMap.find s.windows addr with
        | some w => (s.enter (.peer peer) (.rp addr) [{ key := w.home, va := 0, port := .rwin addr, cmpr := false, act := .wred rank e v }]).1
        | none => s
      | _ =>
        let use := match op with | .read _ => Use.read | .red _ _ _ _ none => Use.redAny | _ => Use.store
        let n := peerSize op
        let aligned := match op with | .read _ => true | .write _ => true | _ => n != 0 && addr % n == 0
        let go := (pieces addr n).foldl (fun (acc : Option (List NewReq × List Byte)) p =>
          match acc, s.translate (some (Config.peerVd peer)) p.1 use 0x34 with
          | some (l, bs), .ok (pa, cm) =>
            let act : Act := match op with
              | .read _ => .read p.2
              | .write _ => .write (plain (bs.take p.2)) .keep
              | .amo o v c => .amo o n v c
              | .red o _ rm v none => .red o n rm v
              | .red o _ rm v (some (rank, m)) => .redOrd o n rm v rank m
              | .wred .. => .read 0
            some (l ++ [{ key := hbmKey pa, va := 0, port := portOf (hbmKey pa), cmpr := cm, act := act }], bs.drop p.2)
          | _, _ => none) (some ([], match op with | .write bs => bs | _ => []))
        match go with
        | some (rs, _) => if aligned then (s.enter (.peer peer) (.inPeer peer) rs).1 else s
        | none => s)

/-! ### Communicators (R21, R277) -/

/-- COMMUNICATOR_FORMATION: ranks, paths, and the windows with their homes in this device's HBM. Where one Celcen port is down, every path and
window uses the other from the start (the model's choice, log 64). -/
def execCommunicatorFormation (rank n : Nat) (paths : List (Nat × Bool)) (windows : List WindowSpec) (s : State) : Out :=
  .next { s with
    comm := { rank := rank, size := n, paths := paths, treeUp := true, moved := if s.celcen0Up == s.celcen1Up then none else some (s.celcen0Up, 0) },
    deadPeers := [],
    windows := windows.foldl (fun (m : AMap Window) w => AMap.put m w.window
      { n := w.n, ranks := w.ranks, op := w.op, fmt := w.fmt, rmode := w.rmode, elems := w.elems, home := hbmKey w.home,
        completion := hbmKey w.completion }) [] }

/-- REDUCTION_TREE_DISSOLVED (R122): contributions that need the tree fault. A tree spans both planes of switches, and its record names
link 1 (the model's choice, log 64). -/
def execReductionTreeDissolved (s : State) : Out :=
  let s1 : State := { s with comm := { s.comm with treeUp := false } }
  .next (if !s.comm.treeUp then s
    else (s1.log 4 1 0xBE (BitVec.ofNat 64 (s1.reqs.filter (fun q => q.issuer.here && inRp q)).length)).failReqs inRp 0xBE)

end Sys2Proof.Machine
end

