-- ==== Sys2Proof/Machine/Priv.lean ====
section
/-! DEFINITION. The privileged group: TLBI, TLBSYNC, VD.DIRTY, VD.STOP, VD.START, FCAP and FRST (R132, R145, R178, R289 to R291, R357, R359). -/

namespace Sys2Proof.Machine

open Sys2Proof

/-! ### TLBI and TLBSYNC (R145, R178, R289) -/

/-- The operand of TLBI and VD.DIRTY: a virtual device in [4:0] and VA[47:16], zeros elsewhere. -/
def vaOperand (w : Word) : Option (Nat × Nat) :=
  if bitsOf w.toNat 5 11 == 0 && w.toNat / 2 ^ 48 == 0 then some (w.toNat % 32, w.toNat / 65536) else none

/-- A cached entry translates an address of a range of 64 KiB pages (none: all). -/
def TlbEntry.within (e : TlbEntry) (vd : Nat) (range : Option (Nat × Nat)) : Bool :=
  e.vd == vd && match range with
    | none => true
    | some (lo, n) => decide (e.va * 2 ^ levelLo e.level < (lo + n) * 65536) && decide (lo * 65536 < (e.va + 1) * 2 ^ levelLo e.level)

/-- TLBI. -/
def execTlbi (a b : XReg) (s : State) : Out :=
  let i := Instr.tlbi a b
  s.privileged i fun s =>
    match vaOperand (s.rx a) with
    | none => s.fail0 0x0E i
    | some (vd, page) =>
      let n := (s.rx b).toNat
      let range := if n == 0 then none else some (page, n)
      .next (({ s with
        tlb := s.tlb.filter (fun e => !e.within vd range),
        invals := s.invals ++ [{ region := s.cur, vd := vd, range := range, stamp := none }] } : State).advance)

/-- The virtual device for which an issuer translates; none where the request does not say. -/
def State.issuerVd (s : State) : Issuer → Option Nat
  | .pacer r => s.vdOf r
  | .engine r _ _ => s.vdOf r
  | .elem r _ _ => s.vdOf r
  | .bte c _ => (AMap.find s.btes c).map (·.vd)
  | .bank c => (AMap.find s.banks c).map (·.vd)
  | _ => none

/-- A request that has not been applied may carry a translation through an entry that an invalidation covers. -/
def State.carries (s : State) (v : Inval) (q : Req) : Bool :=
  v.stamp.any (fun n => q.stamp < n) && (match q.port with | .chu _ => true | _ => false) &&
    (match s.issuerVd q.issuer with | some d => d == v.vd | none => true)

/-- So may what a bank half has still to write (log 42). -/
def Bank.carries (b : Bank) (v : Inval) : Bool := b.vd == v.vd && b.put.any (fun ws => !ws.isEmpty)

/-- The current region's Pacer has a request on its way to memory: the store to an entry or to code that its TLBSYNC follows (R178). -/
def State.storing (s : State) : Bool :=
  s.reqs.any (fun q => q.issuer == .pacer s.cur && match q.port with | .bank _ _ => true | .chu _ => true | _ => false)

/-- The current region's TLBSYNC has found its own stores applied: no agent keeps an old entry that its TLBIs cover, and every request made from now on
uses the new one. -/
def State.syncFrom (s : State) : State :=
  let mine := fun (v : Inval) => v.region == s.cur && v.stamp.isNone
  { s with
    tlb := s.tlb.filter (fun e => !s.invals.any (fun v => mine v && e.within v.vd v.range)),
    invals := s.invals.map (fun v => if mine v then { v with stamp := some s.stamp } else v) }

/-- An access that uses an old entry which the current region's TLBIs cover is still on its way (R145, R178). -/
def State.syncWaits (s : State) : Bool :=
  s.invals.any (fun v => v.region == s.cur && (s.reqs.any (s.carries v) || s.banks.any (fun p => p.2.carries v)))

/-- TLBSYNC. -/
def execTlbsync (s : State) : Out :=
  s.privileged .tlbsync fun s =>
    if s.storing then s.block
    else
      let t := s.syncFrom
      if t.syncWaits then t.block
      else .next ((({ t with invals := t.invals.filter (fun v => v.region != t.cur) } : State).onReg (fun g => { g with icache := [] })).advance)

/-! ### Virtual devices (R290, R357) -/

/-- VD.DIRTY: the bitmap is written by requests of the issuer, which it waits for. -/
def execVdDirty (cd : CReg) (a b : XReg) (s : State) : Out :=
  let i := Instr.vdDirty cd a b
  s.privileged i fun s =>
    let n := (s.rx b).toNat
    let c := s.rc cd
    match vaOperand (s.rx a) with
    | none => s.fail0 0x0E i
    | some (vd, page) =>
      if n < 1 || n > 65536 || (AMap.find s.vds vd).isNone then s.fail0 0x0E i
      else match s.access c c.cursor.toNat ((n + 7) / 8) permStore kindWrite [1, 2, 3, 4, 5] Use.store with
        | .error f => s.failAt i c.cursor f
        | .ok (sp, ps) =>
          let (bits, s1) := s.dirtyBits vd n (65536 * page)
          let acts := (ps.foldl (fun (acc : List Act × List Byte) p => (acc.1 ++ [.writeDone (acc.2.take p.size)], acc.2.drop p.size)) ([], packBits bits)).1
          let s2 := s1.walked sp (inSpace c.cursor) ((n + 7) / 8)
          let (s3, ids) := s2.enterPacer ((ps.zip acts).map (fun p =>
            { key := p.1.key, va := p.1.va, port := portOf p.1.key, cmpr := p.1.cmpr, act := p.2 }))
          .next (s3.await (.deferred (.held .done)) ids)

/-- VD.STOP: it starts the stop, and completes once all of it is done. -/
def execVdStop (a : XReg) (s : State) : Out :=
  let i := Instr.vdStop a
  s.privileged i fun s =>
    let v := (s.rx a).toNat % 32
    if s.vd == some v then s.fail0 0x0F i
    else match AMap.find s.vds v with
      | none => s.fail0 0x0E i
      | some d =>
        let s1 := if d.stopped then s else s.stopDevice v
        if s1.vdStopDone v then .next s1.advance else s1.block

/-- VD.START: a virtual device that is not stopped is left unchanged. -/
def execVdStart (a : XReg) (s : State) : Out :=
  s.privileged (.vdStart a) fun s =>
    let v := (s.rx a).toNat % 32
    .next (if s.vdStopped v then (s.startVd v).advance else s.advance)

/-! ### FCAP and FRST (R132, R291, R359) -/

/-- The region holds the context of a stopped task: one still bound to it, or the frozen task that it last ran. -/
def State.stoppedAt (s : State) (r : Nat) : Bool :=
  let g := s.region r
  g.run == .stopped && (g.task.isSome || match s.task (g.pacer.taskid.toNat % 2 ^ 32) with | some t => t.st == .frozen | none => false)

/-- FCAP. -/
def execFcap (a b : XReg) (s : State) : Out :=
  let i := Instr.fcap a b
  s.privileged i fun s =>
    let r := (s.rx a).toNat % 256
    let base := (s.rx b).toNat
    if base % saveSize != 0 then s.fail0 0x0E i
    else if !s.stoppedAt r then s.fail0 0x0F i
    else match s.capture r base with
      | .error f => s.fail f (s.rx b)
      | .ok t => .next t.advance

/-- A region to which a task may be restored: no task is bound and its Pacer fetches nothing. -/
def Region.idle (g : Region) : Bool := g.task.isNone && (g.run == .off || g.run == .stopped)

/-- The Marshal's record of a task that another module launched (R359): scheduling from the save area, no TCB, HV 0. -/
def foreignTask (bs : List Byte) : Task :=
  let sched := fieldLe bs 0x38 8
  { vd := fieldLe bs 0xC 1, tcb := Cap.null, queue := some (0xFFF, 0), entry := Cap.null,
    sched := BitVec.ofNat 64 (sched - if sched.testBit 24 then 2 ^ 24 else 0), affinity := BitVec.ofNat 256 (fieldLe bs 0xA0 32), args := [],
    c1 := Cap.null, c2 := Cap.null, st := .frozen, members := [], retired := [], captured := [], saves := [], since := 0, halted := false,
    cancel := false, crossed := false, walked := false, from_ := 0, left := [], fate := 0, fcause := 0, grace := none, runs := 0, unbind := false, ordinal := 0, tiles := 0 }

/-- The Marshal records a restored task RUNNING on a region. -/
def State.recordRunning (s : State) (r base : Nat) (bs : List Byte) : State :=
  let id := fieldLe bs 8 4
  let t := (s.task id).getD (foreignTask bs)
  let rank := if t.saves.contains base then t.saves.idxOf base else t.members.length
  let t1 := { t with st := t.running, members := t.members ++ [r], since := s.now, from_ := if t.members.isEmpty then s.stamp else t.from_,
                     halted := false }
  let s1 := (s.onVd t.vd (·.forget id)).putTask id t1
  let s2 := if t.tcb.tag then s1.writeState t1 t1.st else s1
  s2.onRegion r (fun g => { g with task := some id, rank := rank, cancelAt := if t.cancel then some s.now else none })

/-- FRST. -/
def execFrst (a b : XReg) (s : State) : Out :=
  let i := Instr.frst a b
  s.privileged i fun s =>
    let r := (s.rx a).toNat % 256
    let base := (s.rx b).toNat
    if r == s.cur || !(s.region r).idle then s.fail0 0x0F i
    else match s.restore r base with
      | .error f => s.fail f (s.rx b)
      | .ok t => .next ((t.recordRunning r base (s.rd (sramKey base) 0x400)).advance)

end Sys2Proof.Machine
end

