-- ==== Sys2Proof/Machine/Scalar.lean ====
section
/-! DEFINITION. Scalar floating-point instructions (R225 to R230): the results and flags are those of Machine.Flags. -/

namespace Sys2Proof.Machine

open Sys2Proof

/-- An FP instruction ends: 0x0D where it would raise an enabled flag, else it writes its result and accumulates its flags
(R197, R225). -/
def fpEnd (i : Instr) (d : XReg) (r : FpRes) (s : State) : Out :=
  let m := s.reg.pacer.fpmode
  if r.flags &&& fpEn m != 0 then s.fail0 0x0D i
  else .next (((s.onPacer (fun p => { p with fpmode := fpSet m r.flags })).wx d (BitVec.ofNat 64 r.code)).advance)

/-- An arithmetic FP instruction: X(XD) is the addend of FFMA (R226). -/
def opFp (i : Instr) (op : FpOp) (d a b : XReg) (dbl : BitVec 1) (s : State) : Out :=
  let f := fpFmt dbl
  fpEnd i d (fpArith f op s.reg.pacer.fpmode (fpOperand f (s.rx a)) (fpOperand f (s.rx b)) (fpOperand f (s.rx d))) s

def execFadd (d a b : XReg) (dbl : BitVec 1) (s : State) : Out := opFp (.fadd d a b dbl) .add d a b dbl s
def execFsub (d a b : XReg) (dbl : BitVec 1) (s : State) : Out := opFp (.fsub d a b dbl) .sub d a b dbl s
def execFmul (d a b : XReg) (dbl : BitVec 1) (s : State) : Out := opFp (.fmul d a b dbl) .mul d a b dbl s
def execFfma (d a b : XReg) (dbl : BitVec 1) (s : State) : Out := opFp (.ffma d a b dbl) .fma d a b dbl s
def execFdiv (d a b : XReg) (dbl : BitVec 1) (s : State) : Out := opFp (.fdiv d a b dbl) .div d a b dbl s
def execFsqrt (d a : XReg) (dbl : BitVec 1) (s : State) : Out := opFp (.fsqrt d a dbl) .sqrt d a 0 dbl s

/-- FMIN and FMAX (R227). -/
def opFpMinMax (i : Instr) (big : Bool) (d a b : XReg) (dbl : BitVec 1) (s : State) : Out :=
  let f := fpFmt dbl
  fpEnd i d (fpMinMax f big s.reg.pacer.fpmode (fpOperand f (s.rx a)) (fpOperand f (s.rx b))) s

def execFmin (d a b : XReg) (dbl : BitVec 1) (s : State) : Out := opFpMinMax (.fmin d a b dbl) false d a b dbl s
def execFmax (d a b : XReg) (dbl : BitVec 1) (s : State) : Out := opFpMinMax (.fmax d a b dbl) true d a b dbl s

def execFcmp (d a b : XReg) (cond : BitVec 4) (dbl : BitVec 1) (s : State) : Out :=
  let f := fpFmt dbl
  fpEnd (.fcmp d a b cond dbl) d (fpCompare f cond.toNat s.reg.pacer.fpmode (fpOperand f (s.rx a)) (fpOperand f (s.rx b))) s

def execFcvt (d a : XReg) (conv : BitVec 4) (s : State) : Out :=
  fpEnd (.fcvt d a conv) d (fpConvert conv.toNat s.reg.pacer.fpmode (s.rx a)) s

/-- FCLASS raises no flag and FTZ does not affect it (R230). -/
def execFclass (d a : XReg) (dbl : BitVec 1) (s : State) : Out :=
  let f := fpFmt dbl
  s.ret d (BitVec.ofNat 64 (2 ^ fpClass f (fpOperand f (s.rx a))))

end Sys2Proof.Machine
end

