-- ==== Sys2Proof/Machine/Sync.lean ====
section
/-! DEFINITION. Barriers, batons and monitored waits (R278 to R282), and the instructions on derived regions (R283). What a port finds after the
request was made is a deferred fault (R256). -/

namespace Sys2Proof.Machine

open Sys2Proof

/-- The shared form of an instruction on the 16-byte granule at C(ca)'s cursor (R279, R281). -/
def State.granuleOp (s : State) (i : Instr) (ca : CReg) (sc : BitVec 3) (ok : BitVec 2) (kinds : List Nat) (act : Act) (k : Cont) : Out :=
  s.wordOp i ca 16 permAtomic kindAtomic memSpaces Use.store sc ok kinds fun a sp ps => s.issueWait a sp 16 ps (fun _ => act) (.deferred k)

/-! ### Barriers (R279) -/

/-- BAR.INIT completes when its request enters RQ; what its port finds is deferred (R236, R256). -/
def execBarInit (ca : CReg) (b : XReg) (s : State) : Out :=
  let i := Instr.barInit ca b
  let n := (s.rx b).toNat
  if !(1 ≤ n && n ≤ 2 ^ 31 - 1) then s.fail0 0x0E i
  else s.wordOp i ca 16 permAtomic kindAtomic memSpaces Use.store 0 0 [0] fun a sp ps => s.issueDone a sp 16 ps (ps.map (fun _ => .barInit n))

def execBarArrive (d : XReg) (ca : CReg) (b : XReg) (sc : BitVec 3) (ok : BitVec 2) (s : State) : Out :=
  s.granuleOp (.barArrive d ca b sc ok) ca sc ok [0, 2] (.barArrive (if b = 0 then 1 else (s.rx b).toNat)) (.held (.toX d 8 false))

/-- BAR.WAIT: the port answers with word 1 once GEN differs, or arms the monitor of its granule (R177, R279). -/
def execBarWait (d : XReg) (ca : CReg) (b : XReg) (s : State) : Out :=
  s.granuleOp (.barWait d ca b) ca 0 0 [0] (.barWait (s.rx b)) (.toX d 8 false)

def execBarDrop (ca : CReg) (sc : BitVec 3) (ok : BitVec 2) (s : State) : Out :=
  s.wordOp (.barDrop ca sc ok) ca 16 permAtomic kindAtomic memSpaces Use.store sc ok [0, 2] fun a sp ps =>
    s.issueDone a sp 16 ps (ps.map (fun _ => .barDrop))

/-! ### Batons (R280, R281) -/

/-- BATON.ALLOC: SC is the baton's scope; 5 to 7 fault with 0x03. -/
def execBatonAlloc (d : XReg) (ca : CReg) (sc : BitVec 3) (s : State) : Out :=
  if sc.toNat > 4 then s.fail0 0x03 (.batonAlloc d ca sc)
  else s.granuleOp (.batonAlloc d ca sc) ca 0 0 [0] (.batonAlloc sc.toNat) (.held (.toX d 1 false))

/-- The 32-bit task id of the current region. -/
def State.taskid (s : State) : BitVec 32 := s.reg.pacer.taskid.setWidth 32

/-- BATON.ACQ waits for the grant. -/
def execBatonAcq (ca : CReg) (s : State) : Out := s.granuleOp (.batonAcq ca) ca 0 0 [0] (.batonAcq s.cur s.taskid) (.held .done)

/-- BATON.REL: it releases at the baton's SCOPE, which its own granule holds, and then clears HELD; a request that is no release faults
at the port. -/
def execBatonRel (ca : CReg) (s : State) : Out :=
  s.wordOp (.batonRel ca) ca 16 permAtomic kindAtomic memSpaces Use.store 0 0 [0] fun a sp ps =>
    match ps with
    | p :: _ =>
      let t := s.flushFor ps
      if !t.released (batonScope (t.w1 p.key)) then t.block
      else match (t.portFault (some (dieOf t.cur)) (portOf p.key)) with
        | some f => t.deferred f (t.tvalOf (portOf p.key) a f)
        | none => match t.releaseBaton p.key s.cur s.taskid p.cmpr with
          | .error f => t.deferred f a
          | .ok u => .next (((u.walked sp (inSpace a) 16).noteAccess a 16).advance)
    | [] => s.fail0 0x0E (.batonRel ca)

def execBatonFree (ca : CReg) (s : State) : Out :=
  s.wordOp (.batonFree ca) ca 16 permAtomic kindAtomic memSpaces Use.store 0 0 [0] fun a sp ps =>
    s.issueDone a sp 16 ps (ps.map (fun _ => .batonFree s.cur s.taskid))

/-! ### Monitored waits (R282) -/

def execWaitv (d : XReg) (ca : CReg) (b : XReg) (s : State) : Out :=
  s.wordOp (.waitv d ca b) ca 8 permLoad kindRead memSpaces Use.read 0 0 [0] fun a sp ps =>
    s.issueWait a sp 8 ps (fun _ => .waitv (s.rx b)) (.deferred (.toX d 8 false))

/-! ### Derived regions (R153, R154, R161, R283) -/

/-- The shape record's EXPR is above 6 (0x80). -/
def recExprBad (r : List Byte) : Bool := fieldLe r 0x10 1 > 6

/-- A declaration from a shape record. -/
def declOf (r : List Byte) (vd base : Nat) (sram : Bool) (view viewTop : Nat) (segs : List (Nat × Nat × Nat)) : Decl :=
  let k := fieldLe r 0x15 1
  { vd := vd, base := base, sram := sram, segs := segs, rows := fieldLe r 0 4, cols := fieldLe r 4 4, stride := fieldLe r 8 8,
    expr := fieldLe r 0x10 1, fmt := fieldLe r 0x11 1, blklog := fieldLe r 0x12 1, sfmt := fieldLe r 0x13 1, texp := toInt 8 (fieldLe r 0x14 1),
    nbin := k, edges := (List.range (k - 1)).map (fun j => fieldLe r (0x20 + 4 * j) 4), view := view, viewTop := viewTop, lost := false, parts := [], mq := [] }

/-- The limits of R153. -/
def declOk (r : List Byte) (d : Decl) : Bool :=
  let zeros := fun (o n : Nat) => (sliceOf r o n).all (· == 0)
  let edge := fun (j : Nat) => fp32.value (d.edges.getD j 0)
  1 ≤ d.rows && d.rows ≤ 65536 && 1 ≤ d.cols && d.cols ≤ 2 ^ 20 &&
    ((1 ≤ d.fmt && d.fmt ≤ 5) || d.fmt == 9 || d.fmt == 0xB || d.fmt == 0xC || d.fmt == 0xD) &&
    d.stride % 16 == 0 && d.stride ≥ d.cols * d.esize &&
    (if d.expr == 4 then 3 ≤ d.blklog && d.blklog ≤ 6 && d.cols % 2 ^ d.blklog == 0 && (d.sfmt == 0xF || d.sfmt == 4) && -8 ≤ d.texp && d.texp ≤ 8
     else d.blklog == 0 && d.sfmt == 0 && d.texp == 0) &&
    (if d.expr == 5 then 2 ≤ d.nbin && d.nbin ≤ 16 && zeros (0x20 + 4 * (d.nbin - 1)) (60 - 4 * (d.nbin - 1)) &&
        (List.range (d.nbin - 1)).all (fun j => (match edge j with | .fin .. => true | _ => false) && (j == 0 || (edge (j - 1)).numLt (edge j)))
     else d.nbin == 0 && zeros 0x20 60) &&
    zeros 0x16 10 && zeros 0x5C 36

/-- The base's length in bytes. -/
def Decl.baseLen (d : Decl) : Nat := (d.rows - 1) * d.stride + d.cols * d.esize

/-- State in bytes that a declaration needs for n of its rows, blocks or bins at a port (R154). -/
def Decl.stateBytes (d : Decl) (n : Nat) : Nat :=
  match d.expr with
  | 0 => 96 * n
  | 1 => 96 * n
  | 5 => 4 * d.nbin
  | 6 => 4 * n
  | _ => 8 * n

/-- The state that a live declaration holds at a port. -/
def Decl.stateAt (d : Decl) (p : Nat) : Option Nat :=
  (AMap.find d.parts p).map (fun ps => d.stateBytes (ps.filter (·.used)).length)

/-- The port can reserve the state of one more declaration (R154). -/
def State.portHolds (s : State) (p need : Nat) : Bool :=
  let held := s.decls.filterMap (fun d => d.2.stateAt p)
  let (n, bytes) := if p < 1024 then (32, 64 * 1024) else (64, 256 * 1024)
  held.length < n && held.foldl (· + ·) 0 + need ≤ bytes

/-- The scan of one element at its port. -/
def State.scanCell (s : State) (d : Decl) (row col : Nat) : Decl :=
  let key := d.elemKey row col
  let p := portNum (portOf key)
  let c := leNat (s.rd key d.esize)
  let ps := match AMap.find d.parts p with
    | some x => x
    | none => List.replicate d.count (if d.expr == 5 then { Partial.empty with used := true } else Partial.empty)
  let d1 := { d with parts := AMap.put d.parts p ps }
  if d.expr == 5 then d1.bumpBin p 1 c
  else
    let i := d.idx row col
    let q := { d1.part p i with used := true }
    if d.expr ≤ 1 || d.expr == 6 then d1.setPart p i (d1.account 1 c q)
    else
      let v := d.val c
      d1.setPart p i
        (if v.isNan then { q with nan := q.nan + 1 }
         else { q with ext := match q.ext with | none => some c | some e => if d.beyond c e then some c else some e })

/-- Every port scans its base elements (R154). -/
def State.scan (s : State) (d : Decl) : Decl :=
  (List.range d.rows).foldl (fun d r => (List.range d.cols).foldl (fun d c => s.scanCell d r c) d) d

/-- DRGN.DECL (R283): the checks in their order, the reservation and the scan; what a port finds in reading the record or the elements is a deferred store
fault (R256, log 79). -/
def execDrgnDecl (cd ca cb : CReg) (s : State) : Out :=
  let i := Instr.drgnDecl cd ca cb
  let rec_ := s.rc ca
  let base := s.rc cb
  let dv := s.rc cd
  if rec_.cursor.toNat % 16 != 0 then s.fail0 0x0E i
  else match s.fetchData rec_ rec_.cursor.toNat 128 permLoad recordSpaces with
    | .error f => s.failRead i rec_ rec_.cursor.toNat 128 permLoad recordSpaces f State.deferred
    | .ok (s1, r) =>
      let a := base.cursor.toNat
      let view := dv.base.toNat % 2 ^ 56
      let d0 := declOf r (s1.vd.getD 0) (a % 2 ^ 56) false view (view + (dv.top - dv.base).toNat) []
      if recExprBad r then s1.fail 0x80 rec_.cursor
      else if !declOk r d0 then s1.fail 0x81 rec_.cursor
      else if !memSpaces.contains base.spaceAt then s1.fail 0x82 base.cursor
      else if a % 16 != 0 then s1.fail0 0x0E i
      else match s1.access base a d0.baseLen permLoad kindRead memSpaces Use.read with
        | .error f => s1.failAt i base.cursor f
        | .ok (sp, ps) =>
          if !dv.tag then s1.fail 0x10 dv.cursor
          else if dv.spaceAt != 7 || dv.perms.toNat != permLoad || dv.top - dv.base < (d0.viewSize : Int) then s1.fail0 0x0E i
          else if s1.decls.any (fun p => decide (p.2.view < d0.view + d0.viewSize) && decide (d0.view < p.2.view + p.2.viewSize)) then s1.fail0 0x0F i
          else
            let s2 := s1.flushFor ps
            let segs := (ps.foldl (fun (acc : List (Nat × Nat × Nat) × Nat) p => (acc.1 ++ [(acc.2, p.key, p.size)], acc.2 + p.size)) ([], d0.base)).1
            let d := s2.scan { d0 with sram := sp != 3, segs := segs }
            if !d.parts.all (fun p => s2.portHolds p.1 (d.stateBytes (p.2.filter (·.used)).length)) then s2.fail 0x83 base.cursor
            else match ps.find? (fun p => (d.elemsIn p.key p.size).any (fun e => s2.badAt e.2.2)) with
              | some p => s2.deferred (class3 p.key 0) (BitVec.ofNat 64 (p.va.toNat / 16 * 16))
              | none =>
                let id := (s2.decls.foldl (fun m p => max m (p.1 + 1)) 0)
                .next (({ s2 with decls := AMap.put s2.decls id d } : State).advance)

/-- DRGN.READ (R283): one value of the view. -/
def execDrgnRead (d : XReg) (ca : CReg) (s : State) : Out :=
  let i := Instr.drgnRead d ca
  let c := s.rc ca
  if c.cursor.toNat % 4 != 0 then s.fail0 0x0E i else s.load i c c.cursor 4 [7] (fun p => .read p.size) (.held (.toX d 4 false))

/-- [Base, Top) of a capability by spaces: number, first address and number of bytes; of a generic one what lies in each window (R141). -/
def Cap.ranges (c : Cap) : List (Nat × Nat × Nat) :=
  if c.space == 0 then
    (List.range 7).filterMap (fun i =>
      let w : Int := ((i + 1) * 2 ^ 56 : Nat)
      let lo := max c.base w
      let hi := min c.top (w + 2 ^ 56)
      if lo < hi then some (i + 1, (lo - w).toNat, (hi - lo).toNat) else none)
  else [(c.space.toNat, c.base.toNat, (c.top - c.base).toNat)]

/-- The declarations whose base overlaps [Base, Top) of a capability: bases lie in SRAM or HBM (R154). -/
def State.overBase (s : State) (c : Cap) : List (Nat × Decl) :=
  s.decls.filter (fun p =>
    let b := p.2.segs.foldl (fun m g => min m (if p.2.sram then g.2.1 else g.1)) (2 ^ 60)
    c.ranges.any (fun (sp, lo, n) =>
      let at_ := if sp == 1 then s.cur * 2 ^ 24 + lo else lo
      (if p.2.sram then sp == 1 || sp == 2 else sp == 3 && p.2.vd == s.vd.getD 0) && decide (b < at_ + n) && decide (at_ < b + p.2.baseLen)))

/-- DRGN.SYNC (R175, R283): a release at DEV, then one request to every port of the base and for every declaration over it. -/
def execDrgnSync (ca : CReg) (s : State) : Out :=
  let i := Instr.drgnSync ca
  let c := s.rc ca
  match c.checkRaw c.base.toNat 0 permLoad kindRead with
  | some f => s.failAt i c.cursor f
  | none =>
    let ds := s.overBase c
    if ds.isEmpty then s.fail 0x8E c.cursor
    else if ds.any (fun p => p.2.lost) then s.fail 0x8F c.cursor
    else if !s.released 3 then s.block
    else
      let (s1, ids) := s.enterPacer (ds.flatMap (fun p => p.2.parts.map (fun q =>
        { key := p.2.elemKey 0 0, va := c.cursor, port := portOfNum q.1, cmpr := false, act := .dsync [p.1] })))
      .next (s1.await (.deferred (.held .done)) ids)

/-- DRGN.DROP (R161, R283): reads that the ports have accepted are answered first. -/
def execDrgnDrop (ca : CReg) (s : State) : Out :=
  let a := (s.rc ca).cursor
  match s.decls.find? (fun p => p.2.view == a.toNat % 2 ^ 56) with
  | none => s.fail 0x8C a
  | some (id, d) =>
    if !s.sup && d.vd != s.vd.getD 0 then s.fail 0x8D a
    else .next (s.dropDecl id).advance

end Sys2Proof.Machine
end

