-- ==== Sys2Proof/Machine/System.lean ====
section
/-! DEFINITION. System instructions: GETS, SETS, TRAP, ERET, FENCE, WFE, HALT and YIELD (R248 to R254). -/

namespace Sys2Proof.Machine

open Sys2Proof

/-- GETS (R248). -/
def execGets (d : XReg) (num : BitVec 12) (s : State) : Out :=
  let i := Instr.gets d num
  let n := num.toNat
  if !sysListed n then s.fail0 0x06 i
  else if !s.sup && sysSupOnly n then s.fail0 0x05 i
  else s.ret d (s.sysRead n)

/-- SETS (R248). -/
def execSets (a : XReg) (num : BitVec 12) (s : State) : Out :=
  let i := Instr.sets a num
  let n := num.toNat
  if !sysListed n then s.fail0 0x06 i
  else if (!s.sup && (sysSupOnly n || sysRoTask n)) || sysRoSup n then s.fail0 0x07 i
  else .next ((s.onPacer (·.sysWrite n (s.rx a))).advance)

/-- TRAP (R249). -/
def execTrap (code : BitVec 12) (s : State) : Out := s.fail0 0x0A (.trap code)

/-- ERET (R123, R250). -/
def execEret (s : State) : Out := s.privileged .eret fun s => .next s.eret

/-- FENCE (R169, R251): it waits, and does nothing else. -/
def execFence (scope : BitVec 3) (kind : BitVec 2) (s : State) : Out :=
  if kind == 0 || scope.toNat > 4 then s.fail0 0x03 (.fence scope kind)
  else if s.fenceReady scope.toNat kind.toNat then .next s.advance
  else s.block

/-- WFE (R252): the wait keeps the CYC at which it began. -/
def execWfe (d a : XReg) (s : State) : Out :=
  let ev := s.reg.pacer.ev
  let start := match s.reg.wait with | .wfe t => t | _ => s.cyc
  let limit := (s.rx a).toNat
  if ev != 0 || (limit != 0 && s.cyc - start ≥ limit) then
    let v := if ev == 0 then 4 else ev
    (s.onReg (fun g => { g with wait := .none, pacer := { g.pacer with ev := 0 } })).ret d (v.zeroExtend 64)
  else .next (s.onReg (fun g => { g with wait := .wfe start }))

/-- HALT (R253): the Pacer fetches nothing until a dispatch or FRST. -/
def execHalt (s : State) : Out := s.privileged .halt fun s => .next ((s.onReg (fun g => { g with run := .off })).advance)

/-- YIELD (R124, R254): a stop with cause 0xAA that resumes at the next instruction. -/
def execYield (s : State) : Out :=
  if s.sup then s.fail0 0x0F .yield
  else .next ((s.onReg (fun g => { g with stop := some (g.stop.getD 0xAA) })).advance)

end Sys2Proof.Machine
end

