-- ==== Sys2Proof/Machine/Timeouts.lean ====
section
/-! DEFINITION. The ends of the waits with a limit: WFE (R252) and SNAP.WAIT (R267). The waiting instruction is the one at the PC. -/

namespace Sys2Proof.Machine

open Sys2Proof

/-- WFE_TIMEOUT (R252): the limit of the current region's WFE has passed, with no event pending. -/
def execWfeTimeout (s : State) : Out :=
  match s.reg.wait, s.fetch with
  | .wfe start, .ok (s1, .wfe d a) =>
    if s.reg.pacer.ev == 0 && s.rx a != 0 && s.cyc - start ≥ (s.rx a).toNat then execWfe d a s1 else .next s
  | _, _ => .next s

/-- SNAP_WAIT_TIMEOUT (R267): the limit of the current region's SNAP.WAIT has passed, with the snapshot pending. -/
def execSnapWaitTimeout (s : State) : Out :=
  match s.reg.wait, s.fetch with
  | .snap start, .ok (s1, .snapWait d a slot) =>
    if s.reg.snap.status == .pending && s.rx a != 0 && s.cyc - start ≥ (s.rx a).toNat then execSnapWait d a slot s1 else .next s
  | _, _ => .next s

end Sys2Proof.Machine
end

