-- ==== Sys2Proof/Machine/Dispatch.lean ====
section
/-! DEFINITION. One arm per instruction: each calls its meaning. -/

namespace Sys2Proof.Machine

open Sys2Proof

/-- The effect of one instruction. -/
def exec (i : Instr) (s : State) : Host.Outcome State Fault Refusal :=
  match i with
  | .powerUp => Sys2Proof.Machine.execPowerUp s
  | .imageGo tag => Sys2Proof.Machine.execImageGo tag s
  | .verify => Sys2Proof.Machine.execVerify s
  | .mgcLoad e => Sys2Proof.Machine.execMgcLoad e s
  | .mgcInit e => Sys2Proof.Machine.execMgcInit e s
  | .logRing tag => Sys2Proof.Machine.execLogRing tag s
  | .quote tag => Sys2Proof.Machine.execQuote tag s
  | .sensor tag => Sys2Proof.Machine.execSensor tag s
  | .identity tag => Sys2Proof.Machine.execIdentity tag s
  | .moduleReset tag => Sys2Proof.Machine.execModuleReset tag s
  | .registerWrite off v => Sys2Proof.Machine.execRegisterWrite off v s
  | .sensorSample inlet flow => Sys2Proof.Machine.execSensorSample inlet flow s
  | .thermalStop die temp => Sys2Proof.Machine.execThermalStop die temp s
  | .jnlCfgWrite v => Sys2Proof.Machine.execJnlCfgWrite v s
  | .jnlRdWrite v => Sys2Proof.Machine.execJnlRdWrite v s
  | .hostRead thread ap addr n => Sys2Proof.Machine.execHostRead thread ap addr n s
  | .postedWrite thread ap addr bytes => Sys2Proof.Machine.execPostedWrite thread ap addr bytes s
  | .fadd32 thread ap addr v => Sys2Proof.Machine.execFadd32 thread ap addr v s
  | .fadd64 thread ap addr v => Sys2Proof.Machine.execFadd64 thread ap addr v s
  | .swap64 thread ap addr v => Sys2Proof.Machine.execSwap64 thread ap addr v s
  | .cas64 thread ap addr cmp v => Sys2Proof.Machine.execCas64 thread ap addr cmp v s
  | .writeWithCompletion => Sys2Proof.Machine.execWriteWithCompletion s
  | .isaudLinkDown => Sys2Proof.Machine.execIsaudLinkDown s
  | .celcenPortFail second => Sys2Proof.Machine.execCelcenPortFail second s
  | .celcenBothPortsDown => Sys2Proof.Machine.execCelcenBothPortsDown s
  | .peerDeviceReset rank => Sys2Proof.Machine.execPeerDeviceReset rank s
  | .dieLinkFailure die => Sys2Proof.Machine.execDieLinkFailure die s
  | .completionTimeout p => Sys2Proof.Machine.execCompletionTimeout p s
  | .packetConsume qid => Sys2Proof.Machine.execPacketConsume qid s
  | .queueStall qid => Sys2Proof.Machine.execQueueStall qid s
  | .stallEntryWrite qid => Sys2Proof.Machine.execStallEntryWrite qid s
  | .launch qid => Sys2Proof.Machine.execLaunch qid s
  | .cancel qid => Sys2Proof.Machine.execCancel qid s
  | .notify qid => Sys2Proof.Machine.execNotify qid s
  | .copy qid => Sys2Proof.Machine.execCopy qid s
  | .strided qid => Sys2Proof.Machine.execStrided qid s
  | .fill qid => Sys2Proof.Machine.execFill qid s
  | .bteChunk bte chunk => Sys2Proof.Machine.execBteChunk bte chunk s
  | .qCreate => Sys2Proof.Machine.execQCreate s
  | .qDestroy => Sys2Proof.Machine.execQDestroy s
  | .qSkip => Sys2Proof.Machine.execQSkip s
  | .captSet => Sys2Proof.Machine.execCaptSet s
  | .vdCreatePacket => Sys2Proof.Machine.execVdCreatePacket s
  | .vdDestroy => Sys2Proof.Machine.execVdDestroy s
  | .vdStopPacket => Sys2Proof.Machine.execVdStopPacket s
  | .vdStartPacket => Sys2Proof.Machine.execVdStartPacket s
  | .vdDirtyPacket => Sys2Proof.Machine.execVdDirtyPacket s
  | .vdExport => Sys2Proof.Machine.execVdExport s
  | .vdImport => Sys2Proof.Machine.execVdImport s
  | .fwInfo => Sys2Proof.Machine.execFwInfo s
  | .dispatchDecision => Sys2Proof.Machine.execDispatchDecision s
  | .preemptionRequest => Sys2Proof.Machine.execPreemptionRequest s
  | .stop => Sys2Proof.Machine.execStop s
  | .forcedFreeze => Sys2Proof.Machine.execForcedFreeze s
  | .graceFreeze => Sys2Proof.Machine.execGraceFreeze s
  | .heatAccountingWrite heat => Sys2Proof.Machine.execHeatAccountingWrite heat s
  | .pendingFaultDelivery => Sys2Proof.Machine.execPendingFaultDelivery s
  | .pass l unit p => Sys2Proof.Machine.execPass l unit p s
  | .admitReq fromPeer n => Sys2Proof.Machine.execAdmit fromPeer n s
  | .apply p => Sys2Proof.Machine.execApply p s
  | .ret n => Sys2Proof.Machine.execRet n s
  | .serve p g => Sys2Proof.Machine.execServe p g s
  | .combine w e => Sys2Proof.Machine.execCombine w e s
  | .bankHalfComplete => Sys2Proof.Machine.execBankHalfComplete s
  | .starterDecision => Sys2Proof.Machine.execStarterDecision s
  | .reconfigurationWave e => Sys2Proof.Machine.execReconfigurationWave e s
  | .configRefetch slot => Sys2Proof.Machine.execConfigRefetch slot s
  | .cacheSoftError slot => Sys2Proof.Machine.execCacheSoftError slot s
  | .roundStart se => Sys2Proof.Machine.execRoundStart se s
  | .armBoundary slot => Sys2Proof.Machine.execArmBoundary slot s
  | .routerMove link => Sys2Proof.Machine.execRouterMove link s
  | .controllerIteration => Sys2Proof.Machine.execControllerIteration s
  | .splitMarker e port => Sys2Proof.Machine.execSplitMarker e port s
  | .wfeTimeout => Sys2Proof.Machine.execWfeTimeout s
  | .snapWaitTimeout => Sys2Proof.Machine.execSnapWaitTimeout s
  | .add d a b => Sys2Proof.Machine.execAdd d a b s
  | .sub d a b => Sys2Proof.Machine.execSub d a b s
  | .and d a b => Sys2Proof.Machine.execAnd d a b s
  | .or d a b => Sys2Proof.Machine.execOr d a b s
  | .xor d a b => Sys2Proof.Machine.execXor d a b s
  | .andn d a b => Sys2Proof.Machine.execAndn d a b s
  | .sll d a b => Sys2Proof.Machine.execSll d a b s
  | .srl d a b => Sys2Proof.Machine.execSrl d a b s
  | .sra d a b => Sys2Proof.Machine.execSra d a b s
  | .slt d a b => Sys2Proof.Machine.execSlt d a b s
  | .sltu d a b => Sys2Proof.Machine.execSltu d a b s
  | .min d a b => Sys2Proof.Machine.execMin d a b s
  | .max d a b => Sys2Proof.Machine.execMax d a b s
  | .minu d a b => Sys2Proof.Machine.execMinu d a b s
  | .maxu d a b => Sys2Proof.Machine.execMaxu d a b s
  | .mul d a b => Sys2Proof.Machine.execMul d a b s
  | .mulh d a b => Sys2Proof.Machine.execMulh d a b s
  | .mulhu d a b => Sys2Proof.Machine.execMulhu d a b s
  | .div d a b => Sys2Proof.Machine.execDiv d a b s
  | .divu d a b => Sys2Proof.Machine.execDivu d a b s
  | .rem d a b => Sys2Proof.Machine.execRem d a b s
  | .remu d a b => Sys2Proof.Machine.execRemu d a b s
  | .clz d a => Sys2Proof.Machine.execClz d a s
  | .ctz d a => Sys2Proof.Machine.execCtz d a s
  | .popc d a => Sys2Proof.Machine.execPopc d a s
  | .bext d a b => Sys2Proof.Machine.execBext d a b s
  | .bins d a b => Sys2Proof.Machine.execBins d a b s
  | .sel d a b q => Sys2Proof.Machine.execSel d a b q s
  | .addi d a imm => Sys2Proof.Machine.execAddi d a imm s
  | .andi d a imm => Sys2Proof.Machine.execAndi d a imm s
  | .ori d a imm => Sys2Proof.Machine.execOri d a imm s
  | .xori d a imm => Sys2Proof.Machine.execXori d a imm s
  | .slli d a sh => Sys2Proof.Machine.execSlli d a sh s
  | .srli d a sh => Sys2Proof.Machine.execSrli d a sh s
  | .srai d a sh => Sys2Proof.Machine.execSrai d a sh s
  | .slti d a imm => Sys2Proof.Machine.execSlti d a imm s
  | .lui d imm => Sys2Proof.Machine.execLui d imm s
  | .auipc d imm => Sys2Proof.Machine.execAuipc d imm s
  | .limm d imm => Sys2Proof.Machine.execLimm d imm s
  | .fadd d a b dbl => Sys2Proof.Machine.execFadd d a b dbl s
  | .fsub d a b dbl => Sys2Proof.Machine.execFsub d a b dbl s
  | .fmul d a b dbl => Sys2Proof.Machine.execFmul d a b dbl s
  | .ffma d a b dbl => Sys2Proof.Machine.execFfma d a b dbl s
  | .fdiv d a b dbl => Sys2Proof.Machine.execFdiv d a b dbl s
  | .fsqrt d a dbl => Sys2Proof.Machine.execFsqrt d a dbl s
  | .fmin d a b dbl => Sys2Proof.Machine.execFmin d a b dbl s
  | .fmax d a b dbl => Sys2Proof.Machine.execFmax d a b dbl s
  | .fcmp d a b cond dbl => Sys2Proof.Machine.execFcmp d a b cond dbl s
  | .fcvt d a conv => Sys2Proof.Machine.execFcvt d a conv s
  | .fclass d a dbl => Sys2Proof.Machine.execFclass d a dbl s
  | .beq a b off => Sys2Proof.Machine.execBeq a b off s
  | .bne a b off => Sys2Proof.Machine.execBne a b off s
  | .blt a b off => Sys2Proof.Machine.execBlt a b off s
  | .bge a b off => Sys2Proof.Machine.execBge a b off s
  | .bltu a b off => Sys2Proof.Machine.execBltu a b off s
  | .bgeu a b off => Sys2Proof.Machine.execBgeu a b off s
  | .loop a off => Sys2Proof.Machine.execLoop a off s
  | .jal d off => Sys2Proof.Machine.execJal d off s
  | .jalr d a imm => Sys2Proof.Machine.execJalr d a imm s
  | .ld d cb xi off u sz => Sys2Proof.Machine.execLd d cb xi off u sz s
  | .st d cb xi off sz => Sys2Proof.Machine.execSt d cb xi off sz s
  | .ldq d cb xi off => Sys2Proof.Machine.execLdq d cb xi off s
  | .stq d cb xi off => Sys2Proof.Machine.execStq d cb xi off s
  | .ldfeWait d cb xi off sz => Sys2Proof.Machine.execLdfeWait d cb xi off sz s
  | .ldfeTake d cb xi off sz => Sys2Proof.Machine.execLdfeTake d cb xi off sz s
  | .stfe d cb xi off full sz => Sys2Proof.Machine.execStfe d cb xi off full sz s
  | .cld cd cb xi off => Sys2Proof.Machine.execCld cd cb xi off s
  | .cst cd cb xi off => Sys2Proof.Machine.execCst cd cb xi off s
  | .cinc cd ca b => Sys2Proof.Machine.execCinc cd ca b s
  | .csetb cd ca b => Sys2Proof.Machine.execCsetb cd ca b s
  | .candp cd ca b => Sys2Proof.Machine.execCandp cd ca b s
  | .cget d ca field => Sys2Proof.Machine.execCget d ca field s
  | .ctag d ca => Sys2Proof.Machine.execCtag d ca s
  | .cclr cd ca => Sys2Proof.Machine.execCclr cd ca s
  | .csub d ca cb => Sys2Proof.Machine.execCsub d ca cb s
  | .gets d num => Sys2Proof.Machine.execGets d num s
  | .sets a num => Sys2Proof.Machine.execSets a num s
  | .trap code => Sys2Proof.Machine.execTrap code s
  | .eret => Sys2Proof.Machine.execEret s
  | .fence scope kind => Sys2Proof.Machine.execFence scope kind s
  | .wfe d a => Sys2Proof.Machine.execWfe d a s
  | .halt => Sys2Proof.Machine.execHalt s
  | .yield => Sys2Proof.Machine.execYield s
  | .cfgLoad ca slot => Sys2Proof.Machine.execCfgLoad ca slot s
  | .cfgEvict slot => Sys2Proof.Machine.execCfgEvict slot s
  | .cfgArm d a slot => Sys2Proof.Machine.execCfgArm d a slot s
  | .cfgDisarm d slot => Sys2Proof.Machine.execCfgDisarm d slot s
  | .cfgQuery d slot => Sys2Proof.Machine.execCfgQuery d slot s
  | .ctlSeq a => Sys2Proof.Machine.execCtlSeq a s
  | .ctlPipe a depth => Sys2Proof.Machine.execCtlPipe a depth s
  | .ctlStrm a => Sys2Proof.Machine.execCtlStrm a s
  | .ctlEnd => Sys2Proof.Machine.execCtlEnd s
  | .strmGo se a slot => Sys2Proof.Machine.execStrmGo se a slot s
  | .strmParm a b => Sys2Proof.Machine.execStrmParm a b s
  | .inj port a slot => Sys2Proof.Machine.execInj port a slot s
  | .getk d k => Sys2Proof.Machine.execGetk d k s
  | .drain slot => Sys2Proof.Machine.execDrain slot s
  | .snapMark ca slot => Sys2Proof.Machine.execSnapMark ca slot s
  | .snapWait d a slot => Sys2Proof.Machine.execSnapWait d a slot s
  | .btePut d ca b sc ok => Sys2Proof.Machine.execBtePut d ca b sc ok s
  | .waitc d ca b => Sys2Proof.Machine.execWaitc d ca b s
  | .testc d ca b => Sys2Proof.Machine.execTestc d ca b s
  | .bankMv ca sc ok => Sys2Proof.Machine.execBankMv ca sc ok s
  | .amoAdd d ca b sc ok => Sys2Proof.Machine.execAmoAdd d ca b sc ok s
  | .amoAnd d ca b sc ok => Sys2Proof.Machine.execAmoAnd d ca b sc ok s
  | .amoOr d ca b sc ok => Sys2Proof.Machine.execAmoOr d ca b sc ok s
  | .amoXor d ca b sc ok => Sys2Proof.Machine.execAmoXor d ca b sc ok s
  | .amoMin d ca b sc ok => Sys2Proof.Machine.execAmoMin d ca b sc ok s
  | .amoMax d ca b sc ok => Sys2Proof.Machine.execAmoMax d ca b sc ok s
  | .amoSwap d ca b sc ok => Sys2Proof.Machine.execAmoSwap d ca b sc ok s
  | .amoCas d ca b sc ok => Sys2Proof.Machine.execAmoCas d ca b sc ok s
  | .redFadd mode ca b sc ok => Sys2Proof.Machine.execRedFadd mode ca b sc ok s
  | .redFmax mode ca b sc ok => Sys2Proof.Machine.execRedFmax mode ca b sc ok s
  | .redFmin mode ca b sc ok => Sys2Proof.Machine.execRedFmin mode ca b sc ok s
  | .redIadd mode ca b sc ok => Sys2Proof.Machine.execRedIadd mode ca b sc ok s
  | .wred mode ca b sc ok => Sys2Proof.Machine.execWred mode ca b sc ok s
  | .batonAlloc d ca sc => Sys2Proof.Machine.execBatonAlloc d ca sc s
  | .batonAcq ca => Sys2Proof.Machine.execBatonAcq ca s
  | .batonRel ca => Sys2Proof.Machine.execBatonRel ca s
  | .batonFree ca => Sys2Proof.Machine.execBatonFree ca s
  | .barInit ca b => Sys2Proof.Machine.execBarInit ca b s
  | .barArrive d ca b sc ok => Sys2Proof.Machine.execBarArrive d ca b sc ok s
  | .barWait d ca b => Sys2Proof.Machine.execBarWait d ca b s
  | .barDrop ca sc ok => Sys2Proof.Machine.execBarDrop ca sc ok s
  | .waitv d ca b => Sys2Proof.Machine.execWaitv d ca b s
  | .drgnDecl cd ca cb => Sys2Proof.Machine.execDrgnDecl cd ca cb s
  | .drgnRead d ca => Sys2Proof.Machine.execDrgnRead d ca s
  | .drgnSync ca => Sys2Proof.Machine.execDrgnSync ca s
  | .drgnDrop ca => Sys2Proof.Machine.execDrgnDrop ca s
  | .taskSpawn d ca cb => Sys2Proof.Machine.execTaskSpawn d ca cb s
  | .taskCancel d a => Sys2Proof.Machine.execTaskCancel d a s
  | .taskRetire => Sys2Proof.Machine.execTaskRetire s
  | .trigBind cd ca b => Sys2Proof.Machine.execTrigBind cd ca b s
  | .trigUnbind ca keep => Sys2Proof.Machine.execTrigUnbind ca keep s
  | .heatOpen d ca b => Sys2Proof.Machine.execHeatOpen d ca b s
  | .heatClose a => Sys2Proof.Machine.execHeatClose a s
  | .ballotPost d a => Sys2Proof.Machine.execBallotPost d a s
  | .ballotPoll d a => Sys2Proof.Machine.execBallotPoll d a s
  | .seqAdmit d ca cb => Sys2Proof.Machine.execSeqAdmit d ca cb s
  | .seqRelease d ca cb => Sys2Proof.Machine.execSeqRelease d ca cb s
  | .kvSlot d ca b => Sys2Proof.Machine.execKvSlot d ca b s
  | .tlbi a b => Sys2Proof.Machine.execTlbi a b s
  | .tlbsync => Sys2Proof.Machine.execTlbsync s
  | .vdDirty cd a b => Sys2Proof.Machine.execVdDirty cd a b s
  | .vdStop a => Sys2Proof.Machine.execVdStop a s
  | .vdStart a => Sys2Proof.Machine.execVdStart a s
  | .fcap a b => Sys2Proof.Machine.execFcap a b s
  | .frst a b => Sys2Proof.Machine.execFrst a b s
  | .mxMma e => Sys2Proof.Machine.execMxMma e s
  | .mxMmaBs e => Sys2Proof.Machine.execMxMmaBs e s
  | .mxMmaRc e => Sys2Proof.Machine.execMxMmaRc e s
  | .mxMzero e => Sys2Proof.Machine.execMxMzero e s
  | .mxMdrn e => Sys2Proof.Machine.execMxMdrn e s
  | .vxAdd e => Sys2Proof.Machine.execVxAdd e s
  | .vxSub e => Sys2Proof.Machine.execVxSub e s
  | .vxMul e => Sys2Proof.Machine.execVxMul e s
  | .vxFma e => Sys2Proof.Machine.execVxFma e s
  | .vxMin e => Sys2Proof.Machine.execVxMin e s
  | .vxMax e => Sys2Proof.Machine.execVxMax e s
  | .vxAbs e => Sys2Proof.Machine.execVxAbs e s
  | .vxNeg e => Sys2Proof.Machine.execVxNeg e s
  | .vxCmp e => Sys2Proof.Machine.execVxCmp e s
  | .vxAnd e => Sys2Proof.Machine.execVxAnd e s
  | .vxOr e => Sys2Proof.Machine.execVxOr e s
  | .vxXor e => Sys2Proof.Machine.execVxXor e s
  | .vxShl e => Sys2Proof.Machine.execVxShl e s
  | .vxShr e => Sys2Proof.Machine.execVxShr e s
  | .vxCvt e => Sys2Proof.Machine.execVxCvt e s
  | .vxAcc e => Sys2Proof.Machine.execVxAcc e s
  | .vxScan e => Sys2Proof.Machine.execVxScan e s
  | .rxRsum e => Sys2Proof.Machine.execRxRsum e s
  | .rxRmax e => Sys2Proof.Machine.execRxRmax e s
  | .rxRmin e => Sys2Proof.Machine.execRxRmin e s
  | .rxRargmax e => Sys2Proof.Machine.execRxRargmax e s
  | .rxRsumsq e => Sys2Proof.Machine.execRxRsumsq e s
  | .fxExp2 e => Sys2Proof.Machine.execFxExp2 e s
  | .fxLog2 e => Sys2Proof.Machine.execFxLog2 e s
  | .fxRcp e => Sys2Proof.Machine.execFxRcp e s
  | .fxRsqrt e => Sys2Proof.Machine.execFxRsqrt e s
  | .fxSin e => Sys2Proof.Machine.execFxSin e s
  | .fxTanh e => Sys2Proof.Machine.execFxTanh e s
  | .fxLut e => Sys2Proof.Machine.execFxLut e s
  | .agRd se fetch => Sys2Proof.Machine.execAgRd se fetch s
  | .agWr se fetch => Sys2Proof.Machine.execAgWr se fetch s
  | .agRdfe se fetch => Sys2Proof.Machine.execAgRdfe se fetch s
  | .agGather se fetch => Sys2Proof.Machine.execAgGather se fetch s
  | .agRing se fetch => Sys2Proof.Machine.execAgRing se fetch s
  | .agSurv se fetch => Sys2Proof.Machine.execAgSurv se fetch s
  | .qxQuant e => Sys2Proof.Machine.execQxQuant e s
  | .qxDeq e => Sys2Proof.Machine.execQxDeq e s
  | .qxBscale e => Sys2Proof.Machine.execQxBscale e s
  | .qxRound e => Sys2Proof.Machine.execQxRound e s
  | .dlDelay e => Sys2Proof.Machine.execDlDelay e s
  | .dlPrime e => Sys2Proof.Machine.execDlPrime e s
  | .pmTrans e => Sys2Proof.Machine.execPmTrans e s
  | .pmBcast e => Sys2Proof.Machine.execPmBcast e s
  | .pmShuf e => Sys2Proof.Machine.execPmShuf e s
  | .pmPack e => Sys2Proof.Machine.execPmPack e s
  | .pmUnpack e => Sys2Proof.Machine.execPmUnpack e s
  | .smSel e => Sys2Proof.Machine.execSmSel e s
  | .smMerge e => Sys2Proof.Machine.execSmMerge e s
  | .smSplit e => Sys2Proof.Machine.execSmSplit e s
  | .smFilter e => Sys2Proof.Machine.execSmFilter e s
  | .smConst e => Sys2Proof.Machine.execSmConst e s
  | .rnRngBits e => Sys2Proof.Machine.execRnRngBits e s
  | .rnRngBern e => Sys2Proof.Machine.execRnRngBern e s
  | .gtEntry e => Sys2Proof.Machine.execGtEntry e s
  | .gtExit e => Sys2Proof.Machine.execGtExit e s
  | .gtBound e => Sys2Proof.Machine.execGtBound e s
  | .gtAcq e => Sys2Proof.Machine.execGtAcq e s
  | .ptCtlin e => Sys2Proof.Machine.execPtCtlin e s
  | .ptSink e => Sys2Proof.Machine.execPtSink e s
  | .ptEreq e => Sys2Proof.Machine.execPtEreq e s
  | .ptErsp e => Sys2Proof.Machine.execPtErsp e s
  | .ptTrig e => Sys2Proof.Machine.execPtTrig e s
  | .fetchAndDecodeFault cause tval => Sys2Proof.Machine.execFetchAndDecodeFault cause tval s
  | .peerRequestArrival peer addr op => Sys2Proof.Machine.execPeerRequestArrival peer addr op s
  | .communicatorFormation rank n paths windows => Sys2Proof.Machine.execCommunicatorFormation rank n paths windows s
  | .reductionTreeDissolved => Sys2Proof.Machine.execReductionTreeDissolved s
  | .isaudLinkReconnect => Sys2Proof.Machine.execIsaudLinkReconnect s
  | .powerLoss => Sys2Proof.Machine.execPowerLoss s
  | .mgcRequest code => Sys2Proof.Machine.execMgcRequest code s
  | .fieldSoftError site e => Sys2Proof.Machine.execFieldSoftError site e s
  | .pacerRegisterSoftError reg => Sys2Proof.Machine.execPacerRegisterSoftError reg s

end Sys2Proof.Machine
end

