-- ==== Sys2Proof/Machine/Events.lean ====
section
/-! DEFINITION. What befalls the module from causes that no rule lets a unit decide: uncorrectable data and metadata, spoilt accumulators and
sectors, failing clears, and requests that are refused or meet a protocol error beyond this device (R8, R122, R130, R134, R151, R161;
log 77). The host's offer of a write with completion comes in the same way (R14), and so do SAVEBASE as firmware sets it and the images of
other modules (R126, R132, R362). An agenda turn lists them; a turn that the machine chooses itself has none. -/

namespace Sys2Proof.Machine

open Sys2Proof

/-- The exact accumulator of a row, block or bin at a port becomes uncorrectable (R161). -/
def Decl.spoil (d : Decl) (p i : Nat) : Decl :=
  if (d.part p i).used then d.setPart p i { d.part p i with spoilt := true } else d

/-- One event. -/
def State.event (s : State) : Event → State
  | .badData g => { s with bad := NSet.ins s.bad g }
  | .badMeta g => { s with badMeta := NSet.ins s.badMeta g }
  | .badAccumulator id p i => { s with decls := s.decls.map (fun d => if d.1 == id then (d.1, d.2.spoil p i) else d) }
  | .badSectors id j => s.spoilChunk id j
  | .clearFails r => { s with clearBad := NSet.ins s.clearBad r }
  | .refused st => s.linkError st 1
  | .protocolError st => s.linkError st 3
  | .hostWrite w => { s with hostWrite := some w }
  | .saveBase r a => s.onRegion r (fun g => { g with pacer := { g.pacer with savebase := a &&& ~~~(0xFFFFF : Word) } })
  | .image m i g => s.foreignImage m i g

/-- The events before a turn, in order. -/
def State.events (s : State) (es : List Event) : State := es.foldl State.event s

end Sys2Proof.Machine
end

