-- ==== Sys2Proof/Machine/Schedule.lean ====
section
/-! DEFINITION. Turns: the passing of time, the Pacer's turn (R97, R124, R125, R127, R129), the turn of another unit, and the choice of the
next turn where the agenda names none (log 1). -/

namespace Sys2Proof.Machine

open Sys2Proof

/-! ### Time -/

/-- fc pass in a region: disarmed slots whose last token has left the Field let their engines go (R260), and it is counted how long the running configuration's
entry queues have been empty (R113). -/
def Region.tick (g0 : Region) (fc : Nat) : Region :=
  let g := g0.slots.foldl (fun (h : Region) p => h.ebbOut p.1) g0
  match g.running with
  | none => g
  | some i => { g with starve := if g.waitingTokens i.slot i.block == 0 then g.starve + fc else 0 }

/-- fc pass (R2). -/
def State.tick (s0 : State) (fc : Nat) : State :=
  let s := s0.holdTimers fc
  { s with now := s.now + fc, regions := AMap.mapV s.regions (fun g => if g.slots.isEmpty then g else g.tick fc) }

/-! ### The Pacer's turn -/

/-- A debug event at the current boundary, task mode only (R122, R126): after the instruction just executed, a data access, then a single
step; before the next one, its address. -/
inductive Debug where
  | access (a : Word)
  | step
  | fetch (a : Word)
deriving DecidableEq, Repr

def State.debug (s : State) : Option Debug :=
  let g := s.reg
  let p := g.pacer
  if p.mode then none
  else match g.dataBrk with
    | some a => some (.access a)
    | none =>
      if g.stepDue then some .step
      else if p.dbgctl.getLsbD 1 && s.pc == p.dbgiaddr && !g.skipBrk then some (.fetch p.dbgiaddr)
      else none

/-- The trap of a debug event. -/
def State.debugTrap (s : State) : Debug → State
  | .access a => (s.onReg (fun g => { g with dataBrk := none })).trapEntry 0xA9 a
  | .step => (s.onReg (fun g => { g with stepDue := false })).trapEntry 0xA7 0
  | .fetch a => s.trapEntry 0xA8 a

/-- A waiting instruction that is executed again keeps only the time at which its limit began (R216, R252, R267). -/
def Wait.again : Wait → Wait
  | .poll => .none
  | w => w

/-- The current region as its Pacer begins an instruction: a single step is due after one in task mode (R126). -/
def State.begin (s : State) : State :=
  s.onReg (fun g => { g with
    wait := g.wait.again, skipBrk := false, stepDue := g.stepDue || (!g.pacer.mode && g.pacer.dbgctl.getLsbD 0) })

/-- The instruction at the PC is fetched and executed, or the fetch faults (R207, R216). -/
def State.fetchExec (s : State) : Out :=
  match s.fetch with
  | .error (f, v) => exec (.fetchAndDecodeFault f v) s
  | .ok (s1, i) => exec i s1.begin

/-- The Pacer executes its next instruction, or goes on waiting. -/
def State.goOn (s : State) : Out :=
  match s.reg.wait with
  | .resp _ _ _ => .next s
  | .monitor _ => .next s
  | _ => s.fetchExec

/-- The turn of the current region's Pacer. At a boundary: debug events of the instruction just executed, a pending fault, a stop, a
breakpoint, then the next instruction (R129). A trap of a task is disposed of by firmware (R124); a stopped region's task ends, or its
context is captured, once its stores are done (R66, R72, R131). -/
def State.pacerTurn (s : State) : Out :=
  let g := s.reg
  match g.run with
  | .reset => .next s
  | .off => if g.stop.isSome && g.task.isSome then .next s.stopStep else .next s
  | .firmware c => .next (s.dispose c)
  | .stopped =>
    match g.stop, g.task with
    | some _, _ => .next s.stopStep
    | none, some id => .next (s.tryEnd id)
    | none, none => .next s
  | .on =>
    let d := if g.wait == .none then s.debug else none
    match d with
    | some (.access a) => .next (s.debugTrap (.access a))
    | some .step => .next (s.debugTrap .step)
    | _ =>
      if s.faultDue then execPendingFaultDelivery s
      else if g.stop.isSome then .next s.stopStep
      else match d with
        | some e => .next (s.debugTrap e)
        | none => s.goOn

/-! ### Turns -/

/-- An act of a unit that works in every boot state: bring-up, the host, links, and the ordering machine. The others wait for READY (R23). -/
def anyBoot : Instr → Bool
  | .powerUp | .imageGo _ | .verify | .mgcLoad _ | .mgcInit _ | .logRing _ | .quote _ | .sensor _ | .identity _ | .moduleReset _
  | .registerWrite _ _ | .sensorSample _ _ | .thermalStop _ _ | .jnlCfgWrite _ | .jnlRdWrite _ | .hostRead _ _ _ _ | .postedWrite _ _ _ _
  | .fadd32 _ _ _ _ | .fadd64 _ _ _ _ | .swap64 _ _ _ _ | .cas64 _ _ _ _ _ | .writeWithCompletion | .isaudLinkDown | .celcenPortFail _
  | .celcenBothPortsDown | .peerDeviceReset _ | .dieLinkFailure _ | .completionTimeout _ | .pass _ _ _ | .admitReq _ _ | .apply _ | .ret _
  | .serve _ _ | .combine _ _ | .isaudLinkReconnect | .powerLoss => true
  | _ => false

/-- An instruction of the Pacer, which only a fetch supplies: one that has an encoding. -/
def isPacer (i : Instr) : Bool := !(encodeWords i).isEmpty

/-- A turn: its fc pass, cancels are committed and its events befall the module; then its region's Pacer or the unit named takes its step. -/
def State.runTurn (s : State) (t : Turn) : Out :=
  let s1 : State := { ((s.tick t.fc).commitCancels).events t.events with cur := t.region }
  match t.act with
  | none => if s1.mgc.boot == .ready then s1.pacerTurn else .next s1
  | some i =>
    if isPacer i then .fault .agendaIllFormed
    else if anyBoot i || s1.mgc.boot == .ready then exec i s1
    else .next s1

/-! ### The choice of a turn (log 1, log 2) -/

/-- The region and row that move a request on its way. -/
def Req.passTurn (q : Req) : Option (Nat × Instr) :=
  match q.stage with
  | .cq r k se => some (r, .pass .cq (128 * k + se) q.port)
  | .rq r => some (r, .pass .rq 0 q.port)
  | .dq d => some (0, .pass .dq d q.port)
  | _ => none

/-- An inbound request that is the first of its queue and may be admitted. -/
def State.admitTurn (s : State) : Option (Nat × Instr) :=
  s.reqs.findSome? (fun q =>
    if s.reqs.find? (fun e => e.stage == q.stage) == some q && s.admissible q then
      match q.stage with
      | .inHost t => some (0, .admitReq false t)
      | .inPeer r => some (0, .admitReq true r)
      | _ => none
    else none)

/-- A port with a request that it can apply. -/
def State.applyTurn (s : State) : Option (Nat × Instr) :=
  s.reqs.findSome? (fun q =>
    if q.stage == .pq && (q.port == .aperture || (s.tryApply (s.portReqs q.port)).isSome) then some (0, .apply q.port) else none)

/-- A port with maintenance to do. -/
def State.serveTurn (s : State) : Option (Nat × Instr) :=
  s.decls.findSome? (fun p => p.2.mq.findSome? (fun m => if m.2.isEmpty then none else some (0, .serve (portOfNum m.1) p.1)))

/-- An element of a window with every rank's contribution. -/
def State.combineTurn (s : State) : Option (Nat × Instr) :=
  s.windows.findSome? (fun p => (List.range p.2.elems).findSome? (fun e =>
    if p.2.n > 0 && (List.range p.2.n).all (fun r => (s.contribution p.1 e r).isSome) then some (0, .combine p.1 e) else none))

/-- The ordering machine's next step, if it has one (R167). -/
def State.orderTurn (s : State) : Option (Nat × Instr) :=
  if !s.resps.isEmpty then some (0, .ret 0)
  else (s.reqs.findSome? Req.passTurn) <|> s.admitTurn <|> s.applyTurn <|> s.serveTurn <|> s.combineTurn

/-- The firing of an element of kind 0x0 by operation. -/
def mxFire (op e : Nat) : Option Instr :=
  match op with
  | 0 => some (.mxMma e)
  | 1 => some (.mxMmaBs e)
  | 2 => some (.mxMmaRc e)
  | 3 => some (.mxMzero e)
  | 4 => some (.mxMdrn e)
  | _ => none

/-- The firing of an element of kind 0x1 by operation. -/
def vxFire (op e : Nat) : Option Instr :=
  match op with
  | 0 => some (.vxAdd e)
  | 1 => some (.vxSub e)
  | 2 => some (.vxMul e)
  | 3 => some (.vxFma e)
  | 4 => some (.vxMin e)
  | 5 => some (.vxMax e)
  | 6 => some (.vxAbs e)
  | 7 => some (.vxNeg e)
  | 8 => some (.vxCmp e)
  | 9 => some (.vxAnd e)
  | 10 => some (.vxOr e)
  | 11 => some (.vxXor e)
  | 12 => some (.vxShl e)
  | 13 => some (.vxShr e)
  | 14 => some (.vxCvt e)
  | 15 => some (.vxAcc e)
  | 16 => some (.vxScan e)
  | _ => none

/-- The firing of an element of kind 0x2 by operation. -/
def rxFire (op e : Nat) : Option Instr :=
  match op with
  | 0 => some (.rxRsum e)
  | 1 => some (.rxRmax e)
  | 2 => some (.rxRmin e)
  | 3 => some (.rxRargmax e)
  | 4 => some (.rxRsumsq e)
  | _ => none

/-- The firing of an element of kind 0x3 by operation. -/
def fxFire (op e : Nat) : Option Instr :=
  match op with
  | 0 => some (.fxExp2 e)
  | 1 => some (.fxLog2 e)
  | 2 => some (.fxRcp e)
  | 3 => some (.fxRsqrt e)
  | 4 => some (.fxSin e)
  | 5 => some (.fxTanh e)
  | 6 => some (.fxLut e)
  | _ => none

/-- The firing of an element of kind 0x5 by operation. -/
def qxFire (op e : Nat) : Option Instr :=
  match op with
  | 0 => some (.qxQuant e)
  | 1 => some (.qxDeq e)
  | 2 => some (.qxBscale e)
  | 3 => some (.qxRound e)
  | _ => none

/-- The firing of an element of kind 0x6 by operation. -/
def dlFire (op e : Nat) : Option Instr :=
  match op with
  | 0 => some (.dlDelay e)
  | 1 => some (.dlPrime e)
  | _ => none

/-- The firing of an element of kind 0x7 by operation. -/
def pmFire (op e : Nat) : Option Instr :=
  match op with
  | 0 => some (.pmTrans e)
  | 1 => some (.pmBcast e)
  | 2 => some (.pmShuf e)
  | 3 => some (.pmPack e)
  | 4 => some (.pmUnpack e)
  | _ => none

/-- The firing of an element of kind 0x8 by operation. -/
def smFire (op e : Nat) : Option Instr :=
  match op with
  | 0 => some (.smSel e)
  | 1 => some (.smMerge e)
  | 2 => some (.smSplit e)
  | 3 => some (.smFilter e)
  | 4 => some (.smConst e)
  | _ => none

/-- The firing of an element of kind 0x9 by operation. -/
def rnFire (op e : Nat) : Option Instr :=
  match op with
  | 0 => some (.rnRngBits e)
  | 1 => some (.rnRngBern e)
  | _ => none

/-- The firing of an element of kind 0xa by operation. -/
def gtFire (op e : Nat) : Option Instr :=
  match op with
  | 0 => some (.gtEntry e)
  | 1 => some (.gtExit e)
  | 2 => some (.gtBound e)
  | 3 => some (.gtAcq e)
  | _ => none

/-- The firing of an element of kind 0xb by operation. -/
def ptFire (op e : Nat) : Option Instr :=
  match op with
  | 0 => some (.ptCtlin e)
  | 1 => some (.ptSink e)
  | 2 => some (.ptEreq e)
  | 3 => some (.ptErsp e)
  | 4 => some (.ptTrig e)
  | _ => none

/-- The steps of an AG of an operation and engine. -/
def agFire (op se : Nat) (fetch : Bool) : Option Instr :=
  match op with
  | 0 => some (.agRd se fetch)
  | 1 => some (.agWr se fetch)
  | 2 => some (.agRdfe se fetch)
  | 3 => some (.agGather se fetch)
  | 4 => some (.agRing se fetch)
  | 5 => some (.agSurv se fetch)
  | _ => none

/-- The steps of an element by its word. -/
def fireOf (w : ElemWord) (e : Nat) : List Instr :=
  match w.kind with
  | 0 => (mxFire w.op e).toList
  | 1 => (vxFire w.op e).toList
  | 2 => (rxFire w.op e).toList
  | 3 => (fxFire w.op e).toList
  | 4 => (agFire w.op w.se true).toList ++ (agFire w.op w.se false).toList
  | 5 => (qxFire w.op e).toList
  | 6 => (dlFire w.op e).toList
  | 7 => (pmFire w.op e).toList
  | 8 => (smFire w.op e).toList
  | 9 => (rnFire w.op e).toList
  | 10 => (gtFire w.op e).toList
  | 11 => (ptFire w.op e).toList
  | _ => []

/-- The steps of a region's units. -/
def Region.unitSteps (g : Region) : List Instr :=
  [.forcedFreeze, .graceFreeze, .starterDecision, .controllerIteration, .wfeTimeout, .snapWaitTimeout] ++
    (List.range 8).map (fun se => .roundStart se) ++
    g.slots.flatMap (fun p => [.armBoundary p.1, .configRefetch p.1]) ++
    (List.range (g.insts.map (fun i => i.links.length)).sum).map (fun l => .routerMove l) ++
    g.insts.flatMap (fun i => (List.range i.block.elems.length).flatMap (fun e =>
      .reconfigurationWave e :: fireOf (i.block.el e) e)) ++
    g.snap.owed.map (fun o => .splitMarker o.1 o.2) ++
    g.engines.flatMap (fun p => (List.range 6).map (fun op => agFire op p.1 true) |>.filterMap id)

/-- The step of a packet's operation. -/
def packetStep (qid kind opc : Nat) : Option Instr :=
  match kind, opc with
  | 1, 1 => some (.launch qid)
  | 1, 2 => some (.cancel qid)
  | 1, 3 => some (.notify qid)
  | 2, 0x10 => some (.copy qid)
  | 2, 0x11 => some (.strided qid)
  | 2, 0x12 => some (.fill qid)
  | 3, 0x20 => some .qCreate
  | 3, 0x21 => some .qDestroy
  | 3, 0x22 => some .qSkip
  | 3, 0x23 => some .captSet
  | 3, 0x30 => some .vdCreatePacket
  | 3, 0x31 => some .vdDestroy
  | 3, 0x32 => some .vdStopPacket
  | 3, 0x33 => some .vdStartPacket
  | 3, 0x34 => some .vdDirtyPacket
  | 3, 0x35 => some .vdExport
  | 3, 0x36 => some .vdImport
  | 3, 0x40 => some .fwInfo
  | _, _ => none

/-- The steps of a queue. -/
def queueSteps (qid : Nat) (q : Queue) : List Instr :=
  [.packetConsume qid, .queueStall qid, .stallEntryWrite qid] ++ q.pend.filterMap (fun p => packetStep qid q.kind p.opc)

/-- The steps that units other than Pacers may have to make in READY, with their regions. -/
def State.unitSteps (s : State) : List (Nat × Instr) :=
  (s.queues.flatMap (fun p => queueSteps p.1 p.2)).map (fun i => (0, i)) ++
    [(0, .dispatchDecision), (0, .preemptionRequest)] ++
    s.btes.map (fun p => (0, .bteChunk p.1 (p.2.todo.headD 0))) ++
    (if s.banks.isEmpty then [] else [(0, .bankHalfComplete)]) ++
    s.heats.map (fun p => (0, .heatAccountingWrite p.1)) ++
    s.regions.flatMap (fun p => if p.2.task.isNone && p.2.insts.isEmpty then [] else p.2.unitSteps.map (fun i => (p.1, i)))

/-- A number that follows the fc count without a short period, so that no unit's turn falls in step with a program's loop (log 1). -/
def State.scatter (s : State) : Nat := s.now * 2654435761 / 65536

/-- The region of the next Pacer's turn: one of those at work; the current one where none is. -/
def State.nextPacer (s : State) : Nat :=
  let busy := (s.regions.filter (fun p => (p.2.run != .off && p.2.run != .reset) || p.2.stop.isSome)).map (·.1)
  busy.getD (s.scatter / 2 % busy.length) s.cur

/-- The command that the mailbox runs. -/
def mailboxStep (c : MbxCmd) : Option Instr :=
  match c.op with
  | 1 => some (.imageGo c.tag)
  | 2 => some (.logRing c.tag)
  | 3 => some (.quote c.tag)
  | 4 => some (.sensor c.tag)
  | 5 => some (.identity c.tag)
  | _ => none

/-- The MGC's own next step (R23 to R27): a command of the mailbox, or the step of its boot state, which succeeds. -/
def State.mgcTurn (s : State) : Option Instr :=
  (s.mgc.cmd.bind mailboxStep) <|>
    match s.mgc.boot with
    | .power => some .powerUp
    | .link => some .powerUp
    | .verify => some .verify
    | .load => some (.mgcLoad .ok)
    | .init => some (.mgcInit .ok)
    | _ => none

/-- The next turn where the agenda names none: the ordering machine's, then the MGC's; then Pacers and the other units by turns. One fc
passes. -/
def State.chosenTurn (s : State) : Turn :=
  match s.orderTurn with
  | some (r, i) => { fc := 1, region := r, act := some i }
  | none =>
    match s.mgcTurn with
    | some i => { fc := 1, region := s.cur, act := some i }
    | none =>
      let us := s.unitSteps
      let h := s.scatter
      if h % 2 == 0 || us.isEmpty then { fc := 1, region := s.nextPacer, act := none }
      else
        let u := us.getD (h / 2 % us.length) (0, .dispatchDecision)
        { fc := 1, region := u.1, act := some u.2 }

/-- The next turn, and the state without it. -/
def State.nextTurn (s : State) : Turn × State :=
  match s.agenda with
  | t :: ts => (t, { s with agenda := ts })
  | [] => (s.chosenTurn, s)

/-! ### An instruction placed where the next step fetches it -/

/-- A capability to fetch from all of a region's slice, at its first byte. -/
def sliceCode : Cap :=
  { tag := true, perms := BitVec.ofNat 7 permExec, space := 1, exp := 1, len := 0x800000, boff := 0, cursor := 0 }

/-- The Pacer of a region about to fetch at the start of its slice, with nothing pending at the boundary. -/
def Region.fetching (g : Region) : Region :=
  { g with
    run := .on, wait := .none, stop := none, pend := none, icache := [], skipBrk := true, stepDue := false, dataBrk := none,
    pacer := { g.pacer with pcc := sliceCode } }

/-- Bytes placed at the start of the current region's slice, in a module that is READY and whose next turn is that region's Pacer. -/
def State.place (s : State) (bs : List Byte) : State :=
  let k := sramKey (s.cur * 2 ^ 24)
  ({ s with
    agenda := [{ fc := 1, region := s.cur, act := none }],
    mgc := { s.mgc with boot := .ready },
    mem := Memory.setBytes s.mem k bs,
    bad := s.bad.filter (fun g => !(granulesOf k bs.length).contains g) } : State).onReg Region.fetching

end Sys2Proof.Machine
end

