-- ==== Sys2Proof/Machine/Step.lean ====
section
/-! DEFINITION. One step of the machine: the next turn is taken. -/

namespace Sys2Proof.Machine

open Sys2Proof

/-- The step: the first turn of the agenda, or the one that Machine.Schedule chooses (log 1). -/
def step (s : State) : Host.Outcome State Fault Refusal :=
  let (t, s1) := s.nextTurn
  s1.runTurn t

/-- s with an instruction placed where the next step fetches it: at the start of the current region's slice, in a module that is READY, with
a fetch capability to the slice in PCC. It stands for the loading of a program from outside (log 17). -/
def State.withFetchWord (s : State) (nbits w : Nat) : State :=
  let v := w % 2 ^ nbits
  s.place (wordBytes v ++ wordBytes (v / 2 ^ 32))

end Sys2Proof.Machine
end

