-- ==== Sys2Proof/Safety.lean ====
section
/-! DEFINITION. The terms in which claims about the machine are made: an instruction's completion, and what a completed instruction leaves as
it was. -/

namespace Sys2Proof.Machine

open Sys2Proof

/-- Instruction i completes: exec takes s to the next state t. -/
def Completes (i : Instr) (s t : State) : Prop := exec i s = .next t

/-- Nothing but the record of the region whose turn it is differs: memory with its metadata, the ordering machine, queues, tasks, every other
unit and every other region are as they were. -/
def State.here (s t : State) : Prop :=
  ({ t with regions := s.regions } : State) = s ∧ ∀ r, r ≠ s.cur → t.region r = s.region r

/-- In that record nothing but the Pacer's registers differs. -/
def State.inPacer (s t : State) : Prop := s.here t ∧ ({ t.reg with pacer := s.reg.pacer } : Region) = s.reg

/-- Of the Pacer's registers none but the X registers and the PC differ, and execution continues at pc. -/
def State.inX (s t : State) (pc : Word) : Prop :=
  s.inPacer t ∧ ({ t.reg.pacer with x := s.reg.pacer.x, pcc := s.reg.pacer.pcc } : Pacer) = s.reg.pacer ∧
    t.reg.pacer.pcc = s.reg.pacer.pcc.withCursor pc

/-- X(d) := v and nothing else, and execution continues at pc: X0 stays zero (R95). -/
def State.wroteX (s t : State) (d : XReg) (v pc : Word) : Prop :=
  s.inX t pc ∧ ∀ r, t.rx r = if r = d ∧ d ≠ 0 then v else s.rx r

/-- C(d) := v and nothing else, and execution continues at pc: C0 stays null (R95). -/
def State.wroteC (s t : State) (d : CReg) (v : Cap) (pc : Word) : Prop :=
  s.inPacer t ∧ ({ t.reg.pacer with c := s.reg.pacer.c, pcc := s.reg.pacer.pcc } : Pacer) = s.reg.pacer ∧
    t.reg.pacer.pcc = s.reg.pacer.pcc.withCursor pc ∧ ∀ r, t.rc r = if r = d ∧ d ≠ 0 then v else s.rc r

/-- No register changes but the PC, and execution continues at pc. -/
def State.jumped (s t : State) (pc : Word) : Prop := s.inX t pc ∧ ∀ r, t.rx r = s.rx r

/-- NextPC of a one-word instruction (R216). -/
def State.nextPC (s : State) : Word := s.pc + 4

/-- Trap entry with a cause and TVAL (R123): EPC, CAUSE, TVAL and EPCC are saved, PMODE takes the mode, the machine is in supervisor mode under
MASK, and fetches at TVEC; the region waits for nothing, and no other register changes. -/
def State.entered (s t : State) (cause : Byte) (tval : Word) : Prop :=
  let p := s.reg.pacer
  s.here t ∧
    t.reg.pacer = { p with
      epc := p.pcc.cursor, cause := cause.zeroExtend 64, tval := tval, epcc := p.pcc, pmode := p.mode, mode := true, mask := true,
      pcc := Config.fwCode.withCursor p.tvec } ∧
    ({ t.reg with pacer := p, run := s.reg.run, wait := s.reg.wait } : Region) = s.reg ∧ t.reg.wait = .none

/-- Where a precise fault is taken by trap entry: in task mode, or in supervisor mode with MASK 0 (R123, R125). -/
def State.unmasked (s : State) : Prop := s.reg.pacer.mode = false ∨ s.reg.pacer.mask = false

/-- An instruction faults precisely with a class-0 cause: TVAL shows its first word (R122). -/
def Faults (i : Instr) (s : State) (cause : Byte) : Prop := ∃ t, Completes i s t ∧ s.entered t cause (BitVec.ofNat 64 ((encodeWords i).headD 0))

/-- An instruction with no effect yet: it is executed again (WaitUntil of R216). -/
def Waits (i : Instr) (s : State) : Prop := ∃ t, Completes i s t ∧ s.here t ∧ ({ t.reg with wait := s.reg.wait } : Region) = s.reg ∧ t.pc = s.pc

/-- The requests qs enter RQ of the current region's Pacer behind every earlier one, with the keys of the pieces ps and the effects acts; of the
rest of the machine nothing changes but the current region's wait, its PC, the note of a watched address, and cached translations: no byte of
memory, no register (R165, R234, R235). -/
def State.issues (s t : State) (ps : List Piece) (acts : List Act) (qs : List Req) : Prop :=
  t.reqs = s.reqs ++ qs ∧
    qs.map (fun q => (q.issuer, q.stage, q.key, q.port, q.act)) =
      (ps.zip acts).map (fun p => (Issuer.pacer s.cur, Stage.rq s.cur, p.1.key, portOf p.1.key, p.2)) ∧
    ({ t with regions := s.regions, reqs := s.reqs, stamp := s.stamp, tlb := s.tlb } : State) = s ∧
    (∀ r, r ≠ s.cur → t.region r = s.region r) ∧
    ({ t.reg with wait := s.reg.wait, dataBrk := s.reg.dataBrk, pacer := s.reg.pacer } : Region) = s.reg ∧
    ({ t.reg.pacer with pcc := s.reg.pacer.pcc } : Pacer) = s.reg.pacer

/-- The instruction issues requests and waits for their responses, of which k makes its result (R235). -/
def State.waitsFor (s t : State) (ps : List Piece) (acts : List Act) (k : Cont) : Prop :=
  ∃ qs, s.issues t ps acts qs ∧ t.reg.wait = .resp k (qs.map (·.stamp)) [] ∧ t.reg.pacer.pcc = s.reg.pacer.pcc

/-- The instruction issues requests and completes at once (R236). -/
def State.sends (s t : State) (ps : List Piece) (acts : List Act) : Prop :=
  ∃ qs, s.issues t ps acts qs ∧ t.reg.wait = s.reg.wait ∧ t.reg.pacer.pcc = s.reg.pacer.pcc.withCursor s.nextPC

/-- Nothing but the current region's record differs, and of its Pacer nothing but the PC, which stands at NextPC. -/
def State.movedOn (s t : State) : Prop :=
  s.here t ∧ t.reg.pacer = { s.reg.pacer with pcc := s.reg.pacer.pcc.withCursor s.nextPC }

/-- Besides the PC nothing but the current region's Field differs: its slots, engines, configurations, controller and snapshot. -/
def State.inField (s t : State) : Prop :=
  s.movedOn t ∧
    ({ t.reg with slots := s.reg.slots, engines := s.reg.engines, insts := s.reg.insts, ctl := s.reg.ctl, snap := s.reg.snap,
                  pacer := s.reg.pacer } : Region) = s.reg

/-- A Field or engine fault of the current region is pending and its Field is frozen (R127): the fault itself where none was pending; otherwise
several, of which the first keeps its cause and TVAL unless it is an element's of this same fc with a higher index. -/
def State.fieldFaulted (s t : State) (cause : Byte) (tval : Word) : Prop :=
  s.here t ∧ t.reg.frozen = true ∧ t.reg.faulted = true ∧ ∃ f, t.reg.pend = some f ∧
    match s.reg.pend with
    | none => f.cause = cause ∧ f.tval = tval ∧ f.multi = false
    | some g => f.multi = true ∧
        (f.cause = g.cause ∧ f.tval = g.tval ∨ f.cause = cause ∧ f.tval = tval ∧ ∃ x, g.elem = some (x, s.now) ∧ tval.toNat % 256 < x)

end Sys2Proof.Machine
end

