-- ==== Sys2Proof/Certificates/Slice0/Obligations.lean ====
section
/-! DEFINITION. The statements about the machine, for the provers. Each docstring cites the rule of the spec that it formalises. Every
instruction has a statement whose conclusion is that it completes. Tables of instructions stand before the statements that go through them. -/

namespace Sys2Proof.Claims

open Sys2Proof Sys2Proof.Machine

/-! ### Tables of instructions -/

/-- The word of the A format (R204). -/
def aWord (major d a b q fn : Nat) : Nat := major * 2 ^ 26 + d * 2 ^ 21 + a * 2 ^ 16 + b * 2 ^ 11 + q * 2 ^ 6 + fn

/-- INT instructions on two registers, with their FN codes and results (R218, R219). -/
def intTable : List ((XReg → XReg → XReg → Instr) × Nat × (Word → Word → Word)) :=
  [(.add, 0x0, fun x y => x + y), (.sub, 0x1, fun x y => x - y), (.and, 0x2, fun x y => x &&& y), (.or, 0x3, fun x y => x ||| y), (.xor, 0x4, fun x y => x ^^^ y),
   (.andn, 0x5, fun x y => x &&& ~~~y), (.sll, 0x6, fun x y => x <<< (y.toNat % 64)), (.srl, 0x7, fun x y => x >>> (y.toNat % 64)),
   (.sra, 0x8, fun x y => x.sshiftRight (y.toNat % 64)), (.slt, 0x9, fun x y => if x.toInt < y.toInt then 1 else 0),
   (.sltu, 0xa, fun x y => if x.toNat < y.toNat then 1 else 0), (.min, 0xb, fun x y => if x.toInt ≤ y.toInt then x else y),
   (.max, 0xc, fun x y => if x.toInt ≤ y.toInt then y else x), (.minu, 0xd, fun x y => if x.toNat ≤ y.toNat then x else y),
   (.maxu, 0xe, fun x y => if x.toNat ≤ y.toNat then y else x), (.mul, 0x10, fun x y => BitVec.ofNat 64 (x.toNat * y.toNat)),
   (.mulh, 0x11, fun x y => BitVec.ofInt 64 (x.toInt * y.toInt / 2 ^ 64)), (.mulhu, 0x12, fun x y => BitVec.ofNat 64 (x.toNat * y.toNat / 2 ^ 64))]

/-- Divisions, with their FN codes and their results for a divisor that is not zero (R219). -/
def divTable : List ((XReg → XReg → XReg → Instr) × Nat × (Word → Word → Word)) :=
  [(.div, 0x13, fun x y => BitVec.ofInt 64 (x.toInt.tdiv y.toInt)), (.divu, 0x14, fun x y => BitVec.ofNat 64 (x.toNat / y.toNat)),
   (.rem, 0x15, fun x y => BitVec.ofInt 64 (x.toInt.tmod y.toInt)), (.remu, 0x16, fun x y => BitVec.ofNat 64 (x.toNat % y.toNat))]

/-- Immediate instructions with a 16-bit immediate, with their results (R223). -/
def immTable : List ((XReg → XReg → BitVec 16 → Instr) × (Word → BitVec 16 → Word)) :=
  [(.addi, fun x i => x + i.signExtend 64), (.andi, fun x i => x &&& i.zeroExtend 64), (.ori, fun x i => x ||| i.zeroExtend 64),
   (.xori, fun x i => x ^^^ i.zeroExtend 64), (.slti, fun x i => if x.toInt < i.toInt then 1 else 0)]

/-- Shifts by an immediate amount (R223). -/
def shiftTable : List ((XReg → XReg → BitVec 6 → Instr) × (Word → Nat → Word)) :=
  [(.slli, fun x n => x <<< n), (.srli, fun x n => x >>> n), (.srai, fun x n => x.sshiftRight n)]

/-- Conditional branches, with their majors and comparisons (R231). -/
def branchTable : List ((XReg → XReg → BitVec 16 → Instr) × Nat × (Word → Word → Bool)) :=
  [(.beq, 0x10, fun x y => x == y), (.bne, 0x11, fun x y => x != y), (.blt, 0x12, fun x y => decide (x.toInt < y.toInt)),
   (.bge, 0x13, fun x y => decide (y.toInt ≤ x.toInt)), (.bltu, 0x14, fun x y => decide (x.toNat < y.toNat)),
   (.bgeu, 0x15, fun x y => decide (y.toNat ≤ x.toNat))]

/-- FP instructions on registers of one format, with the result and the flags that Machine.Flags gives them (R226 to R228). -/
def fpTable : List ((XReg → XReg → XReg → BitVec 1 → Instr) × (FloatFmt → Word → Nat → Nat → Nat → FpRes)) :=
  [(.fadd, fun f m a b c => fpArith f .add m a b c), (.fsub, fun f m a b c => fpArith f .sub m a b c),
   (.fmul, fun f m a b c => fpArith f .mul m a b c), (.ffma, fun f m a b c => fpArith f .fma m a b c),
   (.fdiv, fun f m a b c => fpArith f .div m a b c), (.fmin, fun f m a b _ => fpMinMax f false m a b),
   (.fmax, fun f m a b _ => fpMinMax f true m a b)]

/-- The result r of an FP instruction reaches X(d), and its flags accumulate in FPMODE; nothing else changes but the PC (R225). -/
def fpDone (s t : State) (d : XReg) (r : FpRes) : Prop :=
  s.inPacer t ∧
    ({ t.reg.pacer with x := s.reg.pacer.x, pcc := s.reg.pacer.pcc, fpmode := s.reg.pacer.fpmode } : Pacer) = s.reg.pacer ∧
    t.reg.pacer.pcc = s.reg.pacer.pcc.withCursor s.nextPC ∧
    t.reg.pacer.fpmode = s.reg.pacer.fpmode ||| (BitVec.ofNat 64 r.flags <<< 16) ∧
    ∀ q, t.rx q = if q = d ∧ d ≠ 0 then BitVec.ofNat 64 r.code else s.rx q

/-- What an FP instruction does with its result: it completes where no flag that it raises is enabled, and faults with 0x0D where one is
(R197, R225). -/
def fpEnds (i : Instr) (s : State) (d : XReg) (r : FpRes) : Prop :=
  (r.flags &&& fpEn s.reg.pacer.fpmode = 0 → ∃ t, Completes i s t ∧ fpDone s t d r) ∧
    (r.flags &&& fpEn s.reg.pacer.fpmode ≠ 0 → s.unmasked → Faults i s 0x0D)

/-- The privileged instructions (R207, check 10). -/
def privileged : Instr → Bool
  | .eret => true
  | .halt => true
  | .tlbi _ _ => true
  | .tlbsync => true
  | .vdDirty _ _ _ => true
  | .vdStop _ => true
  | .vdStart _ => true
  | .fcap _ _ => true
  | .frst _ _ => true
  | _ => false

end Sys2Proof.Claims

open Sys2Proof Sys2Proof.Machine Sys2Proof.Claims

/-! ### Integer instructions -/

/-- R218, R219: an INT instruction on two registers writes its result to X(XD), and nothing else changes but the PC. -/
def Sys2Proof.Claims.IntegerResults : Prop :=
  ∀ p ∈ intTable, ∀ s d a b, encodeWords (p.1 d a b) = [aWord 0x01 d.toNat a.toNat b.toNat 0 p.2.1] ∧
    ∃ t, Completes (p.1 d a b) s t ∧ s.wroteX t d (p.2.2 (s.rx a) (s.rx b)) s.nextPC

/-- R219: a division by a divisor that is not zero writes its quotient or remainder; a zero divisor faults with 0x08. -/
def Sys2Proof.Claims.DivisionResults : Prop :=
  ∀ p ∈ divTable, ∀ s d a b, encodeWords (p.1 d a b) = [aWord 0x01 d.toNat a.toNat b.toNat 0 p.2.1] ∧
    (s.rx b ≠ 0 → ∃ t, Completes (p.1 d a b) s t ∧ s.wroteX t d (p.2.2 (s.rx a) (s.rx b)) s.nextPC) ∧
    (s.rx b = 0 → s.unmasked → Faults (p.1 d a b) s 0x08)

/-- R218, R219: the results of the INT instructions on two registers, divisions among them. -/
def Obligations.IntegerInstructions : Prop := IntegerResults ∧ DivisionResults

/-- R220: CLZ counts the zero bits above the highest 1 bit, CTZ those below the lowest, and POPC the 1 bits; each of the first two gives 64 for
zero. -/
def Sys2Proof.Claims.BitCounts : Prop :=
  (∀ d a, encodeWords (.clz d a) = [aWord 0x01 d.toNat a.toNat 0 0 0x18] ∧ encodeWords (.ctz d a) = [aWord 0x01 d.toNat a.toNat 0 0 0x19] ∧
    encodeWords (.popc d a) = [aWord 0x01 d.toNat a.toNat 0 0 0x1A]) ∧
  ∀ s d a, ∃ n m k : Nat,
    (∃ t, Completes (.clz d a) s t ∧ s.wroteX t d (BitVec.ofNat 64 n) s.nextPC) ∧
    (∃ t, Completes (.ctz d a) s t ∧ s.wroteX t d (BitVec.ofNat 64 m) s.nextPC) ∧
    (∃ t, Completes (.popc d a) s t ∧ s.wroteX t d (BitVec.ofNat 64 k) s.nextPC) ∧
    n ≤ 64 ∧ m ≤ 64 ∧ (∀ j < n, (s.rx a).getLsbD (63 - j) = false) ∧ (n < 64 → (s.rx a).getLsbD (63 - n) = true) ∧
    (∀ j < m, (s.rx a).getLsbD j = false) ∧ (m < 64 → (s.rx a).getLsbD m = true) ∧
    k = ((List.range 64).filter (fun j => (s.rx a).getLsbD j)).length

/-- R221: with a field descriptor within its limits BEXT extracts W bits from bit LO, and BINS writes the low W bits of X(XA) over those bits
of X(XD); a descriptor beyond them faults with 0x0E. -/
def Sys2Proof.Claims.BitFields : Prop :=
  (∀ d a b, encodeWords (.bext d a b) = [aWord 0x01 d.toNat a.toNat b.toNat 0 0x1B] ∧ encodeWords (.bins d a b) = [aWord 0x01 d.toNat a.toNat b.toNat 0 0x1C]) ∧
  ∀ s d a b, let v := (s.rx b).toNat; let lo := v % 64; let w := v / 2 ^ 8 % 128
    (v = lo + w * 2 ^ 8 ∧ lo + w ≤ 64 →
      (∃ t, Completes (.bext d a b) s t ∧ s.wroteX t d (BitVec.ofNat 64 ((s.rx a).toNat / 2 ^ lo % 2 ^ w)) s.nextPC) ∧
      ∃ t r, Completes (.bins d a b) s t ∧ s.wroteX t d r s.nextPC ∧
        ∀ j < 64, r.getLsbD j = if lo ≤ j ∧ j < lo + w then (s.rx a).getLsbD (j - lo) else (s.rx d).getLsbD j) ∧
    (¬(v = lo + w * 2 ^ 8 ∧ lo + w ≤ 64) → s.unmasked → Faults (.bext d a b) s 0x0E ∧ Faults (.bins d a b) s 0x0E)

/-- R220, R221: the results of the bit counts and of the bit-field instructions. -/
def Obligations.BitInstructions : Prop := BitCounts ∧ BitFields

/-- R222 to R224: SEL, the immediate forms, LUI, AUIPC and LIMM write their results; LIMM occupies two words and execution continues at
PC + 8. -/
def Obligations.ImmediateResults : Prop :=
  (∀ s d a b q, ∃ t, Completes (.sel d a b q) s t ∧ s.wroteX t d (if s.rx q ≠ 0 then s.rx a else s.rx b) s.nextPC) ∧
  (∀ p ∈ immTable, ∀ s d a i, ∃ t, Completes (p.1 d a i) s t ∧ s.wroteX t d (p.2 (s.rx a) i) s.nextPC) ∧
  (∀ p ∈ shiftTable, ∀ s d a n, ∃ t, Completes (p.1 d a n) s t ∧ s.wroteX t d (p.2 (s.rx a) n.toNat) s.nextPC) ∧
  (∀ s d i, ∃ t, Completes (.lui d i) s t ∧ s.wroteX t d (i.signExtend 64 <<< 16) s.nextPC) ∧
  (∀ s d i, ∃ t, Completes (.auipc d i) s t ∧ s.wroteX t d (s.pc + (i.signExtend 64 <<< 16)) s.nextPC) ∧
  (∀ s d i, ∃ t, Completes (.limm d i) s t ∧ s.wroteX t d (i.signExtend 64) (s.pc + 8))

/-! ### Scalar floating point -/

/-- R225 to R230: an FP instruction whose result raises no enabled flag writes its result and accumulates its flags; one that would raise an
enabled flag faults with 0x0D. FCLASS writes the bit of the operand's class. -/
def Obligations.FloatResults : Prop :=
  (∀ p ∈ fpTable, ∀ s d a b w, let f := fpFmt w
    fpEnds (p.1 d a b w) s d (p.2 f s.reg.pacer.fpmode (fpOperand f (s.rx a)) (fpOperand f (s.rx b)) (fpOperand f (s.rx d)))) ∧
  (∀ s d a w, let f := fpFmt w
    fpEnds (.fsqrt d a w) s d (fpArith f .sqrt s.reg.pacer.fpmode (fpOperand f (s.rx a)) (fpOperand f (s.rx 0)) (fpOperand f (s.rx d)))) ∧
  (∀ s d a b c w, let f := fpFmt w
    fpEnds (.fcmp d a b c w) s d (fpCompare f c.toNat s.reg.pacer.fpmode (fpOperand f (s.rx a)) (fpOperand f (s.rx b)))) ∧
  (∀ s d a c, fpEnds (.fcvt d a c) s d (fpConvert c.toNat s.reg.pacer.fpmode (s.rx a))) ∧
  (∀ s d a w, ∃ t, Completes (.fclass d a w) s t ∧ s.wroteX t d (BitVec.ofNat 64 (2 ^ fpClass (fpFmt w) (fpOperand (fpFmt w) (s.rx a)))) s.nextPC)

/-! ### Control flow -/

/-- R231: a branch continues at PC + OFF16 × 4 where its comparison holds, and at NextPC where it does not; no register changes. -/
def Sys2Proof.Claims.Branches : Prop :=
  ∀ p ∈ branchTable, ∀ s a b off, encodeWords (p.1 a b off) = [p.2.1 * 2 ^ 26 + a.toNat * 2 ^ 21 + b.toNat * 2 ^ 16 + off.toNat] ∧ ∃ t,
    Completes (p.1 a b off) s t ∧ s.jumped t (if p.2.2 (s.rx a) (s.rx b) then s.pc + (off.signExtend 64 <<< 2) else s.nextPC)

/-- R232, R233: LOOP decrements its register and branches while it is not zero, and faults with 0x0E on X0; JAL and JALR write NextPC and
jump, JALR to the sum of the register before the write and the immediate. -/
def Sys2Proof.Claims.LoopAndJumps : Prop :=
  (∀ (a : XReg) (off : BitVec 16), encodeWords (.loop a off) = [0x16 * 2 ^ 26 + a.toNat * 2 ^ 21 + off.toNat]) ∧
  (∀ s a off, a ≠ 0 → ∃ t, Completes (.loop a off) s t ∧
    s.wroteX t a (s.rx a - 1) (if s.rx a - 1 ≠ 0 then s.pc + (off.signExtend 64 <<< 2) else s.nextPC)) ∧
  (∀ s off, s.unmasked → Faults (.loop 0 off) s 0x0E) ∧
  (∀ s d off, ∃ t, Completes (.jal d off) s t ∧ s.wroteX t d s.nextPC (s.pc + (off.signExtend 64 <<< 2))) ∧
  (∀ s d a i, ∃ t, Completes (.jalr d a i) s t ∧ s.wroteX t d s.nextPC (s.rx a + i.signExtend 64))

/-- R231 to R233: where branches, LOOP and jumps continue, and what they write. -/
def Obligations.ControlFlow : Prop := Branches ∧ LoopAndJumps

/-! ### Memory instructions -/

namespace Sys2Proof.Claims

/-- What an instruction on memory does: where the access through c passes its checks (R234) outside a view, it answers with d. -/
def onAccess (s : State) (c : Cap) (a : Word) (n perms kind : Nat) (spaces : List Nat) (use : Use) (d : List Piece → Prop) : Prop :=
  ∀ sp ps, s.access c a.toNat n perms kind spaces use = .ok (sp, ps) → sp ≠ 7 → d ps

/-- The read of a capability with its tag, where TGLOAD is there and the granule is one of this device's (R240). -/
def capAct (c : Cap) (p : Piece) : Act := if c.has permTgload && (isSram p.key || isHbm p.key) then .capRead else .read 16

end Sys2Proof.Claims

/-- R234, R235, R237 to R240: LD, LDQ, LDFE and CLD, where their checks pass, read the bytes at CURSOR + X(XI) + OFF8 × S by one request for each
granule, and wait for the responses that give XD, the pair from XD, or CD its value; every byte of memory and every register stays. -/
def Obligations.LoadsIssue : Prop :=
  (∀ s d cb xi off u sz, let n := 2 ^ sz.toNat
    onAccess s (s.rc cb) (s.memAddr cb xi off n) n permLoad kindRead loadSpaces .read fun ps =>
      ∃ t, Completes (.ld d cb xi off u sz) s t ∧ s.waitsFor t ps (ps.map (fun p => .read p.size)) (.toX d n (u == 0))) ∧
  (∀ s d cb xi off, d.getLsbD 0 = false →
    onAccess s (s.rc cb) (s.memAddr cb xi off 16) 16 permLoad kindRead loadSpaces .read fun ps =>
      ∃ t, Completes (.ldq d cb xi off) s t ∧ s.waitsFor t ps (ps.map (fun p => .read p.size)) (.toXX d)) ∧
  (∀ s d cb xi off sz, let n := 2 ^ sz.toNat; let a := s.memAddr cb xi off n
    a.toNat % n = 0 →
    onAccess s (s.rc cb) a n permLoad kindRead [1, 2] .read (fun ps =>
      ∃ t, Completes (.ldfeWait d cb xi off sz) s t ∧ s.waitsFor t ps (ps.map (fun p => .readFe p.size false)) (.toX d n false)) ∧
    onAccess s (s.rc cb) a n (permLoad + permStore) kindAtomic [1, 2] .store (fun ps =>
      ∃ t, Completes (.ldfeTake d cb xi off sz) s t ∧ s.waitsFor t ps (ps.map (fun p => .readFe p.size true)) (.held (.toX d n false)))) ∧
  (∀ s cd cb xi off, let a := s.memAddr cb xi off 16
    a.toNat % 16 = 0 →
    onAccess s (s.rc cb) a 16 permLoad kindRead [1, 2, 3, 4, 5, 7] .read fun ps =>
      ∃ t, Completes (.cld cd cb xi off) s t ∧ s.waitsFor t ps (ps.map (capAct (s.rc cb))) (.toC cd))

/-- R235, R237 to R240: when the last response that a load waits for arrives without a fault, the load completes: the loaded bytes, in request order, give
X(XD), zero- or sign-extended (R237), the pair from X(XD) (R238), or C(CD) with its tag (R240), and execution continues at NextPC; no byte of memory
changes. What comes back to LDFE.TAKE is in LoadsComplete (R239). -/
def Obligations.LoadsReturn : Prop :=
  ∀ s n q r ids got, s.resps[n]? = some q → q.issuer = .pacer r → q.cause = none → s.dropped.contains q.stamp = false → q.stamp ∈ ids →
    got.length + 1 = ids.length →
    let bytes := fun (b : List Byte) => (ids.map (fun i => (((got ++ [(q.stamp, b)]).find? (fun p => p.1 == i)).map (·.2)).getD [])).flatten
    (∀ d size sg, (s.region r).wait = .resp (.toX d size sg) ids got → ∃ t, Completes (.ret n) s t ∧
      (t.region r).pacer.rx d = (if d = 0 then 0 else loaded (bytes q.bytes) size sg) ∧
      (∀ e, e ≠ d → (t.region r).pacer.rx e = (s.region r).pacer.rx e) ∧
      (t.region r).pacer.pcc = (s.region r).pacer.pcc.withCursor ((s.region r).pacer.pcc.cursor + 4) ∧
      (t.region r).wait = .none ∧ t.mem = s.mem ∧ t.cur = s.cur) ∧
    (∀ d, (s.region r).wait = .resp (.toXX d) ids got → d.getLsbD 0 = false → 8 < (bytes q.bytes).length → ∃ t, Completes (.ret n) s t ∧
      (t.region r).pacer.rx d = (if d = 0 then 0 else loaded (bytes q.bytes) 8 false) ∧
      (t.region r).pacer.rx (d + 1) = loaded ((bytes q.bytes).drop 8) 8 false ∧
      (∀ e, e ≠ d → e ≠ d + 1 → (t.region r).pacer.rx e = (s.region r).pacer.rx e) ∧
      (t.region r).pacer.pcc = (s.region r).pacer.pcc.withCursor ((s.region r).pacer.pcc.cursor + 4) ∧
      (t.region r).wait = .none ∧ t.mem = s.mem ∧ t.cur = s.cur) ∧
    (∀ d, (s.region r).wait = .resp (.toC d) ids got → ∃ t, Completes (.ret n) s t ∧
      (t.region r).pacer.rc d = (if d = 0 then Cap.null else
        let bs := bytes (q.bytes ++ [if q.flag then 1 else 0]); Cap.ofBytes (bs.take 16) (bs.getD 16 0 == 1)) ∧
      (∀ e, e ≠ d → (t.region r).pacer.rc e = (s.region r).pacer.rc e) ∧
      (t.region r).pacer.pcc = (s.region r).pacer.pcc.withCursor ((s.region r).pacer.pcc.cursor + 4) ∧
      (t.region r).wait = .none ∧ t.mem = s.mem ∧ t.cur = s.cur)

/-- R234, R236, R237 to R240: ST, STQ, STFE and CST, where their checks pass (for STFE, with its release at DEV done), issue one write for each
granule of the bytes at CURSOR + X(XI) + OFF8 × S and complete; until the writes are applied every byte of memory reads as before, and no
register changes but the PC. -/
def Obligations.StoresIssue : Prop :=
  (∀ s d cb xi off sz, let n := 2 ^ sz.toNat
    onAccess s (s.rc cb) (s.memAddr cb xi off n) n permStore kindWrite storeSpaces .store fun ps =>
      ∃ t, Completes (.st d cb xi off sz) s t ∧ s.sends t ps (storeActs ps (leBytes n (s.rx d).toNat) .keep)) ∧
  (∀ s d cb xi off, d.getLsbD 0 = false →
    onAccess s (s.rc cb) (s.memAddr cb xi off 16) 16 permStore kindWrite storeSpaces .store fun ps =>
      ∃ t, Completes (.stq d cb xi off) s t ∧
        s.sends t ps (storeActs ps (leBytes 8 (s.rx d).toNat ++ leBytes 8 (s.rx (d + 1)).toNat) .keep)) ∧
  (∀ s d cb xi off full sz, let n := 2 ^ sz.toNat; let a := s.memAddr cb xi off n
    a.toNat % n = 0 →
    onAccess s (s.rc cb) a n permStore kindWrite [1, 2] .store fun ps => s.released 3 = true →
      ∃ t, Completes (.stfe d cb xi off full sz) s t ∧
        s.sends t ps (storeActs ps (leBytes n (s.rx d).toNat) (if full = 1 then .setFull else .setEmpty))) ∧
  (∀ s cd cb xi off, let a := s.memAddr cb xi off 16; let v := s.rc cd
    a.toNat % 16 = 0 →
    (∃ x, (s.rc cb).check a.toNat 16 (permStore + if v.tag then permTgstore else 0) kindWrite = .ok x) →
    onAccess s (s.rc cb) a 16 permStore kindWrite [1, 2, 3, 4, 5] .store fun ps =>
      ∃ t, Completes (.cst cd cb xi off) s t ∧ s.sends t ps (ps.map (fun _ => .capWrite v.bytes v.tag)))

/-- R122, R123, R234, R235, R238 to R241: the checks of an instruction on memory fail in their order. Each of the eight whose access fails a
check of its capability, its space or its translation faults with that check's cause; before it LDQ and STQ of an odd register and LDFE and STFE of a
misaligned address fault with 0x0E; CLD and CST of one fault with 0x1E after their capability's checks. A read of a view by LD, LDQ or CLD that no
declaration answers for faults with its cause; every store to a view faults with 0x19 (R241). -/
def Obligations.MemoryFaults : Prop :=
  ∀ s (d : XReg) (cb cd : CReg) (xi : XReg) (off : BitVec 8) (u full : BitVec 1) (sz : BitVec 2), s.unmasked → let n := 2 ^ sz.toNat; let c := s.rc cb
    let fails := fun (i : Instr) (a : Word) (f : Byte) => ∃ t v, Completes i s t ∧ s.entered t f v ∧
      v = if f.toNat < 0x10 then BitVec.ofNat 64 ((encodeWords i).headD 0)
        else s.tvalOf (if f = 0xB0 then .host else .peer (a.toNat / 2 ^ 48 % 256)) a f
    (∀ f, s.access c (s.memAddr cb xi off n).toNat n permLoad kindRead loadSpaces .read = .error f →
      fails (.ld d cb xi off u sz) (s.memAddr cb xi off n) f) ∧
    (∀ f, s.access c (s.memAddr cb xi off n).toNat n permStore kindWrite storeSpaces .store = .error f →
      fails (.st d cb xi off sz) (s.memAddr cb xi off n) f) ∧
    (∀ f, d.getLsbD 0 = false → s.access c (s.memAddr cb xi off 16).toNat 16 permLoad kindRead loadSpaces .read = .error f →
      fails (.ldq d cb xi off) (s.memAddr cb xi off 16) f) ∧
    (∀ f, d.getLsbD 0 = false → s.access c (s.memAddr cb xi off 16).toNat 16 permStore kindWrite storeSpaces .store = .error f →
      fails (.stq d cb xi off) (s.memAddr cb xi off 16) f) ∧
    (d.getLsbD 0 = true → Faults (.ldq d cb xi off) s 0x0E ∧ Faults (.stq d cb xi off) s 0x0E) ∧
    ((s.memAddr cb xi off n).toNat % n ≠ 0 →
      Faults (.ldfeWait d cb xi off sz) s 0x0E ∧ Faults (.ldfeTake d cb xi off sz) s 0x0E ∧ Faults (.stfe d cb xi off full sz) s 0x0E) ∧
    ((s.memAddr cb xi off n).toNat % n = 0 → let a := s.memAddr cb xi off n;
      (∀ f, s.access c a.toNat n permLoad kindRead [1, 2] .read = .error f → fails (.ldfeWait d cb xi off sz) a f) ∧
      (∀ f, s.access c a.toNat n (permLoad + permStore) kindAtomic [1, 2] .store = .error f → fails (.ldfeTake d cb xi off sz) a f) ∧
      (∀ f, s.access c a.toNat n permStore kindWrite [1, 2, 7] .store = .error f → fails (.stfe d cb xi off full sz) a f) ∧
      (∀ ps, s.access c a.toNat n permStore kindWrite [1, 2, 7] .store = .ok (7, ps) →
        ∃ t, Completes (.stfe d cb xi off full sz) s t ∧ s.entered t 0x19 a)) ∧
    (let a := s.memAddr cb xi off n;
      (∀ ps f, s.access c a.toNat n permLoad kindRead loadSpaces .read = .ok (7, ps) → s.viewRequests (inSpace a) n a = .error f →
        ∃ t, Completes (.ld d cb xi off u sz) s t ∧ s.entered t f a) ∧
      (∀ ps, s.access c a.toNat n permStore kindWrite storeSpaces .store = .ok (7, ps) → ∃ t, Completes (.st d cb xi off sz) s t ∧ s.entered t 0x19 a)) ∧
    (let a := s.memAddr cb xi off 16; let want := permStore + (if (s.rc cd).tag then permTgstore else 0);
      (∀ ps, d.getLsbD 0 = false → s.access c a.toNat 16 permStore kindWrite storeSpaces .store = .ok (7, ps) →
        ∃ t, Completes (.stq d cb xi off) s t ∧ s.entered t 0x19 a) ∧
      (∀ ps f, s.viewRequests (inSpace a) 16 a = .error f →
        (d.getLsbD 0 = false → s.access c a.toNat 16 permLoad kindRead loadSpaces .read = .ok (7, ps) →
          ∃ t, Completes (.ldq d cb xi off) s t ∧ s.entered t f a) ∧
        (a.toNat % 16 = 0 → s.access c a.toNat 16 permLoad kindRead [1, 2, 3, 4, 5, 7] .read = .ok (7, ps) →
          ∃ t, Completes (.cld cd cb xi off) s t ∧ s.entered t f a)) ∧
      (∀ f, c.check a.toNat 16 permLoad kindRead = .error f → fails (.cld cd cb xi off) a f) ∧
      (∀ f, c.check a.toNat 16 want kindWrite = .error f → fails (.cst cd cb xi off) a f) ∧
      (a.toNat % 16 = 0 →
        (∀ f, s.access c a.toNat 16 permLoad kindRead [1, 2, 3, 4, 5, 7] .read = .error f → fails (.cld cd cb xi off) a f) ∧
        (∀ sp x f, c.check a.toNat 16 want kindWrite = .ok (sp, x) → sp ≠ 7 → s.access c a.toNat 16 permStore kindWrite [1, 2, 3, 4, 5] .store = .error f →
          fails (.cst cd cb xi off) a f))) ∧
    ((s.memAddr cb xi off 16).toNat % 16 ≠ 0 →
      (∀ x, c.check (s.memAddr cb xi off 16).toNat 16 permLoad kindRead = .ok x →
        ∃ t, Completes (.cld cd cb xi off) s t ∧ s.entered t 0x1E (s.memAddr cb xi off 16)) ∧
      (∀ sp x, c.check (s.memAddr cb xi off 16).toNat 16 (permStore + if (s.rc cd).tag then permTgstore else 0) kindWrite = .ok (sp, x) → sp ≠ 7 →
        ∃ t, Completes (.cst cd cb xi off) s t ∧ s.entered t 0x1E (s.memAddr cb xi off 16))) ∧
    (∀ x, c.check (s.memAddr cb xi off 16).toNat 16 (permStore + if (s.rc cd).tag then permTgstore else 0) kindWrite = .ok (7, x) →
      ∃ t, Completes (.cst cd cb xi off) s t ∧ s.entered t 0x19 (s.memAddr cb xi off 16))

/-- R41, R140, R165, R167: where the first request that waits at a memory port is a plain write, and neither a link, a live sync object nor an
uncorrectable block stands in its way, APPLY makes exactly its bytes visible: every other byte of memory reads as before, and the tags of the
granules it touches are cleared, no other tag; no Pacer's registers change, and the request has left its queue. A queue whose WIDX this takes to
2^48 is dead after it, and only where there is one does anything else follow. -/
def Obligations.WriteApplies : Prop :=
  ∀ s p q bs rest, p ≠ .aperture → Memory.wf s.mem = true →
    s.reqs.filter (fun r => r.stage == .pq && r.port == p) = q :: rest → q.act = .write (plain bs) .keep →
    s.linkFault q = none → s.refuses q.key (plain bs) q.cmpr 1 = none →
    ∃ u t, Completes (.apply p) s t ∧ let ends := fun (x : Queue) => isHbm q.key ∧ x.state ≠ .dead ∧
          (∃ d, u.queueKey x x.desc = some d ∧ d / 16 = q.key / 16) ∧ 2 ^ 48 ≤ u.widx x
      (∀ k, Memory.get u.mem k = if q.key ≤ k ∧ k < q.key + bs.length then bs.getD (k - q.key) 0 else Memory.get s.mem k) ∧
      (∀ g, g ∈ u.tags ↔ g ∈ s.tags ∧ g ∉ granulesOf q.key bs.length) ∧
      u.reqs = s.reqs.filter (fun r => r.stamp != q.stamp) ∧ (∀ r, (u.region r).pacer = (s.region r).pacer) ∧
      ((∀ x ∈ s.queues, ¬ends x.2) → t = u) ∧
      ∀ qid x, s.queue qid = some x → ends x → ∃ y, t.queue qid = some y ∧ y.state = .dead

/-- R169, R170, R206, R251: the orderings a FENCE waits for, and nothing else: an acquire completes at once; a release where every request of the Pacer has
reached its scope's level, and a full fence where it has reached the wider of its scope and DEV. It waits otherwise, and faults with 0x03 for
kind 0 (R251) and for a scope above SYS (R206, log 65). -/
def Obligations.Fences : Prop :=
  ∀ s (scope : BitVec 3) (kind : BitVec 2), let i := Instr.fence scope kind
    let ready := kind = 1 ∨ (kind = 2 ∧ s.released scope.toNat = true) ∨ (kind = 3 ∧ s.released (max scope.toNat 3) = true)
    (kind ≠ 0 ∧ scope.toNat ≤ 4 → (ready → ∃ t, Completes i s t ∧ s.jumped t s.nextPC) ∧ (¬ready → Waits i s)) ∧
    ((kind = 0 ∨ 4 < scope.toNat) → s.unmasked → Faults i s 0x03)

/-! ### Capability instructions -/

/-- R242 to R247: CINC moves the cursor under the rule of R138, CANDP clears permissions of a tagged capability, CCLR clears the tag, and CGET, CTAG
and CSUB write a field, the tag and a difference of cursors; CSETB narrows the bounds where R244 allows it. -/
def Obligations.CapabilityResults : Prop :=
  ∀ s (cd ca cb : CReg) (d b : XReg) (f : BitVec 5), let c := s.rc ca
    (∃ t, Completes (.cinc cd ca b) s t ∧ s.wroteC t cd (c.withCursor (c.cursor + s.rx b)) s.nextPC) ∧
    (∀ v, c.setBounds (s.rx b).toNat = .ok v → ∃ t, Completes (.csetb cd ca b) s t ∧ s.wroteC t cd v s.nextPC) ∧
    (c.tag = true → ∃ t, Completes (.candp cd ca b) s t ∧ s.wroteC t cd { c with perms := c.perms &&& (s.rx b).setWidth 7 } s.nextPC) ∧
    (∃ t, Completes (.cclr cd ca) s t ∧ s.wroteC t cd { c with tag := false } s.nextPC) ∧
    (∃ t, Completes (.cget d ca f) s t ∧ s.wroteX t d (c.field f.toNat) s.nextPC) ∧
    (∃ t, Completes (.ctag d ca) s t ∧ s.wroteX t d (if c.tag then 1 else 0) s.nextPC) ∧
    (∃ t, Completes (.csub d ca cb) s t ∧ s.wroteX t d (c.cursor - (s.rc cb).cursor) s.nextPC)

/-- R137, R138, R242 to R245: no instruction makes a capability that reaches further than its source. Where CINC, CSETB, CANDP or CCLR completes without
a fault, C(CD) with a tag comes from a tagged C(CA), in the same space, with no permission that C(CA) lacks and within its bounds; CCLR's has no tag; no
other C register changes. CSETB outside R244's limits, and CANDP of an untagged capability, fault and write none. -/
def Obligations.CapabilitiesOnlyShrink : Prop :=
  ∀ (s : State) (cd ca : CReg) (b : XReg), let c := s.rc ca
    let shrinks := fun (t : State) => let v := t.rc cd
      (v.tag = true → c.tag = true ∧ v.space = c.space ∧ c.base ≤ v.base ∧ v.top ≤ c.top) ∧ (∀ i, v.perms.getLsbD i = true → c.perms.getLsbD i = true) ∧
        (cd ≠ 0 → v.space = c.space) ∧ ∀ e, e ≠ cd → t.rc e = s.rc e
    (∃ t, Completes (.cinc cd ca b) s t ∧ shrinks t) ∧
    (∀ v, c.setBounds (s.rx b).toNat = .ok v → ∃ t, Completes (.csetb cd ca b) s t ∧ shrinks t) ∧
    (∀ f, c.setBounds (s.rx b).toNat = .error f → s.unmasked → ∃ t, Completes (.csetb cd ca b) s t ∧ s.entered t f c.cursor) ∧
    (c.tag = true → ∃ t, Completes (.candp cd ca b) s t ∧ shrinks t) ∧
    (c.tag = false → s.unmasked → ∃ t, Completes (.candp cd ca b) s t ∧ s.entered t 0x10 c.cursor) ∧
    (∃ t, Completes (.cclr cd ca) s t ∧ shrinks t ∧ (t.rc cd).tag = false)

/-! ### System instructions and exceptions -/

/-- R123, R249: a precise fault where MASK does not hide it, a TRAP for one, saves PC, cause, TVAL and the fetch capability, enters supervisor
mode under MASK, and continues at TVEC. -/
def Sys2Proof.Claims.TrapTaken : Prop :=
  ∀ s code, s.unmasked → Faults (.trap code) s 0x0A

/-- R125: in supervisor mode under MASK a fault makes the region stop, with two MGC log records of cause 0xA4, and leaves the registers of
the region as they are. -/
def Sys2Proof.Claims.MaskedFaultStops : Prop :=
  ∀ s code, s.reg.pacer.mode = true → s.reg.pacer.mask = true →
    ∃ t, Completes (.trap code) s t ∧ t.reg.pacer = s.reg.pacer ∧ t.reg.run = .firmware 0xA4 ∧ t.mgc.logSeq = s.mgc.logSeq + 2

/-- R123, R125, R249: a trap, and a fault under MASK. -/
def Obligations.TrapsAndFaults : Prop := TrapTaken ∧ MaskedFaultStops

/-- R123, R250: ERET in supervisor mode restores the mode from PMODE, clears MASK and continues at EPC through EPCC; no other register
changes. -/
def Obligations.ReturnsFromTrap : Prop :=
  ∀ s, s.reg.pacer.mode = true → s.reg.pacer.epcc.tag = true → ∃ t, Completes .eret s t ∧ s.here t ∧
    t.reg.pacer = { s.reg.pacer with mode := s.reg.pacer.pmode, mask := false, pcc := s.reg.pacer.epcc.withCursor s.reg.pacer.epc }

/-- R207: a privileged instruction in task mode faults with 0x05 and does nothing else. -/
def Obligations.PrivilegeHolds : Prop :=
  ∀ i, privileged i = true → ∀ s, s.reg.pacer.mode = false → Faults i s 0x05

/-- R96, R126, R215, R248: GETS writes a register that the mode may read to X(XD), and SETS writes one that it may write, under the register's
own rule; a number that names no register faults with 0x06, a GETS of a supervisor register in task mode with 0x05, and a SETS that the mode
may not make with 0x07. -/
def Obligations.SystemRegisters : Prop :=
  ∀ s (d a : XReg) (num : BitVec 12), let n := num.toNat; let sup := s.reg.pacer.mode
    (sysListed n = true → (sup = true ∨ sysSupOnly n = false) →
      ∃ t, Completes (.gets d num) s t ∧ s.wroteX t d (s.sysRead n) s.nextPC) ∧
    (sysListed n = true → sysRoSup n = false → (sup = true ∨ (sysSupOnly n = false ∧ sysRoTask n = false)) →
      ∃ t, Completes (.sets a num) s t ∧ s.inPacer t ∧
        t.reg.pacer = { s.reg.pacer.sysWrite n (s.rx a) with pcc := s.reg.pacer.pcc.withCursor s.nextPC }) ∧
    (s.unmasked → sysListed n = false → Faults (.gets d num) s 0x06 ∧ Faults (.sets a num) s 0x06) ∧
    (sysListed n = true → sup = false → sysSupOnly n = true → Faults (.gets d num) s 0x05) ∧
    (s.unmasked → sysListed n = true → (sysRoSup n = true ∨ (sup = false ∧ (sysSupOnly n = true ∨ sysRoTask n = true))) → Faults (.sets a num) s 0x07)

/-- R252: WFE with an event pending, or after its limit, completes with the event bits, or 4 at its limit, and clears them; before that it
waits, and keeps the time at which its wait began. -/
def Sys2Proof.Claims.WaitsForEvents : Prop :=
  ∀ s d a, let ev := s.reg.pacer.ev; let limit := (s.rx a).toNat
    let start := match s.reg.wait with | .wfe t => t | _ => s.cyc
    ((ev ≠ 0 ∨ (limit ≠ 0 ∧ limit ≤ s.cyc - start)) → ∃ t, Completes (.wfe d a) s t ∧ s.here t ∧
      t.rx d = (if d = 0 then 0 else (if ev = 0 then 4 else ev).zeroExtend 64) ∧ (∀ r, r ≠ d → t.rx r = s.rx r) ∧ t.reg.pacer.ev = 0 ∧
      t.reg.wait = .none ∧ t.reg.pacer.pcc = s.reg.pacer.pcc.withCursor s.nextPC) ∧
    (¬(ev ≠ 0 ∨ (limit ≠ 0 ∧ limit ≤ s.cyc - start)) →
      ∃ t, Completes (.wfe d a) s t ∧ s.here t ∧ t.reg = { s.reg with wait := .wfe start })

/-- R253, R254: HALT in supervisor mode ends fetching at NextPC; YIELD in task mode asks for a stop with cause 0xAA, unless one is asked for
already, and its task resumes at NextPC; in supervisor mode it faults with 0x0F. -/
def Sys2Proof.Claims.HaltAndYield : Prop :=
  ∀ s, (s.reg.pacer.mode = true → ∃ t, Completes .halt s t ∧ s.here t ∧ t.reg.run = .off ∧
      t.reg.pacer = { s.reg.pacer with pcc := s.reg.pacer.pcc.withCursor s.nextPC }) ∧
    (s.reg.pacer.mode = false → ∃ t, Completes .yield s t ∧ s.here t ∧ t.reg.stop = some (s.reg.stop.getD 0xAA) ∧
      t.reg.pacer = { s.reg.pacer with pcc := s.reg.pacer.pcc.withCursor s.nextPC }) ∧
    (s.reg.pacer.mode = true → s.reg.pacer.mask = false → Faults .yield s 0x0F)

/-- R252 to R254: WFE, HALT and YIELD. -/
def Obligations.WaitHaltYield : Prop := WaitsForEvents ∧ HaltAndYield

/-! ### The Field: configurations, controllers, streams, snapshots -/

/-- R108, R117, R256, R257, R258, R261: CFG.LOAD keeps the block that it read and checked in the slot, resident and not armed, and faults with 0x0F on a slot
that is armed or holds a token; a block that fails a check, or that a port cannot give, leaves the slot empty; that the port's fault is deferred is log 79.
CFG.EVICT ends the block's residency and keeps everything else; CFG.QUERY writes the slot's status. No other slot changes. That the values which wait for the
slot's control ports stay is the model's reading (log 34), and that the slot's configuration leaves the Field is as well (log 66). -/
def Obligations.Configurations : Prop :=
  ∀ s (ca : CReg) (d : XReg) (slot : BitVec 5), let k := slot.toNat; let c := s.rc ca
    k ≤ 7 →
      (∀ s1 b bytes, c.cursor.toNat % 16 = 0 → s.reg.armed k = false → s.reg.slotBusy k = false →
        s.readBlock c = .ok (s1, b, bytes) → blockFault b bytes none = none →
        ∃ t, Completes (.cfgLoad ca slot) s t ∧ s1.inField t ∧
          t.reg.slot k = { Slot.empty with stored := true, store := c, blkid := b.blkid, crc := b.crc, block := some b, ctl := (s1.reg.slot k).ctl } ∧
          (∀ j, j ≠ k → t.reg.slot j = s1.reg.slot j) ∧ t.reg.insts = s1.reg.insts.filter (fun i => i.slot != k)) ∧
      (∀ s1 b bytes f, c.cursor.toNat % 16 = 0 → s.reg.armed k = false → s.reg.slotBusy k = false →
        s.readBlock c = .ok (s1, b, bytes) → blockFault b bytes none = some f → s1.unmasked →
        ∃ t, Completes (.cfgLoad ca slot) s t ∧ (s1.onReg (·.loseSlot k)).entered t f (BitVec.ofNat 64 k) ∧ t.reg.slot k = Slot.empty ∧
          (∀ se < 8, t.reg.engSlot se k = EngSlot.empty) ∧ ∀ j, j ≠ k → t.reg.slot j = s1.reg.slot j) ∧
      (∀ sp ps p f, let u := (s.onReg (·.loseSlot k)).flushFor ps
        c.cursor.toNat % 16 = 0 → s.reg.armed k = false → s.reg.slotBusy k = false → s.readBlock c = .error (f, c.cursor.toNat) →
        (s.onReg (·.loseSlot k)).access c c.cursor.toNat 16 (permLoad + permEngine) kindRead memSpaces .read = .ok (sp, ps) → u.foundAt ps f = some p →
        ∃ t g, Completes (.cfgLoad ca slot) s t ∧ t.reg.slot k = Slot.empty ∧ t.reg.pend = some g ∧ (s.reg.pend = none → g.cause = f) ∧
          t.reg.pacer.pcc = s.reg.pacer.pcc.withCursor s.nextPC) ∧
      (c.cursor.toNat % 16 = 0 → (s.reg.armed k = true ∨ s.reg.slotBusy k = true) → s.unmasked → Faults (.cfgLoad ca slot) s 0x0F) ∧
      (s.reg.inTree k = false → ∃ t, Completes (.cfgEvict slot) s t ∧ s.inField t ∧
        (∀ j, t.reg.slot j = if j = k then { s.reg.slot k with block := none } else s.reg.slot j) ∧ t.reg.insts = s.reg.insts) ∧
      (s.reg.inTree k = true → s.unmasked → Faults (.cfgEvict slot) s 0x0F) ∧
      (∃ t, Completes (.cfgQuery d slot) s t ∧ s.wroteX t d (s.reg.status k) s.nextPC)

/-- R259, R260, R262: CFG.ARM with no node open gives a stored slot that is not armed an arm of X(XA) tiles with P0 and P1 from X(XD); with one open it
becomes a child of the innermost node. It faults with 0x0F on a slot that is not stored or is armed, and with 0x60 and the engine where a shape record
fails its check. CFG.DISARM ends an arm, writes the tiles that it has passed to X(XD), and lets the tokens in the Field be. -/
def Obligations.Arms : Prop :=
  ∀ s (d a : XReg) (slot : BitVec 5), let k := slot.toNat; let n := (s.rx a).toNat
    k ≤ 7 →
      (d ≠ 31 → 1 ≤ n → n < 2 ^ 32 → let p0 := s.rxBlock d 0; let p1 := s.rxBlock d 1
        (s.unmasked → ((s.reg.slot k).stored = false ∨ s.reg.armed k = true) → Faults (.cfgArm d a slot) s 0x0F) ∧
        (∀ b, (s.reg.slot k).stored = true → s.reg.armed k = false → (s.reg.slot k).block = some b →
          (s.reg.ctl.stack = [] →
            (s.reg.armFault k p0 p1 = none → ∃ t x, Completes (.cfgArm d a slot) s t ∧ s.movedOn t ∧ (t.reg.slot k).arm = some x ∧ x.total = n ∧
              x.done = 0 ∧ x.p0 = p0 ∧ x.p1 = p1 ∧ x.tree = false) ∧
            (∀ se, s.reg.armFault k p0 p1 = some se → s.unmasked → ∃ t, Completes (.cfgArm d a slot) s t ∧ s.entered t 0x60 (BitVec.ofNat 64 se))) ∧
          (∀ c, s.reg.ctl.stack ≠ [] → s.reg.ctl.addKid (.arm k n p0 p1) = some c →
            (s.reg.shapeFault k p0 p1 = none → ∃ t, Completes (.cfgArm d a slot) s t ∧ s.inField t ∧ t.reg = { s.reg with ctl := c, pacer := t.reg.pacer }) ∧
            (∀ se, s.reg.shapeFault k p0 p1 = some se → s.unmasked → ∃ t, Completes (.cfgArm d a slot) s t ∧ s.entered t 0x60 (BitVec.ofNat 64 se))))) ∧
      (s.reg.inTree k = false →
        ((s.reg.slot k).arm = none → ∃ t, Completes (.cfgDisarm d slot) s t ∧ s.wroteX t d 0 s.nextPC) ∧
        (∀ x, (s.reg.slot k).arm = some x → ∃ t, Completes (.cfgDisarm d slot) s t ∧ s.here t ∧
          (∀ r, t.rx r = if r = d ∧ d ≠ 0 then BitVec.ofNat 64 x.done else s.rx r) ∧
          (∀ j, t.reg.slot j = if j = k then { s.reg.slot k with arm := none, ebb := true } else s.reg.slot j) ∧
          t.reg.insts = s.reg.insts ∧ t.reg.pacer.pcc = s.reg.pacer.pcc.withCursor s.nextPC))

/-- R262: CTL.SEQ, CTL.PIPE and CTL.STRM open a node of their kind with X(XA) iterations inside the innermost open one; an open node too many faults
with 0x0B. CTL.END closes the innermost: it becomes a child of its parent, or its tree starts to run; with none open it faults with 0x0C. -/
def Obligations.ControllerTree : Prop :=
  (∀ s (a : XReg) (depth : BitVec 5), let n := (s.rx a).toNat; let c := s.reg.ctl
    1 ≤ n → n < 2 ^ 32 →
      (c.stack.length < 8 → (∀ m rest, c.stack = m :: rest → (c.node m).kids.length < 8) →
        let opens := fun (i : Instr) (kind : CtlKind) (dep : Nat) => ∃ t, Completes i s t ∧ s.inField t ∧
          t.reg = { s.reg with pacer := t.reg.pacer, ctl := { c with
            nodes := c.nodes ++ [{ id := c.nextId, kind := kind, depth := dep, iters := n, kids := [] }], stack := c.nextId :: c.stack,
            nextId := c.nextId + 1 } }
        opens (.ctlSeq a) .seq 1 ∧ opens (.ctlStrm a) .strm 1 ∧
          (1 ≤ depth.toNat → depth.toNat ≤ 8 → opens (.ctlPipe a depth) .pipe depth.toNat)) ∧
      (8 ≤ c.stack.length → s.unmasked → Faults (.ctlSeq a) s 0x0B ∧ Faults (.ctlStrm a) s 0x0B ∧
        (1 ≤ depth.toNat → depth.toNat ≤ 8 → Faults (.ctlPipe a depth) s 0x0B))) ∧
  (∀ s n rest, let c := s.reg.ctl
    c.stack = n :: rest → ∃ t, Completes .ctlEnd s t ∧ s.inField t ∧ t.reg.ctl.stack = rest ∧
      (rest = [] → t.reg.ctl.runs = c.runs ++ [{ id := c.nextRun, node := n, parent := none, next := 0, flight := [] }] ∧ t.reg.ctl.nodes = c.nodes) ∧
      (∀ m more, rest = m :: more → t.reg.ctl.runs = c.runs ∧
        ∀ k, ({ c with stack := rest } : Ctl).addKid (.node n) = some k → t.reg.ctl = k)) ∧
  (∀ s, s.reg.ctl.stack = [] → s.unmasked → Faults .ctlEnd s 0x0C)

/-- R263 to R265, R118, R120: STRM.GO gives an engine X(XA) rounds where its command queue has room, and faults with 0x67 where its slot is not armed; STRM.PARM
appends a parameter, INJ a value for a control port, where their queues of 4 have room, and wait otherwise; GETK takes a valid sink register and waits for one
that is not; DRAIN waits until nothing of the slot is left. -/
def Obligations.StreamsAndControl : Prop :=
  (∀ s (se slot : BitVec 5) (a : XReg), let e := se.toNat; let k := slot.toNat; let n := (s.rx a).toNat
    e ≤ 7 → k ≤ 7 → 1 ≤ n → n < 2 ^ 32 →
    (s.reg.armed k = true → s.reg.backs e k = true → (s.reg.engSlot e k).reg.all (·.armOk) = true →
      (∀ en, (s.reg.engine e).command k n = some en → ∃ t, Completes (.strmGo se a slot) s t ∧ s.inField t ∧
        (∀ j, t.reg.engine j = if j = e then en else s.reg.engine j) ∧ t.reg.slots = s.reg.slots ∧ t.reg.insts = s.reg.insts) ∧
      ((s.reg.engine e).command k n = none → s.unmasked → Faults (.strmGo se a slot) s 0x0F)) ∧
    (s.reg.armed k = false → s.unmasked → ∃ t, Completes (.strmGo se a slot) s t ∧ s.entered t 0x67 (BitVec.ofNat 64 e))) ∧
  (∀ s (a b : XReg) (se k f : Nat), se < 8 → k < 8 → f ≤ 4 → (s.rx a).toNat = se + k * 2 ^ 4 + f * 2 ^ 8 → let es := s.reg.engSlot se k
    (es.parms.length < 4 → ∃ t, Completes (.strmParm a b) s t ∧ s.inField t ∧
      t.reg.engSlot se k = { es with parms := es.parms ++ [{ field := f, value := s.rx b, after := es.commanded }] }) ∧
    (4 ≤ es.parms.length → Waits (.strmParm a b) s)) ∧
  (∀ s (port slot : BitVec 5) (a : XReg), port.toNat ≤ 3 → slot.toNat ≤ 7 →
    let sl := s.reg.slot slot.toNat; let q := AMap.findD sl.ctl port.toNat []
    (q.length < 4 → ∃ t, Completes (.inj port a slot) s t ∧ s.inField t ∧
      t.reg.slot slot.toNat = { sl with ctl := AMap.put sl.ctl port.toNat (q ++ [s.rx a]) } ∧ t.reg.insts = s.reg.insts) ∧
    (4 ≤ q.length → Waits (.inj port a slot) s)) ∧
  (∀ s (d : XReg) (k : BitVec 3), let p := s.reg.pacer
    (p.kValid.getLsbD k.toNat = true → ∃ t, Completes (.getk d k) s t ∧ s.inPacer t ∧
      (∀ r, t.rx r = if r = d ∧ d ≠ 0 then p.k[k.toNat]'k.isLt else s.rx r) ∧ t.reg.pacer.k = p.k ∧
      (∀ j < 8, t.reg.pacer.kValid.getLsbD j = (p.kValid.getLsbD j && decide (j ≠ k.toNat)))) ∧
    (p.kValid.getLsbD k.toNat = false → Waits (.getk d k) s)) ∧
  (∀ s (slot : BitVec 5), slot.toNat ≤ 7 → let g := s.reg; let k := slot.toNat
    let ended := (g.slot k).arm = none ∧ g.slotBusy k = false ∧ g.inTree k = false ∧ s.storesDone s.cur k = true
    (ended → ∃ t, Completes (.drain slot) s t ∧ s.jumped t s.nextPC) ∧ (¬ended → Waits (.drain slot) s))

/-- R266, R267: SNAP.MARK of an armed slot starts a snapshot into the buffer at C(CA), and completes at once. SNAP.WAIT completes with a snapshot's outcome,
or, with one pending, at its limit; before that it waits. -/
def Obligations.Snapshots : Prop :=
  (∀ s (ca : CReg) (slot : BitVec 5) s1 b x y, let k := slot.toNat; let c := s.rc ca; let sl := s.reg.slot k
    k ≤ 7 → c.cursor.toNat % 4096 = 0 →
    let span := fun (n : Nat) => s.access c c.cursor.toNat (4096 + n * 17 * 1024) (permStore + permEngine) kindWrite memSpaces Use.store
    span ((sl.block.map (·.elemCount)).getD 0) = .ok x → span b.elemCount = .ok y →
    s.reg.armed k = true → s.reg.snap.status ≠ .pending → s.refetch s.cur k = (s1, true) → (s1.reg.slot k).block = some b →
    Completes (.snapMark ca slot) s (((s1.onReg (·.startSnap k c b)).marks s1.cur 300).advance) ∧
      (s1.reg.startSnap k c b).snap.status = .pending ∧ (s1.reg.startSnap k c b).snap.slot = k ∧ (s1.reg.startSnap k c b).snap.buf = c ∧
      ∀ e p, e < b.elems.length → p ∈ (b.el e).ports → (e, p) ∈ (s1.reg.startSnap k c b).snap.owed) ∧
  (∀ s (d a : XReg) (slot : BitVec 5), slot.toNat ≤ 7 → let st := s.reg.snap.status; let limit := (s.rx a).toNat
    let start := match s.reg.wait with | .snap t => t | _ => s.cyc
    (st ≠ .pending ∨ limit = 0 ∨ limit ≤ s.cyc - start → ∃ t, Completes (.snapWait d a slot) s t ∧ s.here t ∧
      (∀ r, t.rx r = if r = d ∧ d ≠ 0 then (match st with | .done => 0xAE00 | .pending => 1 | .failed => 0x5E02 | .none => 3) else s.rx r) ∧
      t.reg.snap = { s.reg.snap with status := if st = .pending then .pending else .none } ∧ t.reg.wait = .none) ∧
    (¬(st ≠ .pending ∨ limit = 0 ∨ limit ≤ s.cyc - start) →
      ∃ t, Completes (.snapWait d a slot) s t ∧ s.here t ∧ t.reg = { s.reg with wait := .snap start }))

/-! ### The Field: elements, engines, routers, the Starter -/

namespace Sys2Proof.Claims

/-- The steps of the elements that fire within the Field or reach beyond it by one request, with kind and operation (R214). -/
def elemTable : List ((Nat → Instr) × Nat × Nat) :=
  [(.mxMma, 0, 0), (.mxMmaBs, 0, 1), (.mxMmaRc, 0, 2), (.mxMzero, 0, 3), (.mxMdrn, 0, 4), (.vxAdd, 1, 0), (.vxSub, 1, 1), (.vxMul, 1, 2),
   (.vxFma, 1, 3), (.vxMin, 1, 4), (.vxMax, 1, 5), (.vxAbs, 1, 6), (.vxNeg, 1, 7), (.vxCmp, 1, 8), (.vxAnd, 1, 9), (.vxOr, 1, 10),
   (.vxXor, 1, 11), (.vxShl, 1, 12), (.vxShr, 1, 13), (.vxCvt, 1, 14), (.vxAcc, 1, 15), (.vxScan, 1, 16), (.rxRsum, 2, 0), (.rxRmax, 2, 1),
   (.rxRmin, 2, 2), (.rxRargmax, 2, 3), (.rxRsumsq, 2, 4)] ++
  [(.fxExp2, 3, 0), (.fxLog2, 3, 1), (.fxRcp, 3, 2), (.fxRsqrt, 3, 3), (.fxSin, 3, 4), (.fxTanh, 3, 5), (.fxLut, 3, 6), (.qxQuant, 5, 0),
   (.qxDeq, 5, 1), (.qxBscale, 5, 2), (.qxRound, 5, 3), (.dlDelay, 6, 0), (.dlPrime, 6, 1), (.pmTrans, 7, 0), (.pmBcast, 7, 1), (.pmShuf, 7, 2),
   (.pmPack, 7, 3), (.pmUnpack, 7, 4), (.smSel, 8, 0), (.smMerge, 8, 1), (.smSplit, 8, 2), (.smFilter, 8, 3), (.smConst, 8, 4),
   (.rnRngBits, 9, 0), (.rnRngBern, 9, 1), (.gtEntry, 10, 0), (.gtExit, 10, 1), (.gtBound, 10, 2), (.gtAcq, 10, 3), (.ptCtlin, 11, 0),
   (.ptSink, 11, 1), (.ptEreq, 11, 2), (.ptErsp, 11, 3), (.ptTrig, 11, 4)]

/-- The steps of the address generators, with their operations (R214). -/
def agTable : List ((Nat → Bool → Instr) × Nat) := [(.agRd, 0), (.agWr, 1), (.agRdfe, 2), (.agGather, 3), (.agRing, 4), (.agSurv, 5)]

/-- INT32 operations of VX on two values, with the results that wrap modulo 2^32 (R305). -/
def vxIntTable : List (Nat × (Nat → Nat → Nat)) :=
  [(0, fun x y => (x + y) % 2 ^ 32), (1, fun x y => (x + 2 ^ 32 - y) % 2 ^ 32), (2, fun x y => x * y % 2 ^ 32), (9, fun x y => x &&& y),
   (10, fun x y => x ||| y), (11, fun x y => x ^^^ y), (12, fun x y => x * 2 ^ (y % 32) % 2 ^ 32)]

end Sys2Proof.Claims

/-- R101, R102, R295: in a Field that is not frozen and meets no marker, the step of an element that can fire in the oldest configuration makes its
firing, with those that must fire with it, and nothing else; one whose tokens raise a runtime fault makes that fault pending, with the
element and slot in TVAL, and freezes the Field. -/
def Sys2Proof.Claims.ElementsFire : Prop :=
  ∀ p ∈ elemTable, ∀ s e i rest, s.reg.frozen = false → s.reg.snap.owed = [] → s.reg.insts = i :: rest → e < i.block.elems.length →
    (i.block.el e).kind = p.2.1 → (i.block.el e).op = p.2.2 →
    (∀ ps, s.firing s.cur i e none = .ok (some ps) → Completes (p.1 e) s (s.commit s.cur i ps)) ∧
    (∀ x c, s.firing s.cur i e none = .error (x, c) → ∃ t, Completes (p.1 e) s t ∧ s.fieldFaulted t c (BitVec.ofNat 64 (x + i.slot * 256)))

/-- R127: a Field that is frozen since an earlier fc starts no firing: the step of an element that meets no marker changes nothing. -/
def Sys2Proof.Claims.FrozenFieldRests : Prop :=
  ∀ p ∈ elemTable, ∀ s e, s.reg.frozen = true → s.reg.frozeAt ≠ some s.now → s.reg.snap.owed = [] → Completes (p.1 e) s s

/-- R101, R102, R127, R295: when the step of an element fires, and that a frozen Field starts no firing. -/
def Obligations.FieldFirings : Prop := ElementsFire ∧ FrozenFieldRests

/-- R305, R309: a firing into the first stage of a VX with a word of INT32 or UINT32 values reads the tokens of both ports and makes one token, whose values are
the wrapped sums, differences, products, bitwise results and shifts, whose predicate is the AND of both, and which carries their END. -/
def Sys2Proof.Claims.VectorIntegers : Prop :=
  ∀ p ∈ vxIntTable, ∀ (w : ElemWord) (inp : Inputs) (st : ElemSt) (a b : Token), w.kind = 1 → w.op = p.1 → w.ports = [0, 1] → 2 ≤ w.vtype → w.m 4 1 = 0 →
    inp 0 = some a → inp 1 = some b → b.last = a.last → a.live.length = a.vals.length → b.live.length = a.vals.length →
    (∀ i, a.val i < 2 ^ 32 ∧ b.val i < 2 ^ 32) →
    ∃ f t, vxMap w inp st = [.ok f] ∧ f.reads = [0, 1] ∧ f.o0 = some t ∧ f.o1 = none ∧ t.last = a.last ∧ t.vals.length = a.vals.length ∧
      ∀ i < a.vals.length, t.val i = p.2 (a.val i) (b.val i) ∧ t.liveAt i = (a.liveAt i && b.liveAt i)

/-- R329, R326: SEL passes, value by value, port 0's value where port 2's is not zero and port 1's where it is, live where the value and the choice
are; a DL that holds no token takes a token of port 0 in and emits nothing. -/
def Sys2Proof.Claims.SelectAndDelay : Prop :=
  (∀ (inp : Inputs) (st : ElemSt) (a b c : Token), inp 0 = some a → inp 1 = some b → inp 2 = some c → b.last = a.last → c.last = a.last →
    ∃ f t, smSelOp inp st = [.ok f] ∧ f.reads = [0, 1, 2] ∧ f.o0 = some t ∧ t.last = a.last ∧
      ∀ i < a.vals.length, t.val i = (if c.val i ≠ 0 then a else b).val i ∧
        t.liveAt i = ((if c.val i ≠ 0 then a else b).liveAt i && c.liveAt i)) ∧
  (∀ (w : ElemWord) (inp : Inputs) (st : ElemSt) (a : Token), w.op = 0 → st.out0 = [] → inp 0 = some a →
    dlOp w inp st = [.ok { reads := [0], st := { st with out0 := [a] }, o0 := none, o1 := none }])

/-- R305, R326, R329: the tokens of integer VX operations, of SEL and of DL. -/
def Obligations.TokenOperations : Prop := VectorIntegers ∧ SelectAndDelay

/-- R115, R318 to R321: an engine's step reads the next token of its round where the operation is its own and the entry queue has a place; the Field's
step of its element passes a token between the engine and the Field where the element can fire. -/
def Obligations.AddressGenerators : Prop :=
  ∀ p ∈ agTable, ∀ s se, s.reg.frozen = false → s.reg.snap.owed = [] →
    (s.engineRead s.cur se p.2 ≠ s → Completes (p.1 se true) s (s.engineRead s.cur se p.2)) ∧
    (∀ e i rest ps, s.reg.insts = i :: rest → i.agOf se p.2 = some e →
      (s.firing s.cur i e (some true) = .ok (some ps) → Completes (p.1 se false) s (s.commit s.cur i ps)) ∧
      (s.firing s.cur i e (some false) = .ok (some ps) → s.engineRead s.cur se p.2 = s → Completes (p.1 se true) s (s.commit s.cur i ps)))

namespace Sys2Proof.Claims

/-- Requests qs of engine se for slot k enter CQ behind every earlier request, with these keys and effects; memory, the Pacer and the other regions
stay (R115, R165). -/
def engineSends (s t : State) (k se : Nat) (qs : List Req) (acts : List (Nat × Act)) : Prop :=
  t.reqs = s.reqs ++ qs ∧
    qs.map (fun q => (q.issuer, q.stage, q.key, q.act)) = acts.map (fun a => (Issuer.engine s.cur k se, Stage.cq s.cur k se, a.1, a.2)) ∧
    t.reg.pacer = s.reg.pacer ∧ t.mem = s.mem ∧ ∀ r, r ≠ s.cur → t.region r = s.region r

/-- The stores of a token's bytes, one for each granule that has a live one (R318). -/
def laneStores (fe : FeAct) : List Piece → List (Byte × Byte) → List (Nat × Act)
  | [], _ => []
  | p :: ps, bs => (if (bs.take p.size).any (fun b => b.2 != 0) then [(p.key, .write (bs.take p.size) fe)] else []) ++ laneStores fe ps (bs.drop p.size)

/-- A read of a granule as a round's act asks for it (R318, R319). -/
def granuleRead (act : Act) (p : Piece) : Nat × Act := (p.key, match act with | .readFe _ take => .readFe p.size take | _ => .read p.size)

/-- R115, R165, R318 to R321: the engine of an AG RD, RDFE or RING reads token i of its round by one request for each granule of the 256 bytes at the
token's address, an empty granule being waited for or taken as the operation and its mode say, keeps the token's place, and comes to token i + 1; that of a
GATHER or SURV reads the next token of a row that its indices or positions have given. -/
def EngineReads : Prop :=
  ∀ (s : State) se rd, let e := s.reg.engine se
    s.reg.frozen = false → s.reg.snap.owed = [] → e.round = some rd → rd.look = none → e.place rd.slot = true → rd.reg.writes = false →
    let keeps := fun (t : State) (qs : List Req) (rd' : Round) => (t.reg.engine se).round = some rd' ∧ (t.reg.engine se).fetches =
      e.fetches ++ [{ slot := rd.slot, ids := qs.map (·.stamp), got := [], zero := false, last := false, mfmt := rd.reg.mfmt }]
    (∀ p ∈ [(Instr.agRd, 0), (.agRdfe, 2), (.agRing, 4)], ∀ ps, let (perms, act) := rd.reg.readPerms rd.i
      rd.reg.op = p.2 → rd.i + 1 ≠ rd.reg.count → s.engPieces s.cur rd.reg.cap (rd.reg.addr rd.i) 256 perms kindRead engSpaces .read = .ok ps → ps ≠ [] →
      ∃ t qs, Completes (p.1 se true) s t ∧ engineSends s t rd.slot se qs (ps.map (granuleRead act)) ∧ keeps t qs { rd with i := rd.i + 1 }) ∧
    (∀ p ∈ [(Instr.agGather, 3, permLoad + permEngine), (.agSurv, 5, permLoad)], ∀ (a : Word) cap rest ps,
      rd.reg.op = p.2.1 → rd.todo = (some (a, cap), false) :: rest → s.engPieces s.cur cap a.toNat 256 p.2.2 kindRead engSpaces .read = .ok ps → ps ≠ [] →
      ∃ t qs, Completes (p.1 se true) s t ∧ engineSends s t rd.slot se qs (ps.map (granuleRead (.read 16))) ∧ keeps t qs { rd with todo := rest })

/-- R115, R165, R318, R319, R321: an AG WR, RING or SURV that stores takes the token at its data port and issues one store for each granule that has a live
byte of it, which sets the granule full, or waits for an empty one under RING WAIT; the round comes to its next token and counts its stores. -/
def EngineStores : Prop :=
  ∀ p ∈ [(Instr.agWr, 1, 0), (.agRing, 4, 0), (.agSurv, 5, 2)], ∀ (s : State) se i e l tok rd ps, let op := p.2.1; let port := p.2.2; let w := i.block.el e
    s.reg.frozen = false → s.reg.snap.owed = [] → s.reg.snap.status ≠ .pending → s.reg.insts = [i] → i.agOf se op = some e → w.agWrite = true →
    (i.el e).taken = true → (i.el e).out0 = [] → (∀ m ∈ i.links, m.direct = true → m.src ≠ e ∧ m.dst ≠ e) → i.inLink e port = some l → l.head = some tok →
    (s.reg.engine se).round = some rd → rd.slot = i.slot → rd.reg.op = op →
    let stores := laneStores (if rd.reg.wait then .waitEmpty else .setFull) ps (tokenBytes rd.reg.mfmt tok)
    (op ≠ 5 → rd.i + 1 ≠ rd.reg.count →
      s.engPieces s.cur rd.reg.cap (rd.reg.addr rd.i) 256 (permStore + permEngine) kindWrite engSpaces .store = .ok ps →
      ∃ t qs, Completes (p.1 se false) s t ∧ engineSends s t i.slot se qs stores ∧
        (t.reg.engine se).round = some { rd with i := rd.i + 1, stores := rd.stores + stores.length }) ∧
    (∀ (a : Word) cap rest, op = 5 → rd.todo = (some (a, cap), false) :: rest →
      s.engPieces s.cur cap a.toNat 256 permStore kindWrite engSpaces .store = .ok ps →
      ∃ t qs, Completes (p.1 se false) s t ∧ engineSends s t i.slot se qs stores ∧
        (t.reg.engine se).round = some { rd with todo := rest, stores := rd.stores + stores.length })

end Sys2Proof.Claims

/-- R115, R165, R318 to R321: what the engines of the address generators request: reads of RD, RDFE, RING, GATHER and SURV, and stores of WR, RING and
SURV. -/
def Obligations.AddressGeneratorReads : Prop := EngineReads ∧ EngineStores

/-- R103, R115, R317: ROUTER_MOVE moves a finished token of the link into a free slot; ROUND_START begins the next commanded round with its due
parameters, or raises 0x61 where a checked field is invalid. A frozen Field does neither. -/
def Obligations.RoutersAndRounds : Prop :=
  (∀ s n i rest t b, s.reg.frozen = false → s.reg.insts = i :: rest → (h : n < i.links.length) → i.links[n].buf = t :: b →
    let l := i.links[n]
    l.q.length < l.slots → ∃ u, Completes (.routerMove n) s u ∧ s.here u ∧
      let ls := i.links.set n { l with q := l.q ++ [{ t with stamp := s.stamp }], buf := b }
      u.reg = { s.reg with insts := { i with links := ls } :: rest }) ∧
  (∀ s n, s.reg.frozen = true → Completes (.routerMove n) s s ∧ Completes (.roundStart n) s s) ∧
  (∀ s se k n rest reg, let e := s.reg.engine se; let es := e.slot k; let due := es.parms.takeWhile (fun p => p.after ≤ es.started)
    s.reg.frozen = false → e.round = none → e.cmds = (k, n) :: rest → es.reg = some reg →
    ((due.foldl RoundReg.take reg).startOk = true → ∃ u, Completes (.roundStart se) s u ∧ s.here u ∧
      (u.reg.engine se).round = some { slot := k, reg := due.foldl RoundReg.take reg, i := 0, todo := [], look := none, stores := 0, ended := false } ∧
      (u.reg.engine se).cmds = (if n ≤ 1 then rest else (k, n - 1) :: rest) ∧ u.reg.slots = s.reg.slots ∧ u.reg.insts = s.reg.insts ∧
      u.reg.pacer = s.reg.pacer ∧ ∀ j, j ≠ se → u.reg.engine j = s.reg.engine j) ∧
    ((due.foldl RoundReg.take reg).startOk = false → ∃ u, Completes (.roundStart se) s u ∧ s.fieldFaulted u 0x61 (BitVec.ofNat 64 se)))

/-- R111, R113, R114: at a moment of decision the Starter chooses a slot, which runs after the decision, with its passed-over count zero; an arm that has
expired is decided upon once, and then only in an idle Field (log 34); a wave gives an element of the incoming configuration its word once the old
configurations are gone and a neighbour holds its own. -/
def Obligations.StarterAndWave : Prop :=
  (∀ s k b a, let g := s.reg.sweep
    s.reg.frozen = false → g.moment = true → g.choose g.candidates = some k → (g.slot k).block = some b → (g.slot k).arm = some a →
    ∃ t, Completes .starterDecision s t ∧ s.here t ∧ (t.reg.running.map (·.slot)) = some k ∧ (t.reg.slot k).passed = 0 ∧
      (∀ j, (t.reg.slot j).block = (s.reg.slot j).block ∧ (t.reg.slot j).arm = (s.reg.slot j).arm.map (fun x =>
        if (g.running.map (·.slot)) = some j ∧ x.total ≤ x.done then { x with decided := true } else x)) ∧ t.reg.pacer = s.reg.pacer) ∧
  (∀ s i a, s.reg.frozen = false → s.reg.running = some i → (∀ o ∈ s.reg.insts, o.closed = false) → (s.reg.slot i.slot).arm = some a → a.total ≤ a.done →
    a.decided = true → i.busy = true → Completes .starterDecision s s) ∧
  (∀ s e i, s.reg.frozen = false → s.reg.running = some i → (∀ o ∈ s.reg.insts, o.closed = false) → e < i.elems.length → (i.el e).taken = false →
    (∃ l ∈ i.links, l.dst = e ∧ (i.el l.src).taken = true) →
    ∃ t j, Completes (.reconfigurationWave e) s t ∧ s.here t ∧ t.reg.running = some j ∧ j.slot = i.slot ∧ (j.el e).taken = true ∧
      (∀ x, x ≠ e → j.el x = i.el x) ∧ t.reg.slots = s.reg.slots ∧ t.reg.pacer = s.reg.pacer)

/-- R108, R112: a soft error in the cache ends a block's residency and nothing else; a waiting token of a slot that is not resident makes the cache read and
check its block again. -/
def Obligations.ConfigurationCache : Prop :=
  (∀ s k, (AMap.find s.reg.slots k).isSome = true → ∃ t, Completes (.cacheSoftError k) s t ∧ s.here t ∧
    ({ t.reg with slots := s.reg.slots } : Region) = s.reg ∧
    ∀ j, t.reg.slot j = if j = k then { s.reg.slot k with block := none } else s.reg.slot j) ∧
  (∀ s k s1 b bytes, s.reg.frozen = false → (∃ se < 8, (s.reg.engine se).waiting k = true) → (s.reg.slot k).block = none →
    (s.reg.slot k).stored = true → s.readBlock (s.reg.slot k).store = .ok (s1, b, bytes) →
    blockFault b bytes (some ((s.reg.slot k).blkid, (s.reg.slot k).crc)) = none →
    ∃ t, Completes (.configRefetch k) s t ∧ t = s1.onRegion s.cur (fun g => g.setSlot k { g.slot k with block := some b }))

/-- R72, R111, R119, R252: at an arm's boundary the slot has no arm any more and bit 1 of EV is set; an arm that the controller made ends its child. Without
a pending cancel nothing else changes. The step is a cancellation point: a task with a running cancel pending stops there in all its regions, to end
cancelled at an arm boundary, and stays CANCELLING until its stores have reached their ports. When an arm is over rests on log 34. -/
def Obligations.ArmBoundary : Prop :=
  ∀ s k, s.reg.frozen = false → s.armOver s.cur k = true →
    let b := s.onReg (fun g => { g.setSlot k { g.slot k with arm := none } with
      ctl := if (g.slot k).arm.any (·.tree) then g.ctl.armEnded k else g.ctl, pacer := { g.pacer with ev := g.pacer.ev ||| 2 } })
    (s.cancelPending s.cur = false → ∃ t, Completes (.armBoundary k) s t ∧ s.here t ∧
      (∀ j, t.reg.slot j = if j = k then { s.reg.slot k with arm := none } else s.reg.slot j) ∧
      t.reg = { s.reg with slots := t.reg.slots, pacer := { s.reg.pacer with ev := s.reg.pacer.ev ||| 2 },
                           ctl := if (s.reg.slot k).arm.any (·.tree) then s.reg.ctl.armEnded k else s.reg.ctl }) ∧
    (∀ id w, s.reg.task = some id → s.task id = some w → w.cancel = true → w.fate = 0 →
      Completes (.armBoundary k) s (b.endSoon id 4 0) ∧
      (∀ r ∈ w.members, s.settled r = false → let t := b.endSoon id 4 0
        (∀ m ∈ w.members, (t.region m).run = .stopped ∧ (t.region m).frozen = true ∧ (t.region m).stop = none) ∧
        ∃ x, t.task id = some x ∧ x.fate = 4 ∧ x.st = if w.st = .running then .cancelling else w.st))

/-- R119, R262: a run of the controller without an iteration in flight starts its next one, with every child waiting; one that has had all its iterations
ends, and with the last run of a whole tree the tree is gone. -/
def Obligations.ControllerRuns : Prop :=
  ∀ s x, let c := s.reg.ctl; let n := c.node x.node
    s.reg.frozen = false → c.runs = [x] → x.flight = [] → n.kids ≠ [] →
    (x.next < n.iters → (n.kind = .pipe → 0 < n.depth) → ∃ t, Completes .controllerIteration s t ∧ s.here t ∧
      t.reg = { s.reg with ctl := { c with runs := [{ x with flight := [(x.next, n.kids.map (fun _ => KidSt.waiting))], next := x.next + 1 }] } }) ∧
    (n.iters ≤ x.next → x.parent = none → c.stack = [] → ∃ t, Completes .controllerIteration s t ∧ s.here t ∧
      t.reg = { s.reg with ctl := { c with runs := [], nodes := [] } })

/-- R131, R135: a marker that stands before an input is met there: the input owes none any more, and the element's state at its first marker is recorded. In a
frozen Field none is met. -/
def Obligations.SplitMarkers : Prop :=
  (∀ s e p, s.reg.frozen = true → Completes (.splitMarker e p) s s) ∧
  ∀ s e p i l, s.reg.frozen = false → s.reg.snap.status = .pending → (e, p) ∈ s.reg.snap.owed → p ≠ 8 → s.reg.insts.find? (fun i => i.slot == s.reg.snap.slot) = some i →
    i.inLink e p = some l → l.mark = some 0 →
    ∃ t, Completes (.splitMarker e p) s t ∧ (∀ o, o ∈ t.reg.snap.owed ↔ o ∈ s.reg.snap.owed ∧ o ≠ (e, p)) ∧
      AMap.find t.reg.snap.recorded e = some ((AMap.find s.reg.snap.recorded e).getD (i.el e)) ∧ t.reg.pacer = s.reg.pacer

/-! ### Loads, atomics and sync objects, through the ordering machine -/

namespace Sys2Proof.Claims

/-- A sequence of completed steps. -/
def Runs : State → List Instr → State → Prop
  | s, [], t => t = s
  | s, i :: is, t => ∃ u, Completes i s u ∧ Runs u is t

/-- An instruction with one request to port p, and the way of the request: RQ, DQ, its port, and back (R165, R167). -/
def settles (s : State) (p : Port) (i : Instr) (t : State) : Prop := Runs s [i, .pass .rq 0 p, .pass .dq (dieOf s.cur) p, .apply p, .ret 0] t

/-- A port that the region reaches, with sound data at the piece (R122, R130). -/
def reachable (s : State) (p : Piece) : Prop :=
  portOf p.key ≠ .aperture ∧ s.portFault (some (dieOf s.cur)) (portOf p.key) = none ∧ s.anyBad p.key p.size = false ∧
    s.anyBadMeta p.key p.size = false

/-- The ordering machine is empty, memory is canonical and no queue, declaration or group watches it. -/
def quiet (s : State) : Prop :=
  s.reqs = [] ∧ s.resps = [] ∧ s.dropped = [] ∧ s.queues = [] ∧ s.decls = [] ∧ s.groups = [] ∧ s.batons = [] ∧ Memory.wf s.mem = true

/-- After an instruction that came back with v for X(d): the register, the PC, an empty ordering machine, no wait. -/
def came (s t : State) (d : XReg) (v : Word) : Prop :=
  (∀ r, t.rx r = if r = d ∧ d ≠ 0 then v else s.rx r) ∧ t.reg.pacer.pcc = s.reg.pacer.pcc.withCursor s.nextPC ∧ t.reg.wait = .none ∧
    t.reqs = [] ∧ t.resps = []

/-- AMO instructions with their operations (R274). -/
def amoTable : List ((XReg → CReg → XReg → BitVec 3 → BitVec 2 → Instr) × AmoOp) :=
  [(.amoAdd, .add), (.amoAnd, .and), (.amoOr, .or), (.amoXor, .xor), (.amoMin, .min), (.amoMax, .max), (.amoSwap, .swap), (.amoCas, .cas)]

/-- RED instructions with their operations (R275). -/
def redTable : List ((BitVec 5 → CReg → XReg → BitVec 3 → BitVec 2 → Instr) × RedOp) :=
  [(.redFadd, .fadd), (.redFmax, .fmax), (.redFmin, .fmin), (.redIadd, .iadd)]

/-- The word that an atomic leaves for the old word w, the operand v and, for CAS, the compared value (R274). -/
def amoResult (op : AmoOp) (w v cmp : Word) : Word :=
  match op with
  | .add => w + v
  | .and => w &&& v
  | .or => w ||| v
  | .xor => w ^^^ v
  | .min => if w.toInt < v.toInt then w else v
  | .max => if w.toInt < v.toInt then v else w
  | .swap => v
  | .cas => if w = cmp then v else w

end Sys2Proof.Claims

/-- R167, R235, R237 to R240: with an empty ordering machine LD, LDQ, LDFE on a full granule and CLD of one granule complete in five steps: the value at the
address reaches the register, execution continues at NextPC, and no byte of memory changes; LDFE.TAKE leaves the granule empty. -/
def Obligations.LoadsComplete : Prop :=
  ∀ s (d : XReg) (cb cd : CReg) (xi : XReg) (off : BitVec 8) (u : BitVec 1) (sz : BitVec 2) sp p, quiet s → sp ≠ 7 → reachable s p →
    let c := s.rc cb; let n := 2 ^ sz.toNat; let a := s.memAddr cb xi off n; let b := s.memAddr cb xi off 16
    (s.access c a.toNat n permLoad kindRead loadSpaces .read = .ok (sp, [p]) →
      ∃ t, settles s (portOf p.key) (.ld d cb xi off u sz) t ∧ came s t d (loaded (s.rd p.key p.size) n (u == 0)) ∧ t.mem = s.mem) ∧
    (s.access c b.toNat 16 permLoad kindRead loadSpaces .read = .ok (sp, [p]) → p.size = 16 → d.getLsbD 0 = false →
      ∃ t, settles s (portOf p.key) (.ldq d cb xi off) t ∧ t.mem = s.mem ∧ t.reg.pacer.pcc = s.reg.pacer.pcc.withCursor s.nextPC ∧
        (∀ r, t.rx r = if r = d ∧ d ≠ 0 then loaded (s.rd p.key p.size) 8 false
          else if r = d + 1 then loaded ((s.rd p.key p.size).drop 8) 8 false else s.rx r)) ∧
    (a.toNat % n = 0 → s.liveAt p.key = false → s.fullAt p.key = true →
      (s.access c a.toNat n permLoad kindRead [1, 2] .read = .ok (sp, [p]) →
        ∃ t, settles s (portOf p.key) (.ldfeWait d cb xi off sz) t ∧ came s t d (loaded (s.rd p.key p.size) n false) ∧ t.mem = s.mem ∧
          t.full = s.full) ∧
      (s.access c a.toNat n (permLoad + permStore) kindAtomic [1, 2] .store = .ok (sp, [p]) →
        ∃ t, settles s (portOf p.key) (.ldfeTake d cb xi off sz) t ∧ came s t d (loaded (s.rd p.key p.size) n false) ∧ t.mem = s.mem ∧
          t.full = NSet.del s.full (p.key / 16))) ∧
    (b.toNat % 16 = 0 → s.access c b.toNat 16 permLoad kindRead [1, 2, 3, 4, 5, 7] .read = .ok (sp, [p]) → p.size = 16 →
      ∃ t, settles s (portOf p.key) (.cld cd cb xi off) t ∧ t.mem = s.mem ∧ t.tags = s.tags ∧
        t.reg.pacer.pcc = s.reg.pacer.pcc.withCursor s.nextPC ∧
        (∀ r, t.rc r = if r = cd ∧ cd ≠ 0 then
          Cap.ofBytes (s.rd p.key 16) (c.has permTgload && (isSram p.key || isHbm p.key) && s.tagAt p.key) else s.rc r))

/-- R148, R167, R256, R274: with an empty ordering machine an AMO on a word that its port accepts completes in five steps: the word at its address
becomes the operation's result, X(XD) takes the old word, and every other byte of memory reads as before. -/
def Obligations.AtomicsComplete : Prop :=
  ∀ q ∈ amoTable, ∀ s (d : XReg) (ca : CReg) (b : XReg) (sc : BitVec 3) (ok : BitVec 2) sp p, quiet s → reachable s p → p.size = 8 →
    let a := (s.rc ca).cursor; let w := BitVec.ofNat 64 (s.rdWord p.key); let v := amoResult q.2 w (s.rx b) (s.rx d)
    qualOk sc ok [0, 1, 2, 3] = true → a.toNat % 8 = 0 → s.access (s.rc ca) a.toNat 8 permAtomic kindAtomic (amoSpaces q.2) .store = .ok (sp, [p]) →
    s.refuses p.key (plain (leBytes 8 v.toNat)) p.cmpr 2 = none →
    ∃ t, settles s (portOf p.key) (q.1 d ca b sc ok) t ∧ came s t d w ∧ t.rdWord p.key = v.toNat ∧
      ∀ k, ¬(p.key ≤ k ∧ k < p.key + 8) → Memory.get t.mem k = Memory.get s.mem k

/-- R165, R170, R201, R236, R275 to R277: a RED whose checks pass completes once its one request enters RQ: an .any reduction, or an .ord one with its RANK
and N. A WRED contributes to its window: the request waits at RP with the issuer's rank and the element. No byte of memory changes at once. -/
def Sys2Proof.Claims.ReductionsIssue : Prop :=
  (∀ q ∈ redTable, ∀ s (mode : BitVec 5) (ca : CReg) (b : XReg) (sc : BitVec 3) (ok : BitVec 2) sp ps,
    let a := (s.rc ca).cursor; let any := mode.getLsbD 3; let n := redSize q.2 mode; let place := (s.rx (b + 1)).toNat
    qualOk sc ok [0, 2] = true → (q.2 = .iadd → mode.setWidth 3 = 0#3) → (any = false → b ≠ 31 ∧ ordOk place = true) → a.toNat % n = 0 →
    s.qualReleased sc ok = true →
    s.access (s.rc ca) a.toNat n permAtomic kindAtomic [1, 2, 3, 5] (if any then Use.redAny else Use.store) = .ok (sp, ps) →
    ∃ t, Completes (q.1 mode ca b sc ok) s t ∧ s.sends t ps (ps.map (fun _ =>
      if any then Act.red q.2 n (mode.setWidth 3) (s.rx b) else .redOrd q.2 n (mode.setWidth 3) (s.rx b) (place % 64) (place / 2 ^ 16 % 64 + 1)))) ∧
  (∀ s (mode : BitVec 3) (ca : CReg) (b : XReg) (sc : BitVec 3) (ok : BitVec 2) x w rank, let a := (s.rc ca).cursor; let e := x % 2 ^ 24 / 4
    qualOk sc ok [0, 2] = true → a.toNat % 4 = 0 → (s.rc ca).check a.toNat 4 permAtomic kindAtomic = .ok (6, x) → s.windowAt x = some w →
    w.ranks.find? (fun r => r.1 == (s.comm.rank, s.cur)) = some ((s.comm.rank, s.cur), rank) → e < w.elems → mode = w.rmode →
    s.qualReleased sc ok = true → s.rpFault = none →
    ∃ t q, Completes (.wred mode ca b sc ok) s t ∧ t.reqs = s.reqs ++ [q] ∧ q.issuer = .pacer s.cur ∧ q.stage = .rp (x / 2 ^ 24) ∧
      q.act = .wred rank e (s.rx b) ∧ t.mem = s.mem ∧ t.reg.pacer = { s.reg.pacer with pcc := s.reg.pacer.pcc.withCursor s.nextPC })

/-- R165, R236, R278 to R281: BAR.INIT, BAR.DROP and BATON.FREE, where their checks pass, complete once their one request enters RQ. BAR.INIT of 0 or more than
2^31 − 1 participants, and a BATON.ALLOC of a scope above SYS, fault. -/
def Sys2Proof.Claims.SyncIssues : Prop :=
  ∀ s (ca : CReg) (b d : XReg) (sc : BitVec 3) (ok : BitVec 2) sp ps, let a := (s.rc ca).cursor; let n := (s.rx b).toNat
    a.toNat % 16 = 0 → s.access (s.rc ca) a.toNat 16 permAtomic kindAtomic memSpaces .store = .ok (sp, ps) →
    (1 ≤ n → n < 2 ^ 31 → ∃ t, Completes (.barInit ca b) s t ∧ s.sends t ps (ps.map (fun _ => .barInit n))) ∧
    (qualOk sc ok [0, 2] = true → s.qualReleased sc ok = true → ∃ t, Completes (.barDrop ca sc ok) s t ∧ s.sends t ps (ps.map (fun _ => .barDrop))) ∧
    (∃ t, Completes (.batonFree ca) s t ∧ s.sends t ps (ps.map (fun _ => .batonFree s.cur s.taskid))) ∧
    (s.unmasked → ¬(1 ≤ n ∧ n < 2 ^ 31) → Faults (.barInit ca b) s 0x0E) ∧
    (s.unmasked → 4 < sc.toNat → Faults (.batonAlloc d ca sc) s 0x03)

/-- R165, R236, R275 to R281: reductions and sync instructions that complete once their request is on its way. -/
def Obligations.ReductionAndSyncIssues : Prop := ReductionsIssue ∧ SyncIssues

/-- R177, R256, R278 to R282: with an empty ordering machine, on an SRAM or HBM granule of the right kind: BAR.ARRIVE adds its arrivals, or ends the phase
with GEN raised, and returns the GEN before; BAR.WAIT returns the word whose GEN differs; BATON.ALLOC makes a free slot a baton; BATON.ACQ takes a baton that
no one holds; BATON.REL of its holder frees it; WAITV returns a word that differs. Each is one transaction on its granule. -/
def Sys2Proof.Claims.SyncCompletes : Prop :=
  ∀ s (ca : CReg) (b d : XReg) (sc : BitVec 3) (ok : BitVec 2) sp p, let a := (s.rc ca).cursor; let k := p.key; let w0 := s.w0 k; let w1 := s.w1 k
    quiet s → reachable s p → p.size = 16 → k % 16 = 0 → a.toNat % 16 = 0 →
    s.access (s.rc ca) a.toNat 16 permAtomic kindAtomic memSpaces .store = .ok (sp, [p]) → (s.merges k 16 p.cmpr && s.blockBad k) = false →
    let arrivals := if b = 0 then 1 else (s.rx b).toNat
    (qualOk sc ok [0, 2] = true → s.isBarrier k = true → barArrived w0 + arrivals < barCount w0 →
      ∃ t, settles s (portOf k) (.barArrive d ca b sc ok) t ∧ came s t d (BitVec.ofNat 64 (w1 % 2 ^ 32)) ∧
        t.w0 k = (barArrived w0 + arrivals) * 2 ^ 32 + barCount w0 ∧ t.w1 k = w1) ∧
    (qualOk sc ok [0, 2] = true → s.isBarrier k = true → barArrived w0 + arrivals = barCount w0 →
      ∃ t, settles s (portOf k) (.barArrive d ca b sc ok) t ∧ came s t d (BitVec.ofNat 64 (w1 % 2 ^ 32)) ∧ t.w0 k = barCount w0 ∧
        t.w1 k % 2 ^ 32 = (w1 + 1) % 2 ^ 32 ∧ t.w1 k / 2 ^ 32 = w1 / 2 ^ 32) ∧
    (s.isBarrier k = true → w1 % 2 ^ 32 ≠ (s.rx b).toNat →
      ∃ t, settles s (portOf k) (.barWait d ca b) t ∧ came s t d (BitVec.ofNat 64 w1) ∧ t.mem = s.mem) ∧
    (sc.toNat ≤ 4 → s.liveAt k = false →
      ∃ t, settles s (portOf k) (.batonAlloc d ca sc) t ∧ came s t d 0 ∧ t.w0 k = 0 ∧ t.w1 k = 2 * 2 ^ 56 + sc.toNat * 2 ^ 32 ∧ t.liveAt k = true) ∧
    (s.batonFault k = none → batonHeld w0 = false →
      ∃ t, settles s (portOf k) (.batonAcq ca) t ∧ came s t 0 0 ∧ t.w0 k = batonWord0 s.cur s.taskid ∧ t.w1 k = w1) ∧
    (s.batonFault k = none → w0 = batonWord0 s.cur s.taskid →
      ∃ t, Completes (.batonRel ca) s t ∧ t.w0 k = 0 ∧ t.w1 k = w1 ∧ t.reg.pacer = { s.reg.pacer with pcc := s.reg.pacer.pcc.withCursor s.nextPC }) ∧
    (∀ q, s.access (s.rc ca) a.toNat 8 permLoad kindRead memSpaces .read = .ok (sp, [q]) → reachable s q → s.liveAt q.key = false → q.size = 8 →
      s.rdWord q.key ≠ (s.rx b).toNat →
      ∃ t, settles s (portOf q.key) (.waitv d ca b) t ∧ came s t d (BitVec.ofNat 64 (s.rdWord q.key)) ∧ t.mem = s.mem)

/-- R177, R282: a WAITV whose word has the value arms the monitor of its granule, and a write that its port applies there lets the Pacer run again. -/
def Sys2Proof.Claims.MonitoredWaits : Prop :=
  (∀ (s : State) (q : Req) r v, q.act = .waitv v → q.issuer = .pacer r → s.liveAt q.key = false → s.anyBadMeta q.key 8 = false → s.anyBad q.key 8 = false → s.rdWord q.key = v.toNat →
    ∃ t, s.applyAct q = some t ∧ (t.region r).wait = .monitor (q.key / 16) ∧ t.mem = s.mem ∧ ∀ j, j ≠ r → t.region j = s.region j) ∧
  (∀ (s : State) k (bs : List Byte) c r g, g ∈ granulesOf k bs.length → (s.region r).wait = .monitor g → ((s.applyWrite k (plain bs) c).region r).wait = .none)

/-- R280, R281: BATON.ACQ of a port baton that is held takes the last place of the baton's FIFO and waits, with QLEN one more; BATON.REL of the holder
grants the baton to the acquirer at the head of the FIFO, whose response is on its way, with QLEN one less. That BATON.REL acts in its own step
is the model's reading (log 20). -/
def Sys2Proof.Claims.PortBatons : Prop :=
  ∀ (s : State) (ca : CReg) sp p (b : Baton), let k := p.key; let w0 := s.w0 k; let w1 := s.w1 k
    quiet { s with batons := [] } → reachable s p → p.size = 16 → k % 16 = 0 → (s.rc ca).cursor.toNat % 16 = 0 →
    s.access (s.rc ca) (s.rc ca).cursor.toNat 16 permAtomic kindAtomic memSpaces .store = .ok (sp, [p]) → (s.merges k 16 p.cmpr && s.blockBad k) = false →
    s.liveAt k = true → s.batonFault k = none → s.batons.find? (fun x => x.key == k / 16) = some b →
    (batonHeld w0 = true → ∃ t q, Runs s [.batonAcq ca, .pass .rq 0 (portOf k), .pass .dq (dieOf s.cur) (portOf k), .apply (portOf k)] t ∧
      q.issuer = .pacer s.cur ∧ q.act = .batonAcq s.cur s.taskid ∧ t.w0 k = w0 ∧ t.w1 k = w1 + 1 ∧
      t.batons.find? (fun x => x.key == k / 16) = some { b with fifo := b.fifo ++ [q] } ∧ t.resps = [] ∧
      t.reg.wait = .resp (.deferred (.held .done)) [q.stamp] [] ∧ t.reg.pacer = s.reg.pacer) ∧
    (∀ q rest r task, b.fifo = q :: rest → q.act = .batonAcq r task → w0 = batonWord0 s.cur s.taskid →
      ∃ t x, Completes (.batonRel ca) s t ∧ t.w0 k = batonWord0 r task ∧ t.w1 k = w1 - 1 ∧
        t.batons.find? (fun x => x.key == k / 16) = some { b with fifo := rest } ∧ t.resps = [x] ∧ x.stamp = q.stamp ∧ x.issuer = q.issuer ∧ x.cause = none ∧
        t.reg.pacer = { s.reg.pacer with pcc := s.reg.pacer.pcc.withCursor s.nextPC })

/-- R177, R278 to R282: barriers, batons and monitored waits through the ordering machine; that BATON.REL acts in its own step is log 20. -/
def Obligations.SyncObjects : Prop := SyncCompletes ∧ PortBatons ∧ MonitoredWaits

/-! ### Derived regions -/

namespace Sys2Proof.Claims

/-- The pieces of a base as a declaration keeps them: address, key and size of each (R154). -/
def baseSegs (base : Nat) (ps : List Piece) : List (Nat × Nat × Nat) :=
  (ps.foldl (fun (acc : List (Nat × Nat × Nat) × Nat) p => (acc.1 ++ [(acc.2, p.key, p.size)], acc.2 + p.size)) ([], base)).1

/-- A read of a view is on its way by requests rs, and the Pacer waits for their answers, which continue as k says. -/
def asksView (s t : State) (rs : List NewReq) (k : Cont) : Prop :=
  ∃ qs, t.reqs = s.reqs ++ qs ∧ qs.map (fun q => (q.port, q.act)) = rs.map (fun r => (r.port, r.act)) ∧
    t.reg.wait = .resp k (qs.map (·.stamp)) [] ∧ t.reg.pacer = s.reg.pacer ∧ t.mem = s.mem

/-- With an empty ordering machine, n bytes at address x of a view are those of declaration e, numbered id, whose values port number m alone holds, sound and
up to date, as vs. -/
def viewHolds (s : State) (x n id : Nat) (e : Decl) (m : Nat) (vs : List Byte) : Prop := let off := x - e.view
  s.reqs = [] ∧ s.resps = [] ∧ s.dropped = [] ∧ s.declAt x = some (id, e) ∧ AMap.find s.decls id = some e ∧ off + n ≤ e.viewSize ∧ e.lost = false ∧
    e.portsFor (e.viewIdxs off n) = [m] ∧ s.cut (some (dieOf s.cur)) (portOfNum m) = false ∧ AMap.findD e.mq m [] = [] ∧
    (∀ i ∈ e.viewIdxs off n, (e.part m i).spoilt = false) ∧ e.shape.viewResult off n [(e.viewIdxs off n).flatMap (fun i => (e.part m i).bytes)] = .ok vs

/-- The way of such a read by instruction i, and back. -/
def readsView (s : State) (i : Instr) (m id : Nat) (t : State) : Prop := let p := portOfNum m
  Runs s [i, .pass .rq 0 p, .pass .dq (dieOf s.cur) p, .apply p, .serve p id, .ret 0] t ∧ t.mem = s.mem

/-- R162, R174, R240, R241: LD, LDQ and CLD of a view ask the ports that hold its values and wait; with an empty ordering machine and one port they complete in
six steps with the bytes of the view: in X(XD), in the pair from X(XD), or in C(CD) without a tag. -/
def ViewLoads : Prop :=
  ∀ s (d : XReg) (cb cd : CReg) (xi : XReg) (off : BitVec 8) (u : BitVec 1) (sz : BitVec 2) ps, let c := s.rc cb; let n := 2 ^ sz.toNat
    let a := s.memAddr cb xi off n; let b := s.memAddr cb xi off 16
    (s.access c a.toNat n permLoad kindRead loadSpaces .read = .ok (7, ps) →
      (∀ w o rs, s.viewRequests (inSpace a) n a = .ok (w, o, rs) →
        ∃ t, Completes (.ld d cb xi off u sz) s t ∧ asksView s t rs (.view w o n (.toX d n (u == 0)))) ∧
      (∀ id e m vs, viewHolds s (inSpace a) n id e m vs →
        ∃ t, readsView s (.ld d cb xi off u sz) m id t ∧ came s t d (loaded vs n (u == 0)))) ∧
    (d.getLsbD 0 = false → s.access c b.toNat 16 permLoad kindRead loadSpaces .read = .ok (7, ps) →
      (∀ w o rs, s.viewRequests (inSpace b) 16 b = .ok (w, o, rs) → ∃ t, Completes (.ldq d cb xi off) s t ∧ asksView s t rs (.view w o 16 (.toXX d))) ∧
      (∀ id e m vs, viewHolds s (inSpace b) 16 id e m vs →
        ∃ t, readsView s (.ldq d cb xi off) m id t ∧ t.reg.pacer.pcc = s.reg.pacer.pcc.withCursor s.nextPC ∧
          ∀ r, t.rx r = if r = d ∧ d ≠ 0 then loaded vs 8 false else if r = d + 1 then loaded (vs.drop 8) 8 false else s.rx r)) ∧
    (b.toNat % 16 = 0 → s.access c b.toNat 16 permLoad kindRead [1, 2, 3, 4, 5, 7] .read = .ok (7, ps) →
      (∀ w o rs, s.viewRequests (inSpace b) 16 b = .ok (w, o, rs) → ∃ t, Completes (.cld cd cb xi off) s t ∧ asksView s t rs (.view w o 16 (.toC cd))) ∧
      (∀ id e m vs, viewHolds s (inSpace b) 16 id e m vs →
        ∃ t, readsView s (.cld cd cb xi off) m id t ∧ t.reg.pacer.pcc = s.reg.pacer.pcc.withCursor s.nextPC ∧
          ∀ r, t.rc r = if r = cd ∧ cd ≠ 0 then Cap.ofBytes (vs.take 16) false else s.rc r))

end Sys2Proof.Claims

/-- R155, R161, R162, R174, R175, R241, R256, R283: DRGN.DECL with a valid record keeps a declaration that its ports have scanned; uncorrectable base data
keep it from being made, as a deferred fault (log 79). LD, LDQ, CLD and DRGN.READ read a view. DRGN.READ asks every port that holds a part
for its partials, and DRGN.SYNC every port of the base, and waits; with an empty ordering machine and one port each completes once that port has
answered behind what its queue holds: DRGN.READ with the value of the view, DRGN.SYNC with no register changed. DRGN.DROP ends a declaration
and answers the reads that its ports have accepted; of a view that no declaration owns it faults with 0x8C. -/
def Obligations.DerivedRegions : Prop :=
  ViewLoads ∧
  (∀ s (cd ca cb : CReg) s1 r sp ps, let rec_ := s.rc ca; let base := s.rc cb; let dv := s.rc cd
    let view := dv.base.toNat % 2 ^ 56
    let d0 := declOf r (s1.vd.getD 0) (base.cursor.toNat % 2 ^ 56) false view (view + (dv.top - dv.base).toNat) []
    rec_.cursor.toNat % 16 = 0 → s.fetchData rec_ rec_.cursor.toNat 128 permLoad recordSpaces = .ok (s1, r) → recExprBad r = false → declOk r d0 = true →
    memSpaces.contains base.spaceAt = true → base.cursor.toNat % 16 = 0 →
    s1.access base base.cursor.toNat d0.baseLen permLoad kindRead memSpaces .read = .ok (sp, ps) →
    dv.tag = true → dv.spaceAt = 7 → dv.perms.toNat = permLoad → (d0.viewSize : Int) ≤ dv.top - dv.base →
    (∀ p ∈ s1.decls, p.2.view + p.2.viewSize ≤ view ∨ view + d0.viewSize ≤ p.2.view) →
    let s2 := s1.flushFor ps
    let d := s2.scan { d0 with sram := sp != 3, segs := baseSegs d0.base ps }
    d.parts.all (fun p => s2.portHolds p.1 (d.stateBytes (p.2.filter (·.used)).length)) = true →
    (∀ p, ps.find? (fun p => (d.elemsIn p.key p.size).any (fun e => s2.badAt e.2.2)) = some p →
      ∃ t f, Completes (.drgnDecl cd ca cb) s t ∧ t.reg.pend = some f ∧ (s2.reg.pend = none → f.cause = class3 p.key 0) ∧ t.decls = s2.decls ∧ t.mem = s2.mem ∧
        t.reg.pacer.pcc = s2.reg.pacer.pcc.withCursor s2.nextPC) ∧
    ((∀ p ∈ ps, ∀ e ∈ d.elemsIn p.key p.size, s2.badAt e.2.2 = false) →
    ∃ t id, Completes (.drgnDecl cd ca cb) s t ∧ AMap.find t.decls id = some d ∧ AMap.find s2.decls id = none ∧ t.mem = s2.mem ∧
      ∀ j, j ≠ id → AMap.find t.decls j = AMap.find s2.decls j)) ∧
  (∀ s (d : XReg) (ca : CReg) ps w off rs, let c := s.rc ca
    c.cursor.toNat % 4 = 0 → s.access c c.cursor.toNat 4 permLoad kindRead [7] .read = .ok (7, ps) →
    s.viewRequests (inSpace c.cursor) 4 c.cursor = .ok (w, off, rs) →
    ∃ t qs, Completes (.drgnRead d ca) s t ∧ t.reqs = s.reqs ++ qs ∧ qs.map (fun q => (q.port, q.act)) = rs.map (fun r => (r.port, r.act)) ∧
      t.reg.wait = .resp (.view w off 4 (.held (.toX d 4 false))) (qs.map (·.stamp)) [] ∧ t.reg.pacer = s.reg.pacer ∧ t.mem = s.mem) ∧
  (∀ s (d : XReg) (ca : CReg) ps id e n vs, let c := s.rc ca; let off := inSpace c.cursor - e.view; let p := portOfNum n
    s.reqs = [] → s.resps = [] → s.dropped = [] → c.cursor.toNat % 4 = 0 → s.access c c.cursor.toNat 4 permLoad kindRead [7] .read = .ok (7, ps) →
    s.declAt (inSpace c.cursor) = some (id, e) → AMap.find s.decls id = some e → off + 4 ≤ e.viewSize → e.lost = false →
    e.portsFor (e.viewIdxs off 4) = [n] → s.cut (some (dieOf s.cur)) p = false → AMap.findD e.mq n [] = [] →
    (∀ i ∈ e.viewIdxs off 4, (e.part n i).spoilt = false) →
    e.shape.viewResult off 4 [(e.viewIdxs off 4).flatMap (fun i => (e.part n i).bytes)] = .ok vs →
    ∃ t, Runs s [.drgnRead d ca, .pass .rq 0 p, .pass .dq (dieOf s.cur) p, .apply p, .serve p id, .ret 0] t ∧ came s t d (loaded vs 4 false) ∧
      t.mem = s.mem) ∧
  (∀ s (ca : CReg), let c := s.rc ca; let ds := s.overBase c
    c.checkRaw c.base.toNat 0 permLoad kindRead = none → ds ≠ [] → (∀ p ∈ ds, p.2.lost = false) → s.released 3 = true →
    ∃ t qs, Completes (.drgnSync ca) s t ∧ t.reqs = s.reqs ++ qs ∧
      qs.map (fun q => (q.port, q.act)) = ds.flatMap (fun p => p.2.parts.map (fun q => (portOfNum q.1, Act.dsync [p.1]))) ∧
      t.reg.wait = .resp (.deferred (.held .done)) (qs.map (·.stamp)) [] ∧ t.reg.pacer = s.reg.pacer ∧ t.mem = s.mem) ∧
  (∀ s (ca : CReg) id e n x, let c := s.rc ca; let p := portOfNum n
    s.reqs = [] → s.resps = [] → s.dropped = [] → c.checkRaw c.base.toNat 0 permLoad kindRead = none → s.overBase c = [(id, e)] →
    AMap.find s.decls id = some e → e.lost = false → e.parts = [(n, x)] → AMap.findD e.mq n [] = [] → s.cut (some (dieOf s.cur)) p = false →
    s.released 3 = true →
    ∃ t, Runs s [.drgnSync ca, .pass .rq 0 p, .pass .dq (dieOf s.cur) p, .apply p, .serve p id, .ret 0] t ∧ came s t 0 0 ∧ t.mem = s.mem) ∧
  (∀ s (ca : CReg), let a := (s.rc ca).cursor.toNat % 2 ^ 56
    (∀ id d, s.decls.find? (fun p => p.2.view == a) = some (id, d) → (s.sup = true ∨ d.vd = s.vd.getD 0) →
      ∃ t, Completes (.drgnDrop ca) s t ∧ AMap.find t.decls id = none ∧ (∀ j, j ≠ id → AMap.find t.decls j = AMap.find s.decls j) ∧ t.mem = s.mem ∧
        t.reg.pacer = { s.reg.pacer with pcc := s.reg.pacer.pcc.withCursor s.nextPC } ∧ (∀ r ∈ s.resps, r ∈ t.resps) ∧
        ∀ e n ms, AMap.find s.decls id = some e → AMap.find e.mq n = some ms → ∀ st iss va port idxs, Maint.reply st iss va port idxs ∈ ms →
          ∃ r ∈ t.resps, r.stamp = st ∧ r.issuer = iss) ∧
    (s.decls.find? (fun p => p.2.view == a) = none → s.unmasked → ∃ t, Completes (.drgnDrop ca) s t ∧ s.entered t 0x8C (s.rc ca).cursor))

/-! ### Tasks, triggers, heats and sequences -/

namespace Sys2Proof.Claims

/-- A sync instruction's checks pass on the granule of piece p (R234, R236). -/
def oneGranule (s : State) (ca : CReg) (sp : Nat) (p : Piece) : Prop :=
  (s.rc ca).cursor.toNat % 16 = 0 ∧ p.size = 16 ∧ p.key % 16 = 0 ∧
    s.access (s.rc ca) (s.rc ca).cursor.toNat 16 permAtomic kindAtomic memSpaces .store = .ok (sp, [p])

/-- Of the current Pacer's registers nothing differs but the PC, which stands at NextPC. -/
def pcOnly (s t : State) : Prop := t.reg.pacer = { s.reg.pacer with pcc := s.reg.pacer.pcc.withCursor s.nextPC }

/-- Of the current Pacer's registers nothing differs but X(d), which holds v, and the PC, which stands at NextPC. -/
def gave (s t : State) (d : XReg) (v : Word) : Prop :=
  (∀ r, t.rx r = if r = d ∧ d ≠ 0 then v else s.rx r) ∧
    t.reg.pacer = { s.reg.pacer with x := t.reg.pacer.x, pcc := s.reg.pacer.pcc.withCursor s.nextPC }

end Sys2Proof.Claims

/-- R73, R74, R122, R286: with an empty ordering machine TRIG.BIND with C0 makes its granule a trigger with no binding, which latches its posts; one with a
TCB that passes the checks of R74 arms that TCB, with X(XB) to X(XB + 3) as its arguments; TRIG.UNBIND takes the binding away, and with keep 0 the
trigger. TRIG.BIND of a barrier or a baton completes with a deferred fault of cause 0x7F, TRIG.UNBIND of a granule that is no trigger with one of 0x78, and of
a trigger with no binding with one of 0x9D; so does either whose link has failed, with the link's cause (that these are deferred is the model's
reading of R256, log 79). -/
def Obligations.Triggers : Prop :=
  ∀ s (cd ca : CReg) (b : XReg) (keep : BitVec 5) sp p, let k := p.key; let g := k / 16; let tc := s.rc cd
    let others := s.trigs.filter (fun x => x.key != g)
    let pend := if s.isTrigger k then s.w0 k % 2 ^ 16 else 0
    let late := fun (i : Instr) (c : Byte) (v : Word) => ∃ t f, Completes i s t ∧ t.reg.pend = some f ∧
      (s.reg.pend = none → f.cause = c ∧ f.tval = v) ∧ t.reg.pacer.pcc = s.reg.pacer.pcc.withCursor s.nextPC ∧ t.mem = s.mem ∧ t.trigs = s.trigs
    quiet s → oneGranule s ca sp p →
    (∀ f, s.portFault (some (dieOf s.cur)) (portOf k) = some f → let v := s.tvalOf (portOf k) (s.rc ca).cursor f
      (b.toNat ≤ 28 → late (.trigBind 0 ca b) f v) ∧ (keep.toNat ≤ 1 → late (.trigUnbind ca keep) f v)) ∧
    (reachable s p → s.blockBad k = false →
    (b.toNat ≤ 28 → s.liveAt k = true → s.isTrigger k = false → late (.trigBind 0 ca b) 0x7F (s.rc ca).cursor) ∧
    (b.toNat ≤ 28 → (s.liveAt k = false ∨ s.isTrigger k = true) →
      (∃ t, Completes (.trigBind 0 ca b) s t ∧ pcOnly s t ∧ t.w0 k = pend ∧ t.w1 k = 3 * 2 ^ 56 ∧ t.liveAt k = true ∧ t.trigs = others) ∧
      (∀ x bk old, cd ≠ 0 → tc.checkHere 128 (permLoad + permStore) kindRead = .ok x → tc.cursor.toNat % 128 = 0 →
        s.bindCheck (s.vd.getD 32) tc = .ok (bk, old) → (old = none → s.tracked < taskLimit) → s.vd.getD 32 ≤ 32 → (∀ i, old = some i → i < 2 ^ 56) → pend = 0 →
        ∃ t id u, Completes (.trigBind cd ca b) s t ∧ pcOnly s t ∧ t.w0 k = 2 ^ 16 ∧ t.w1 k = 3 * 2 ^ 56 + id ∧ t.liveAt k = true ∧
          { key := g, task := id } ∈ t.trigs ∧ (∀ i, old = some i → id = i) ∧ t.task id = some u ∧ u.st = .armed ∧ u.queue = none ∧
          u.args = (List.range 4).map (fun j => s.rxBlock b j))) ∧
    (s.isTrigger k = true → keep.toNat ≤ 1 → others.length < s.trigs.length →
      ∃ t, Completes (.trigUnbind ca keep) s t ∧ pcOnly s t ∧ t.trigs = others ∧ t.liveAt k = decide (keep = 1) ∧
        t.w0 k = (if keep = 0 then 0 else pend) ∧ t.w1 k = (if keep = 0 then 0 else 3 * 2 ^ 56)) ∧
    (keep.toNat ≤ 1 → (s.isTrigger k = false → late (.trigUnbind ca keep) 0x78 (s.rc ca).cursor) ∧
      (s.isTrigger k = true → others.length = s.trigs.length → late (.trigUnbind ca keep) 0x9D s.reg.pacer.taskid))) ∧
    (1 < keep.toNat → s.unmasked → Faults (.trigUnbind ca keep) s 0x0E)

/-- R66, R71, R284, R285: TASK.SPAWN, where its checks pass, asks the queue's port for a slot and waits; a queue with no slot gives all ones. With a slot the
packet's first 48 bytes are written to it, then the last 16 with the slot's PHASE, and the last write's completion gives the sequence number. TASK.CANCEL gives
0 for a task that is not final: a running one, and its regions, are marked as cancelling, or, in the fc of its dispatch's commit, the cancel is pending and
reaches the regions in a later fc (log 78); one that waits, is ready or is frozen ends, a frozen one whose stores hold it back once they have been applied. Of
any other it gives 1. TASK.RETIRE of a gang's last member ends the task and frees its regions, and of another leaves the rest running; it waits for the region's
stores, and for a pending fault (log 53). -/
def Obligations.Tasks : Prop :=
  ∀ (s : State),
    (∀ d ca cb sp ps x qid (q : Queue) s1 pkt, let qc := s.rc ca; let pc := s.rc cb
      pc.cursor.toNat % 64 = 0 → s.access qc qc.cursor.toNat 128 (permLoad + permStore + permAtomic) kindAtomic memSpaces .store = .ok (sp, ps) →
      s.access pc pc.cursor.toNat 64 permLoad kindRead recordSpaces .read = .ok x → s.queueAt ((ps.head?.map (·.key)).getD 0) = some (qid, q) →
      q.kind = 1 → q.state ≠ .dead → s.vd = some q.vd → s.fetchData pc pc.cursor.toNat 64 permLoad recordSpaces = .ok (s1, pkt) → fieldLe pkt 0 1 = 1 →
      s1.released 3 = true →
      ∃ t, Completes (.taskSpawn d ca cb) s t ∧ s1.waitsFor t (ps.take 1) ((ps.take 1).map (fun _ => .claim q.slots)) (.spawnClaim d qid pkt)) ∧
    (∀ n (q : Resp) r d qid pkt x k cm, s.resps[n]? = some q → q.issuer = .pacer r → q.cause = none → s.dropped.contains q.stamp = false →
      s.queue qid = some x → let w := (s.region r).wait
      let seq := leNat (q.bytes.take 8)
      let last := fun (m : Nat) => sliceOf pkt 48 15 ++ [(sliceOf pkt 63 1).headD 0 &&& 0x7F ||| BitVec.ofNat 8 (x.phase m * 128)]
      let writes := fun (acts : List (Nat × Act)) (next : Cont) => ∃ t qs, Completes (.ret n) s t ∧ t.reqs = s.reqs ++ qs ∧
        qs.map (fun q => (q.issuer, q.stage, q.key, q.act)) = acts.map (fun a => (Issuer.pacer r, Stage.rq r, k + a.1, a.2)) ∧
        (t.region r).wait = .resp next (qs.map (·.stamp)) [] ∧ (t.region r).pacer = (s.region r).pacer ∧ t.mem = s.mem
      (w = .resp (.spawnClaim d qid pkt) [q.stamp] [] → seq ≠ 2 ^ 64 - 1 → s.slotLoc x seq = some (k, cm) →
        writes ((List.range 3).map (fun j => (16 * j, .writeDone (sliceOf pkt (16 * j) 16)))) (.spawnBody d (BitVec.ofNat 64 seq) qid (last seq))) ∧
      (∀ (m : Word) ids got bs, w = .resp (.spawnBody d m qid bs) ids got → q.stamp ∈ ids → got.length + 1 = ids.length → s.slotLoc x m.toNat = some (k, cm) →
        writes [(48, .writeDone bs)] (.spawnLast d m))) ∧
    (∀ n (q : Resp) r d v, s.resps[n]? = some q → q.issuer = .pacer r → q.cause = none → s.dropped.contains q.stamp = false → let k := (s.region r).wait
      ((∃ qid pkt, k = .resp (.spawnClaim d qid pkt) [q.stamp] []) ∧ leNat (q.bytes.take 8) = 2 ^ 64 - 1 ∧ v = BitVec.allOnes 64) ∨
        k = .resp (.spawnLast d v) [q.stamp] [] →
      ∃ t, Completes (.ret n) s t ∧ (t.region r).wait = .none ∧ (∀ e, (t.region r).pacer.rx e = if e = d ∧ d ≠ 0 then v else (s.region r).pacer.rx e)) ∧
    (∀ d a, let id := (s.rx a).toNat
      (∀ v, s.vd = some v → s.cancellable v id = true → ∃ t, Completes (.taskCancel d a) s t ∧ gave s t d 0 ∧ ∀ u, s.task id = some u →
        (u.st = .running → u.fate = 0 → u.cancel = false → u.since < s.now → (∀ i, i ≠ id → t.task i = s.task i) ∧
          (∀ r ∈ u.members, (t.region r).cancelAt = some s.now) ∧ ∃ w, t.task id = some w ∧ w.st = .cancelling ∧ w.cancel = true) ∧
        (u.st = .running → u.fate = 0 → u.cancel = false → s.now ≤ u.since → (∀ i, i ≠ id → t.task i = s.task i) ∧
          (∃ w, t.task id = some w ∧ w.st = .running ∧ w.cancel = true ∧ w.members = u.members) ∧ ∃ c, t.cancels = s.cancels ++ [c] ∧ c.task = id) ∧
        (u.st = .waiting ∨ u.st = .ready → u.queue ≠ none → t.task id = none) ∧
        (u.st = .frozen → u.fate = 0 → ¬(u.cancel = true ∧ s.now = u.since) → (s.holdsBack u 7 = false → u.queue ≠ none → t.task id = none) ∧
          (s.holdsBack u 7 = true → ∃ w, t.task id = some w ∧ w.st = .frozen ∧ w.fate = 7))) ∧
      ((∀ v, s.vd = some v → s.cancellable v id = false) → ∃ t, Completes (.taskCancel d a) s t ∧ s.wroteX t d 1 s.nextPC)) ∧
    (s.reg.pacer.mode = false → s.settled s.cur = true → s.reg.pend = none → s.cancelPending s.cur = false →
      ∀ id u, s.reg.task = some id → s.task id = some u → s.applied u [s.cur] = true →
      (u.retired.length + 1 < u.gang → ∃ t, Completes .taskRetire s t ∧ t.task id = some { u with retired := u.retired ++ [s.reg.rank] } ∧
        t.reg = { s.reg with run := .off, frozen := true } ∧ t.mem = s.mem ∧ ∀ r, r ≠ s.cur → t.region r = s.region r) ∧
      (u.gang ≤ u.retired.length + 1 → u.queue ≠ none → ∃ t, Completes .taskRetire s t ∧ t.task id = none ∧
        ∀ r ∈ u.members, (t.region r).run = .off ∧ (t.region r).task = none)) ∧
    (s.reg.pacer.mode = false → (s.settled s.cur = false ∨ s.reg.pend ≠ none ∨ ∃ id u, s.reg.task = some id ∧ s.task id = some u ∧ s.applied u [s.cur] = false) →
      Waits .taskRetire s) ∧
    (s.reg.pacer.mode = true → s.reg.pacer.mask = false → Faults .taskRetire s 0x0F)

/-- R78 to R82, R84, R88, R89, R287: HEAT.OPEN takes the least free heat id, or gives all ones where none is free; HEAT.CLOSE of an open heat abandons it.
BALLOT.POST counts a post: it answers 2 where the heat is decided, 3 where the table is full, 1 where the post completes the quorum, which decides the heat for
it, and else 0; it waits for its release, and behind a post of a higher sibling in the same fc (log 78). BALLOT.POLL reads the decision. The accounting write of
a heat that is accountable marks it done. That TVAL is a free value where HEAT.OPEN refuses its operands, which name no heat id, is the model's choice (log 55). -/
def Obligations.HeatsAndBallots : Prop :=
  ∀ (s : State) (d a b : XReg) (ca : CReg), let w := (s.rx b).toNat; let c := s.rc ca; let n := (s.rx a).toNat
    (heatOperandsOk w c = true →
      (∀ h, s.heat h = none → h < 256 → (∀ j < h, s.heat j ≠ none) →
        ∃ t, Completes (.heatOpen d ca b) s t ∧ (s.putHeat h (mkHeat s.heatVd w c)).wroteX t d (BitVec.ofNat 64 h) s.nextPC) ∧
      ((∀ h < 256, s.heat h ≠ none) → ∃ t, Completes (.heatOpen d ca b) s t ∧ s.wroteX t d (BitVec.allOnes 64) s.nextPC)) ∧
    (heatOperandsOk w c = false → s.unmasked → ∃ t, Completes (.heatOpen d ca b) s t ∧ s.drawWord.2.entered t 0x94 s.drawWord.1) ∧
    (∀ x, s.heatFor (s.rx a) = some x → ∃ t, Completes (.heatClose a) s t ∧ pcOnly s t ∧
      (x.done = true → t.heats = AMap.del s.heats n) ∧ (x.done = false → ∃ y, t.heat n = some y ∧ y.closing = true ∧
        y.st = if x.st = .open_ then .abandoned else x.st)) ∧
    (s.heatFor (s.rx a) = none → s.unmasked → ∃ t, Completes (.heatClose a) s t ∧ s.entered t 0x94 (s.rx a)) ∧
    (∀ h i x, s.reg.pacer.mode = false → s.meSib = some (h, i) → s.heat h = some x →
      let e := x.table.find? (fun e => e.1 == s.rx a)
      let v := if x.st ≠ .open_ then 2 else if e = none ∧ 16 ≤ x.table.length then 3 else if ((e.map (·.2.1)).getD 0) + 1 = x.q then 1 else 0
      let after := ∃ j, x.postAt = some (s.now, j) ∧ i < j
      ((x.sib i).hash = none → s.released 4 = true → ¬after → ∃ t y, Completes (.ballotPost d a) s t ∧ gave s t d (BitVec.ofNat 64 v) ∧ t.heat h = some y ∧
        (y.sib i).hash = some (s.rx a) ∧ (v = 1 → y.st = .decided ∧ y.win = s.rx a ∧ y.decider = i) ∧ (v = 2 → y.st = x.st)) ∧
      ((x.sib i).hash = none → (s.released 4 = false ∨ after) → Waits (.ballotPost d a) s) ∧
      ((x.sib i).hash ≠ none → ∃ t, Completes (.ballotPost d a) s t ∧ s.entered t 0x98 (BitVec.ofNat 64 h))) ∧
    (∀ x, d.getLsbD 0 = false → s.cancelPending s.cur = false → (if s.reg.pacer.mode then s.heat n else s.heatFor (s.rx a)) = some x →
      ∃ t, Completes (.ballotPoll d a) s t ∧ s.inX t s.nextPC ∧ ∀ r, t.rx r = if r = d ∧ d ≠ 0 then x.win else if r = d + 1 then
        BitVec.ofNat 64 (x.st.code + (if s.reg.pacer.mode then 0xFF else s.mySlot n) * 256) else s.rx r) ∧
    (d.getLsbD 0 = true → s.unmasked → Faults (.ballotPoll d a) s 0x0E) ∧
    (∀ h x, s.heat h = some x → (x.accountable = true → ∃ t, Completes (.heatAccountingWrite h) s t ∧ t.reg.pacer = s.reg.pacer ∧
        t.heats = if x.closing then AMap.del s.heats h else AMap.put s.heats h { x with done := true }) ∧
      (x.accountable = false → Completes (.heatAccountingWrite h) s s))

/-- R86, R87, R90 to R94, R288: for a task with no heat and an empty ordering machine, SEQ.ADMIT of an empty sequence writes 64 times the number of blocks that
the Prefix Index matches, each by the tokens up to its end; SEQ.RELEASE of a bound one writes the number of blocks that it published, and leaves
STATE 2; KV.SLOT writes a position's block and slot, all ones beyond the sequence, and all ones less 1 where it is not kept. -/
def Obligations.Sequences : Prop :=
  ∀ (s : State) (d b : XReg) (ca cb : CReg) x (q : Sqd) (p : Pool), let c := s.rc ca; let tc := s.rc cb; let v := s.vd.getD 32
    s.reqs = [] → c.cursor.toNat % 64 = 0 →
    (s.reg.pacer.mode = false → s.access c c.cursor.toNat 64 (permLoad + permStore) kindRead memSpaces .read = .ok x → s.readSqd v c = .ok q → q.bad = false →
      s.readPool v q.pool = .ok p → s.meSib = none →
      (∀ (n : Nat) s1 bs s2, tc.top = tc.cursor.toNat + 4 * n → 1 ≤ n → n ≤ 262144 → tc.checkRaw tc.cursor.toNat (4 * n) permLoad kindRead = none → q.st = 0 →
        s.fetchData tc tc.cursor.toNat (4 * n) permLoad recordSpaces = .ok (s1, bs) →
        let hit := s1.matched v q (tokenIds bs n) (min ((n - 1) / 64) q.room) 0
        s1.admitSeq v q p (hit.map (·.block)) none = .ok s2 →
        ∃ t, Completes (.seqAdmit d ca cb) s t ∧ gave s t d (BitVec.ofNat 64 (64 * hit.length)) ∧ t.mem = s2.mem ∧ hit.length ≤ (n - 1) / 64 ∧
          ∀ j y, hit[j]? = some y → y.path = (tokenIds bs n).take (64 * (j + 1)) ∧ y.model = q.model ∧ y ∈ t.index.map (fun z => { z with used := y.used })) ∧
      (∀ k s1 bs s2 s3 (n : Published) w, (s.rx d).toNat = k → q.st = 1 → k ≤ q.nblk → k ≠ 0 → tc.checkRaw tc.cursor.toNat (256 * k) permLoad kindRead = none →
        s.fetchData tc tc.cursor.toNat (256 * k) permLoad recordSpaces = .ok (s1, bs) → 
        s1.publish v q p (tokenIds bs (64 * k)) k 0 { count := 0, first := none } = (s2, n) → n.first = none →
        s2.walkBlocks 2 v q p q.nblk 0 { freed := 0, fault := false, first := none } = (s3, w) → w.first = none →
        ∃ t, Completes (.seqRelease d ca cb) s t ∧ gave s t d (BitVec.ofNat 64 n.count) ∧ n.count ≤ k ∧ t.mem = (s3.unitTry 2 v q.cap (q.at_ 0x20) (leBytes 4 2)).mem) ∧
      (∀ s3 w, s.rx d = 0 → q.st = 1 → s.walkBlocks 2 v q p q.nblk 0 { freed := 0, fault := false, first := none } = (s3, w) → w.first = none →
        ∃ t, Completes (.seqRelease d ca cb) s t ∧ gave s t d 0 ∧ t.mem = (s3.unitTry 2 v q.cap (q.at_ 0x20) (leBytes 4 2)).mem)) ∧
    (∀ r, s.access c c.cursor.toNat 64 permLoad kindRead memSpaces .read = .ok x → s.kvSlot v c (s.rx b).toNat = .ok r →
      ∃ t, Completes (.kvSlot d ca b) s t ∧ s.wroteX t d (match r with
        | .kept blk sl => BitVec.ofNat 64 (blk * 256 + sl) | .beyond => BitVec.allOnes 64 | .notKept => BitVec.allOnes 64 - 1) s.nextPC)

/-! ### Block transfer engines, bank halves, the privileged group -/

namespace Sys2Proof.Claims

/-- The outcome of packet p of queue qid is in the journal: one entry more than s has, one reservation less, and the packet is no longer pending (R57,
R58). -/
def outcomeAfter (s t : State) (qid : Nat) (p : Pkt) : Prop :=
  t.jnl.wr = s.jnl.wr + 1 ∧ t.jnl.resv = s.jnl.resv - 1 ∧ ∀ q, t.queue qid = some q → ∀ x ∈ q.pend, x.seq ≠ p.seq

/-- That outcome is res with a cause, in an entry that names the packet's sequence number, slot, operation, identifier and digest (R57). -/
def outcomeIs (s t : State) (qid : Nat) (q : Queue) (p : Pkt) (res cause : Nat) : Prop :=
  outcomeAfter s t qid p ∧ (Memory.wf s.mem = true → t.rd (apKey (0x01000000 + 32 * (s.jnl.wr % 2 ^ s.jnl.log2j))) 32 =
    entryBytes s.jnl.wr p.seq qid 1 (p.seq % q.slots) res (fieldLe p.bytes 0 1) p.id (crc32 (noPhase p.bytes)) q.jvd cause)

/-- Bytes dealt out to the pieces of an access as writes that answer. -/
def doneActs : List Piece → List Byte → List Act
  | [], _ => []
  | p :: ps, bs => .writeDone (bs.take p.size) :: doneActs ps (bs.drop p.size)

/-- The reader waits: it will execute the instruction again, and nothing but that wait and what its reads found applied has changed. -/
def polls (s t : State) : Prop := s.here t ∧ t.reg = { s.reg with wait := .poll }

/-- The instruction has completed with a deferred store fault: pending behind any earlier one (R236, R256, log 79). -/
def deferredFault (s t : State) (c : Byte) (v : Word) : Prop :=
  (∃ f, t.reg.pend = some f ∧ (s.reg.pend = none → f.cause = c ∧ f.tval = v)) ∧ t.mem = s.mem ∧
    t.reg.pacer.pcc = s.reg.pacer.pcc.withCursor s.nextPC

/-- Requests of chunk j of command id enter DQ of its BTE's die with the keys of some pieces and their effects; memory stays as it is. -/
def chunkSends (s t : State) (id j die : Nat) (ps : List Piece) (acts : List Act) : Prop :=
  t.mem = s.mem ∧ ∃ qs, t.reqs = s.reqs ++ qs ∧ qs.map (fun q => (q.issuer, q.stage, q.key, q.act)) =
    (ps.zip acts).map (fun p => (Issuer.bte id j, Stage.dq die, p.1.key, p.2))

/-- R47, R151, R152, R163, R164, R270 to R273: BTE.PUT of a valid descriptor hands the command to its BTE and gives 0, or gives 1 where the queue is full (log
41). WAITC gives the word once the bits under its mask are set or a chunk has failed, and TESTC one bit. Where a port refuses the read of a descriptor or an
object, the instruction completes with a deferred fault (log 79). BANK.MV with a valid descriptor completes and sends every row to the port that owns it. -/
def TransferInstructions : Prop :=
  ∀ (s : State) (d b : XReg) (ca : CReg) (sc : BitVec 3) (ok : BitVec 2), let c := s.rc ca; let n := (s.rx b).toNat; let a := c.cursor.toNat
    let scope := if ok = 2 then some sc.toNat else none
    (∀ s1 bs tags, qualOk sc ok [0, 2] = true → a % 64 = 0 → s.descriptor c = .ok (s1, bs, tags) →
      (let cmd := directBte s1 n bs tags scope; let cmpl := descCap bs tags 2
        n < 64 → directOk bs cmd cmpl = true → spanFault (directSpans cmd cmpl) = none →
        (s1.directFull n = false → ∃ t, Completes (.btePut d ca b sc ok) s t ∧
          ({ s1 with btes := AMap.put s1.btes s1.stamp cmd, stamp := s1.stamp + 1 } : State).wroteX t d 0 s1.nextPC) ∧
        (s1.directFull n = true → ∃ t, Completes (.btePut d ca b sc ok) s t ∧ s1.wroteX t d 1 s1.nextPC)) ∧
      (let m := bankOf s1 bs tags scope; let cmpl := descCap bs tags 3
        bankZeros bs m cmpl = true → bankShape m = true → spanFault (bankSpans m cmpl) = none →
        ∃ t x, Completes (.bankMv ca sc ok) s t ∧ pcOnly s1 t ∧ t.mem = s1.mem ∧ AMap.find t.banks s1.stamp = some { m with fails := x } ∧
          ∀ i, m.first ≤ i → i < m.first + m.count → AMap.find x i ≠ none ∨
            ∃ q ∈ t.reqs, q.issuer = .bank s1.stamp ∧ q.stage = .pq ∧ q.port = portOf q.key ∧ q.act = .bankRow s1.stamp i)) ∧
    (∀ s1 s2 w nf, let v := BitVec.ofNat 64 (leNat w)
      a % 8 = 0 → objRead c = none → c.base ≤ a → (a : Int) ≤ c.base + 0x1F8 → s.fetchData c a 8 permLoad memSpaces = .ok (s1, w) →
      s1.fetchData c (c.base.toNat + 0x200) 8 permLoad memSpaces = .ok (s2, nf) →
      ((v &&& s.rx b = s.rx b ∨ leNat nf ≠ 0) → ∃ t, Completes (.waitc d ca b) s t ∧ s2.wroteX t d v s2.nextPC) ∧
      (¬(v &&& s.rx b = s.rx b ∨ leNat nf ≠ 0) → ∃ t, Completes (.waitc d ca b) s t ∧ polls s2 t)) ∧
    (∀ sp ps f, let x := c.base.toNat + n / 8; let late := (fun (i : Instr) (adr : Nat) =>
        ∃ t, Completes i s t ∧ deferredFault (s.flushFor ps) t f
          ((s.flushFor ps).tvalOf (portOf ((ps.head?.map (·.key)).getD 0)) (BitVec.ofNat 64 (adr / 16 * 16)) f))
      objRead c = none →
      (a % 8 = 0 → c.base ≤ a → (a : Int) ≤ c.base + 0x1F8 → s.access c a 8 permLoad kindRead memSpaces .read = .ok (sp, ps) →
        s.fetchData c a 8 permLoad memSpaces = .error f → late (.waitc d ca b) a) ∧
      (n < 4096 → s.access c x 1 permLoad kindRead memSpaces .read = .ok (sp, ps) → s.fetchData c x 1 permLoad memSpaces = .error f →
        late (.testc d ca b) x)) ∧
    (∀ sp ps p f, let u := s.flushFor ps; let late := (fun (i : Instr) =>
        ∃ t, Completes i s t ∧ deferredFault u t f (u.tvalOf (portOf p.key) (BitVec.ofNat 64 (p.va.toNat / 16 * 16)) f) ∧ t.btes = u.btes ∧ t.banks = u.banks)
      qualOk sc ok [0, 2] = true → a % 64 = 0 → s.access c a 128 permLoad kindRead memSpaces .read = .ok (sp, ps) → s.descriptor c = .error f →
      u.foundAt ps f = some p → (n < 64 → late (.btePut d ca b sc ok)) ∧ late (.bankMv ca sc ok)) ∧
    (∀ s1 w, n < 4096 → objRead c = none → s.fetchData c (c.base.toNat + n / 8) 1 permLoad memSpaces = .ok (s1, w) →
      ∃ t, Completes (.testc d ca b) s t ∧ s1.wroteX t d (if (leNat w).testBit (n % 8) then 1 else 0) s1.nextPC)

/-- R47, R48, R130, R151, R152, R167: a chunk of a started command writes its fill or reads its source, in its queue's turn at the BTE. With its last
bytes read it writes them to its destination, with the last of these writes at its port it sets its bit by one OR, and then it has landed. The
command is over when no chunk is left, and a queue's command then has its outcome: OK, or PARTIAL with the cause of its lowest failed chunk. -/
def ChunkMoves : Prop :=
  ∀ (s : State) id (x : Bte), AMap.find s.btes id = some x → x.started = true → s.bteRuns x = true →
    (∀ j ps, j ∈ x.todo → s.bteTurn x.bte = some x.key → s.objKey x 0 1 ≠ none → s.objKey x 0x200 16 ≠ none → x.overlaps = false →
      s.btePieces x x.dst (x.row j * x.dstride + x.col j) (x.len j) permStore kindWrite x.spaces .store = .ok ps →
      (x.mode = 2 → ∃ t, Completes (.bteChunk id j) s t ∧ chunkSends s t id j (x.bte / 8) ps (storeActs ps (fillBytes x.value (x.len j)) .setFull)) ∧
      (∀ rs, x.mode ≠ 2 → s.btePieces x x.src (x.row j * x.sstride + x.col j) (x.len j) permLoad kindRead x.spaces .read = .ok rs →
        ∃ t, Completes (.bteChunk id j) s t ∧ chunkSends s t id j (x.bte / 8) rs (rs.map (fun p => .read p.size)))) ∧
    (∀ n r j c, s.resps[n]? = some r → r.issuer = .bte id j → r.cause = none → s.dropped.contains r.stamp = false → AMap.find x.flight j = some c →
      c.cause = none →
      (∀ ps, let got := c.got ++ [(r.stamp, r.bytes)]
        c.phase = .reading → c.reads.length ≤ got.length →
        s.btePieces x x.dst (x.row j * x.dstride + x.col j) (x.len j) permStore kindWrite x.spaces .store = .ok ps →
        ∃ t, Completes (.ret n) s t ∧ chunkSends s t id j (x.bte / 8) ps
          (storeActs ps (c.reads.flatMap (fun i => ((got.find? (fun p => p.1 == i)).map (·.2)).getD [])) .setFull)) ∧
      (∀ k cm, c.phase = .writing → c.writes = [r.stamp] → s.objKey x ((x.firstbit + j) / 8) 1 = some (k, cm) →
        ∃ t q, Completes (.ret n) s t ∧ t.mem = s.mem ∧ t.reqs = s.reqs ++ [q] ∧ q.issuer = .bte id j ∧ q.stage = .dq (x.bte / 8) ∧ q.key = k ∧
          q.act = .orBit (x.firstbit + j)) ∧
      (c.phase = .bit → ∃ t, Completes (.ret n) s t ∧ t.mem = s.mem ∧ t.reqs = s.reqs ∧
        (AMap.del x.flight j ≠ [] → AMap.find t.btes id = some { x with flight := AMap.del x.flight j, landed := x.landed ++ [j] }) ∧
        (AMap.del x.flight j = [] → x.todo = [] → x.queue = none → AMap.find t.btes id = none))) ∧
    (∀ j, x.todo = [] → x.flight = [] →
      (x.queue = none → Completes (.bteChunk id j) s { s with btes := AMap.del s.btes id }) ∧
      (∀ qid seq q p, x.queue = some (qid, seq) → s.queue qid = some q → q.destroying = [] → p ∈ q.pend → p.seq = seq → (∀ y ∈ q.pend, y.seq = seq → y = p) →
        (x.failed = [] → ∃ t, Completes (.bteChunk id j) s t ∧ outcomeIs s t qid q p resOk 0 ∧ AMap.find t.btes id = none) ∧
        (∀ i c, (i, c) ∈ x.failed → (∀ y ∈ x.failed, y.1 = i → y = (i, c)) → (∀ y ∈ x.failed, i ≤ y.1) →
          ∃ t, Completes (.bteChunk id j) s t ∧ outcomeIs s t qid q p resPartial c ∧ AMap.find t.btes id = none)))

/-- R128, R163, R164, R179: the oldest bank half whose rows are done fixes its writes once all of its output may be written, and makes them granule by
granule, but for a granule that has become a live sync object; then its completion bit is set, it arrives at its barrier, and the command is gone. A half
that may not write is gone as well, with no row written. No Pacer's registers change. That the half's steps are these is the model's choice (log 16,
42). -/
def BankHalves : Prop :=
  ∀ (s : State) id (m : Bank), s.banks.find? (fun p => p.2.vals.length + p.2.fails.length == p.2.count) = some (id, m) →
    let v : State := { s with cur := m.region }
    let does := fun (t : State) => Completes .bankHalfComplete s t ∧ t.cur = s.cur ∧ ∀ r, (t.region r).pacer = (s.region r).pacer
    (m.put = none → (∀ ws, v.bankWrites m = .ok ws → Completes .bankHalfComplete s { s with banks := AMap.put s.banks id { m with put := some ws } }) ∧
      (∀ c, v.bankWrites m = .error c → ∃ t, does t ∧ t.banks = AMap.del s.banks id)) ∧
    (∀ k cm bs ws, m.put = some ((k, cm, bs) :: ws) → let w := v.applyWrite k (plain bs) cm
      (s.liveAt k = false → Memory.wf s.mem = true → (∀ q ∈ w.queues, w.widx q.2 < 2 ^ 48) →
        ∃ t, does t ∧ t.banks = AMap.put s.banks id { m with put := some ws } ∧
          ∀ j, Memory.get t.mem j = if k ≤ j ∧ j < k + bs.length then bs.getD (j - k) 0 else Memory.get s.mem j) ∧
      (s.liveAt k = true → Completes .bankHalfComplete s { s with banks := AMap.put s.banks id { m with put := some ws } })) ∧
    (m.put = some [] → (∀ f, v.bankBit m = .error f → ∃ t, does t ∧ t.banks = AMap.del s.banks id) ∧
      (∀ u, v.bankBit m = .ok u → let u1 : State := { u with banks := AMap.del u.banks id }
        ∃ t, does t ∧ t.banks = AMap.del s.banks id ∧
          ∀ k l cm more w g, u1.unitKeys m.vd m.bar m.bar.cursor.toNat 16 permAtomic kindAtomic .store = .ok ((k, l, cm) :: more) →
            u1.arrive k 1 cm = .ok (w, g) → t.mem = (w.written k).mem))

end Sys2Proof.Claims

/-- R47, R48, R130, R151, R152, R163, R164, R167, R179, R270 to R273: the work of the BTEs and of the bank halves. BTE.PUT of a valid
descriptor hands the command to its BTE and gives 0, or gives 1 where the queue is full; WAITC gives the word once the bits under its mask are set or a chunk has
failed, and TESTC one bit; BANK.MV completes and sends every row to the port that owns it. A chunk of a started command in its queue's turn writes its fill, or reads
its source, writes its destination and sets its bit; a command with no chunk left is gone, and a queue's has its outcome. A half whose rows are done writes its
output granule by granule, sets its bit and arrives. When a direct queue is full is log 41, and a half's steps are log 16 and 42. -/
def Obligations.EngineWork : Prop := TransferInstructions ∧ ChunkMoves ∧ BankHalves

/-- R52, R54, R132, R145, R178, R289 to R291: in supervisor mode TLBI drops the cached translations of its range and notes the invalidation, TLBSYNC waits for
its Pacer's own stores, drops what was cached before they were applied, and waits for every access that may carry an old translation, whatever its page
(log 58); VD.DIRTY writes the dirty bits that it has cleared, in one piece in five steps; VD.STOP stops a virtual device and waits until it
has; VD.START starts one that has stopped; FCAP writes a save area with the format's magic, the PC and the X registers, and FRST starts a region from one.
That VD.STOP of a device that does not exist, and operands beyond their limits, fault with 0x0E is the model's reading (log 59), and that FRST takes the mode
from bit 0 of FLAGS is as well (log 72). -/
def Obligations.PrivilegedGroup : Prop :=
  ∀ (s : State) (a b : XReg) (cd : CReg), s.reg.pacer.mode = true → let n := (s.rx b).toNat; let c := s.rc cd; let v := (s.rx a).toNat % 32
    let r := (s.rx a).toNat % 256
    (∀ vd page, vaOperand (s.rx a) = some (vd, page) →
      (let range := if n = 0 then none else some (page, n)
        let inv : Inval := { region := s.cur, vd := vd, range := range, stamp := none }
        ∃ t, Completes (.tlbi a b) s t ∧
          ({ s with tlb := s.tlb.filter (fun (e : TlbEntry) => !e.within vd range), invals := s.invals ++ [inv] } : State).movedOn t) ∧
      (∀ sp ps bits s1, 1 ≤ n → n ≤ 65536 → AMap.find s.vds vd ≠ none →
        s.access c c.cursor.toNat ((n + 7) / 8) permStore kindWrite [1, 2, 3, 4, 5] .store = .ok (sp, ps) → s.dirtyBits vd n (65536 * page) = (bits, s1) →
        (∃ t, Completes (.vdDirty cd a b) s t ∧ s1.waitsFor t ps (doneActs ps (packBits bits)) (.deferred (.held .done))) ∧
        (∀ p, ps = [p] → p.size = (n + 7) / 8 → quiet s → reachable s p → s.refuses p.key (plain (packBits bits)) p.cmpr 1 = none →
          ∃ t, settles s (portOf p.key) (.vdDirty cd a b) t ∧ came s t 0 0 ∧ t.rd p.key p.size = packBits bits ∧ t.dirty = (s1.touch p.key p.size).dirty))) ∧
    (vaOperand (s.rx a) = none → s.reg.pacer.mask = false → Faults (.tlbi a b) s 0x0E ∧ Faults (.vdDirty cd a b) s 0x0E) ∧
    (s.storing = true → Waits .tlbsync s) ∧
    (s.storing = false → let u := s.syncFrom
      (∀ v ∈ u.invals, v.region = s.cur → v.stamp ≠ none) ∧
      (∀ e ∈ u.tlb, e ∈ s.tlb ∧ ∀ v ∈ s.invals, v.region = s.cur → v.stamp = none → e.within v.vd v.range = false) ∧
      (u.syncWaits = true → Waits .tlbsync u ∧ ∃ t, Completes .tlbsync s t ∧ polls u t) ∧
      (u.syncWaits = false → ∃ t, Completes .tlbsync s t ∧ ({ u with invals := s.invals.filter (fun (v : Inval) => v.region != s.cur) } : State).movedOn t ∧
        t.reg.icache = [])) ∧
    (∀ d, s.vd ≠ some v → AMap.find s.vds v = some d →
      (d.stopped = true → s.vdStopDone v = true → ∃ t, Completes (.vdStop a) s t ∧ s.movedOn t) ∧
      (d.stopped = true → s.vdStopDone v = false → Waits (.vdStop a) s) ∧
      (d.stopped = false → ∃ t e, Completes (.vdStop a) s t ∧ AMap.find t.vds v = some e ∧ e.stopped = true ∧
        ∀ i u, s.task i = some u → u.vd = v → u.fate = 0 → ∀ m ∈ u.members, (t.region m).stop ≠ none)) ∧
    (s.reg.pacer.mask = false → (s.vd = some v → Faults (.vdStop a) s 0x0F) ∧ (s.vd ≠ some v → AMap.find s.vds v = none → Faults (.vdStop a) s 0x0E)) ∧
    (∃ t, Completes (.vdStart a) s t ∧ pcOnly s t ∧
      (∀ d, AMap.find s.vds v = some d → d.stopped = true → s.vdStopDone v = true → ∃ e, AMap.find t.vds v = some e ∧ e.stopped = false) ∧
      ((∀ d, AMap.find s.vds v = some d → d.stopped = false ∨ s.vdStopDone v = false) → s.movedOn t)) ∧
    (∀ u, let k := sramKey n; let h := u.rd k 0x400
      n % 2 ^ 20 = 0 → s.stoppedAt r = true → Memory.wf s.mem = true → s.decls = [] → s.capture r n = .ok u →
      ∃ t, Completes (.fcap a b) s t ∧ pcOnly s t ∧ t.mem = u.mem ∧ fieldLe h 0 4 = 0xC75A0E01 ∧
        fieldLe h 0x10 8 = (s.region r).pacer.pcc.cursor.toNat ∧ ∀ i : Fin 32, fieldLe h (0x100 + 8 * i.val) 8 = ((s.region r).pacer.rx (BitVec.ofNat 5 i.val)).toNat) ∧
    (∀ u, let h := s.rd (sramKey n) 0x400
      r ≠ s.cur → (s.region r).idle = true → s.restore r n = .ok u →
      ∃ t, Completes (.frst a b) s t ∧ pcOnly s t ∧ (t.region r).run = .on ∧ (t.region r).task = some (fieldLe h 8 4) ∧
        (∀ i : Fin 32, i.val ≠ 0 → (t.region r).pacer.rx (BitVec.ofNat 5 i.val) = BitVec.ofNat 64 (fieldLe h (0x100 + 8 * i.val) 8)) ∧
        (t.region r).pacer.pcc.cursor = BitVec.ofNat 64 (fieldLe h 0x10 8) ∧ (t.region r).pacer.mode = (fieldLe h 6 2).testBit 0) ∧
    (s.reg.pacer.mask = false → (n % 2 ^ 20 ≠ 0 → Faults (.fcap a b) s 0x0E) ∧ (r = s.cur → Faults (.frst a b) s 0x0F))

/-! ### Events of a region, and the Marshal -/

/-- R122, R124, R125, R127, R207, R252, R267: what comes to a region from outside its program. WFE at its limit gives 4, and SNAP.WAIT the status. A soft error
of the Field freezes it with a pending fault; one of a Pacer register, an MGC request and a fetch that fails a check trap; a pending fault that nothing hides is
delivered by trap entry, with 0x5F where another came after it. Where the event has not happened, nothing changes. -/
def Obligations.RegionEvents : Prop :=
  ∀ (s : State),
    (∀ start s1 d a, s.reg.wait = .wfe start → s.fetch = .ok (s1, .wfe d a) → s.reg.pacer.ev = 0 → s.rx a ≠ 0 → (s.rx a).toNat ≤ s.cyc - start →
      ∃ t, Completes .wfeTimeout s t ∧ t.reg.wait = .none ∧ (∀ r, t.rx r = if r = d ∧ d ≠ 0 then 4 else s.rx r) ∧
        t.reg.pacer.pcc = s.reg.pacer.pcc.withCursor s.nextPC ∧ t.mem = s.mem) ∧
    ((∀ start, s.reg.wait ≠ .wfe start) → Completes .wfeTimeout s s) ∧
    (∀ start s1 d a slot, s.reg.wait = .snap start → s.fetch = .ok (s1, .snapWait d a slot) → slot.toNat < 8 → s.reg.snap.status = .pending → s.rx a ≠ 0 →
      (s.rx a).toNat ≤ s.cyc - start → ∃ t, Completes .snapWaitTimeout s t ∧ t.reg.wait = .none ∧ t.reg.snap = s.reg.snap ∧
        (∀ r, t.rx r = if r = d ∧ d ≠ 0 then SnapStatus.pending.word else s.rx r) ∧ t.reg.pacer.pcc = s.reg.pacer.pcc.withCursor s.nextPC) ∧
    ((∀ start, s.reg.wait ≠ .snap start) → Completes .snapWaitTimeout s s) ∧
    (∀ site e, (∀ i, s.reg.insts.find? (fun i => e < i.elems.length) = some i → ∃ t, Completes (.fieldSoftError site e) s t ∧
        s.fieldFaulted t (match site with | .token => 0x5C | .state => 0x5D) (BitVec.ofNat 64 (e + i.slot * 256))) ∧
      (s.reg.insts.find? (fun i => e < i.elems.length) = none → Completes (.fieldSoftError site e) s s)) ∧
    (∀ reg, (s.reg.run = .on → s.unmasked → s.reg.wait = .none → ∃ t, Completes (.pacerRegisterSoftError reg) s t ∧
        (s.abandon s.cur).entered t 0xAC (BitVec.ofNat 64 reg)) ∧ (s.reg.run ≠ .on → Completes (.pacerRegisterSoftError reg) s s)) ∧
    (∀ code, (s.reg.run = .on → s.reg.wait = .none → s.unmasked → ∃ t, Completes (.mgcRequest code) s t ∧ s.entered t 0xAB code) ∧
      (¬(s.reg.run = .on ∧ s.reg.wait = .none ∧ s.unmasked) → Completes (.mgcRequest code) s s)) ∧
    (∀ c v, (s.fetch = .error (c, v) → s.unmasked → ∃ t, Completes (.fetchAndDecodeFault c v) s t ∧ s.entered t c v) ∧
      (∀ x, s.fetch = .ok x → Completes (.fetchAndDecodeFault c v) s s)) ∧
    (s.pc.toNat % 4 ≠ 0 → s.fetch = .error (0x09, s.pc)) ∧
    (∀ f, s.reg.pend = some f → s.reg.run = .on → s.unmasked → s.reg.wait = .none → ∃ t, Completes .pendingFaultDelivery s t ∧ t.reg.pend = none ∧
      t.mem = s.mem ∧ t.reg.pacer = { s.reg.pacer with
        fltpend := t.reg.pacer.fltpend, epc := s.pc, cause := (if f.multi then 0x5F else f.cause).zeroExtend 64, tval := f.tval, epcc := s.reg.pacer.pcc,
        pmode := s.reg.pacer.mode, mode := true, mask := true, pcc := Config.fwCode.withCursor s.reg.pacer.tvec } ∧ t.reg.pacer.fltpend.getLsbD 0 = false) ∧
    (s.reg.pend = none → Completes .pendingFaultDelivery s s)

/-- R68 to R70, R72, R84, R124, R127, R131: with one virtual device and one ready task, whose list is the only one that is not empty, a decision dispatches that task
to the lowest of its idle regions, which starts at its entry with its arguments; in an fc in which one was made, or a cancel, none is (R71 speaks of one
task; log 71, 78). A pre-emption asks every region of its victim to stop; a stop brings the Pacer to a
boundary, where a pending fault comes first, and freezes the Field, then captures the region, once its stores have reached their ports (log 74), and leaves
its task FROZEN; a cancel that has waited asks for a stop, after 2^14 fc or after its heat's
grace. -/
def Obligations.MarshalDecides : Prop :=
  ∀ (s : State),
    (∀ v (d : Vd) p id l (u : Task) r rs, s.vds = [(v, d)] → v < 32 → d.stopped = false → d.hold = none → d.pre = [] → p < 8 → d.ready.length = 8 →
      d.list p = id :: l → (∀ j, j ≠ p → d.list j = []) → s.task id = some u → u.vd = v → u.st = .ready → u.queue ≠ none → u.cancel = false → u.gang = 1 →
      s.idleFor id u = r :: rs → s.clearBad.contains r = false → s.decidedAt ≠ some s.now → s.cancelledAt ≠ some s.now →
      ∃ t w, Completes .dispatchDecision s t ∧ t.task id = some w ∧ w.st = .running ∧ w.members = [r] ∧ (t.region r).run = .on ∧
        (t.region r).task = some id ∧ (t.region r).pacer = Pacer.launch u id 0 (s.now - (s.region r).resetAt) ∧ (t.region r).pacer.pcc = u.entry ∧
        (t.region r).pacer.mode = false ∧ ∀ i < 4, (t.region r).pacer.rx (BitVec.ofNat 5 (10 + i)) = u.args.getD i 0) ∧
    (s.vds = [] ∨ s.decidedAt = some s.now ∨ s.cancelledAt = some s.now → Completes .dispatchDecision s s) ∧
    (∀ v id victim u, s.vds.findSome? (fun p => if p.2.stopped then none else (s.preemption p.2).map (fun x => (p.1, x))) = some (v, id, victim) →
      s.task victim = some u → ∃ t, Completes .preemptionRequest s t ∧ t.mem = s.mem ∧ t.tasks = s.tasks ∧
        ∀ r, (t.region r).stop = if r ∈ u.members then some ((s.region r).stop.getD 0xA0) else (s.region r).stop) ∧
    ((∀ p ∈ s.vds, p.2.stopped = true ∨ s.preemption p.2 = none) → Completes .preemptionRequest s s) ∧
    (s.reg.stop = none → Completes .stop s s) ∧
    (∀ c id u, s.reg.stop = some c → s.reg.task = some id → s.task id = some u → u.fate = 0 → s.faultDue = false →
      (s.reg.run = .on → c ≠ 0xAA → s.mayAbandon s.cur = true → let x := s.abandon s.cur
        (x.faultDue = false → ∃ t, Completes .stop s t ∧ t.reg.run = .stopped ∧ t.reg.frozen = true ∧
          t.reg.wait = .none ∧ t.reg.stop = some c ∧ t.reg.pacer = s.reg.pacer) ∧
        (∀ f, x.faultDue = true → s.reg.pend = some f → ∃ t, Completes .stop s t ∧ t.reg.pend = none ∧ t.reg.stop = some c ∧
          t.reg.pacer.cause = (if f.multi then 0x5F else f.cause).zeroExtend 64 ∧ t.reg.pacer.epc = s.pc ∧ t.reg.pacer.mode = true ∧ t.reg.pacer.mask = true)) ∧
      (s.reg.run = .stopped → ¬(s.reg.wait = .none ∧ s.settled s.cur = true) → Completes .stop s s) ∧
      (∀ x, s.reg.run = .stopped → s.reg.wait = .none → s.settled s.cur = true → c ≠ 0xA2 → c ≠ 0xA3 → u.cancel = false → u.members = [s.cur] → u.captured = [] →
        s.capture s.cur s.reg.pacer.savebase.toNat = .ok x → ∃ t w, Completes .stop s t ∧ t.reg.task = none ∧ t.task id = some w ∧ w.st = .frozen ∧
        w.members = [] ∧ w.halted = (c == 0xA1 || (AMap.find s.vds u.vd).any (·.stopped)) ∧ w.saves.getD 0 0 = s.reg.pacer.savebase.toNat)) ∧
    (∀ id u, s.reg.task = some id → s.task id = some u → u.cancel = true → u.fate = 0 →
      (u.grace = none → s.cancelAged 16384 = true → ∃ t, Completes .forcedFreeze s t ∧ t.mem = s.mem ∧ t.tasks = s.tasks ∧
        ∀ r ∈ u.members, (t.region r).stop = some ((s.region r).stop.getD 0xA2)) ∧
      (∀ h n, u.grace = some (h, n) → s.cancelAged n = true → ∃ t, Completes .graceFreeze s t ∧ t.mem = s.mem ∧ t.tasks = s.tasks ∧
        ∀ r ∈ u.members, (t.region r).stop = some ((s.region r).stop.getD 0xA3))) ∧
    (s.reg.task = none → Completes .forcedFreeze s s ∧ Completes .graceFreeze s s)

/-! ### The ordering machine's own steps, the host, and the links -/

/-- R15, R16, R21, R157, R158, R161, R165, R167, R174, R180, R201, R277: PASS moves the oldest request of a level and port to the next level, and ADMIT the
oldest inbound request of an issuer whose order lets it to the port queue; SERVE takes the head of a declaration's queue and answers a read that stands there;
COMBINE makes one request of every rank's contribution to an element. No byte of memory changes. Where nothing can move, nothing changes. -/
def Obligations.OrderingMoves : Prop :=
  ∀ (s : State),
    (∀ l unit p, let here := match l with | .cq => Stage.cq s.cur (unit / 128) (unit % 128) | .rq => .rq s.cur | .dq => .dq unit
      (∀ q, s.reqs.find? (fun q => q.stage == here && q.port == p) = some q → Completes (.pass l unit p) s
        { s with reqs := s.reqs.filter (fun r => r.stamp != q.stamp) ++
          [{ q with stage := match l with | .cq => .rq s.cur | .rq => .dq (s.cur / 32) | .dq => .pq }] }) ∧
      (s.reqs.find? (fun q => q.stage == here && q.port == p) = none → Completes (.pass l unit p) s s)) ∧
    (∀ peer n, let here := if peer then Stage.inPeer n else .inHost n
      (∀ q, s.reqs.find? (fun q => q.stage == here) = some q →
        let held := ∃ e ∈ s.reqs, e.stage = .pq ∧ (if peer then e.issuer = .peer n else e.issuer = .host n ∧ e.posted = true)
        (¬held → Completes (.admitReq peer n) s { s with reqs := s.reqs.filter (fun r => r.stamp != q.stamp) ++ [{ q with stage := .pq }] }) ∧
        (held → Completes (.admitReq peer n) s s)) ∧
      (s.reqs.find? (fun q => q.stage == here) = none → Completes (.admitReq peer n) s s)) ∧
    (∀ p g d m rest, AMap.find s.decls g = some d → AMap.findD d.mq (portNum p) [] = m :: rest →
      ∃ t e, Completes (.serve p g) s t ∧ AMap.find t.decls g = some e ∧ t.mem = s.mem ∧ t.regions = s.regions ∧ t.reqs = s.reqs ∧
        (∀ j, j ≠ g → AMap.find t.decls j = AMap.find s.decls j) ∧ (∀ i, m = .rescan i → AMap.findD e.mq (portNum p) [] = rest) ∧
        (∀ st iss va port idxs, m = .reply st iss va port idxs → AMap.findD e.mq (portNum p) [] = rest ∧ e.parts = d.parts ∧
          ∃ r, t.resps = s.resps ++ [r] ∧ r.stamp = st ∧ r.issuer = iss ∧ r.bytes = idxs.flatMap (fun i => (d.part (portNum p) i).bytes) ∧
            r.cause = if d.lost ∨ ∃ i ∈ idxs, (d.part (portNum p) i).spoilt = true then some 0x8B else none)) ∧
    (∀ p g, AMap.find s.decls g = none → Completes (.serve p g) s s) ∧
    (∀ w e x, AMap.find s.windows w = some x →
      let cs := (List.range x.n).map (fun r => s.contribution w e r); let size := if x.fmt = 2 then 2 else 4
      (0 < x.n → (∀ c ∈ cs, c ≠ none) → ∃ t q, Completes (.combine w e) s t ∧ t.mem = s.mem ∧
        t.reqs = s.reqs.filter (fun q => !(cs.filterMap id).any (fun p => p.1.stamp == q.stamp)) ++ [q] ∧ q.issuer = .window w ∧ q.stage = .pq ∧
        q.key = x.home + size * e ∧ q.port = portOf q.key ∧
        q.act = .combined e (BitVec.ofNat 64 (reduceTree x.step 64 ((cs.filterMap id).map (fun p => p.2.toNat % 256 ^ size)))) size
          ((cs.filterMap id).filterMap (fun p => if p.1.issuer.here then some (p.1.issuer, p.1.va, p.1.stamp) else none))) ∧
      ((x.n = 0 ∨ ∃ c ∈ cs, c = none) → Completes (.combine w e) s s)) ∧
    (∀ q bs r, s.hostWrite = none → s.reqs.find? (fun q => q.stage == .pq && q.port == .host) = some q → q.act = .write (plain bs) .keep → q.issuer = .pacer r →
      Memory.wf s.mem = true → s.linkFault q = none → (s.dropReq q).refuses q.key (plain bs) q.cmpr 1 = none →
      ∃ u, Completes .writeWithCompletion s (if q.mayClaim then u.deadQueues q.key else u) ∧
        (∀ k, Memory.get u.mem k = if q.key ≤ k ∧ k < q.key + bs.length then bs.getD (k - q.key) 0 else Memory.get s.mem k) ∧
        u.resps = s.resps ++ [{ stamp := q.stamp, issuer := q.issuer, va := q.va, port := .host, bytes := [], flag := true, cause := none }]) ∧
    (s.hostWrite = none → s.reqs.find? (fun q => q.stage == .pq && q.port == .host) = none → Completes .writeWithCompletion s s)

namespace Sys2Proof.Claims

/-- Requests of a host thread enter its inbound queue at some places with some effects; one that is not posted waits for its completion. No byte of
memory and no region changes (R14, R16). -/
def hostSends (s t : State) (thread : Nat) (posted : Bool) (ps : List (Nat × Nat × Port × Bool)) (acts : List Act) : Prop :=
  ∃ qs, t.reqs = s.reqs ++ qs ∧ qs.map (fun q => (q.issuer, q.stage, q.key, q.port, q.posted, q.act)) =
      (ps.zip acts).map (fun p => (Issuer.host thread, Stage.inHost thread, p.1.1, p.1.2.2.1, posted, p.2)) ∧
    t.hostOps = (if posted then s.hostOps else s.hostOps ++ [{ thread := thread, ids := qs.map (·.stamp), got := [], ok := true }]) ∧ t.mem = s.mem ∧
    t.regions = s.regions ∧ t.hostResps = s.hostResps

/-- Bytes dealt out to the places of a host write. -/
def hostActs : List (Nat × Nat × Port × Bool) → List Byte → List Act
  | [], _ => []
  | p :: ps, bs => .write (plain (bs.take p.2.1)) .keep :: hostActs ps (bs.drop p.2.1)

end Sys2Proof.Claims

/-- R14 to R18: a host request within its limits enters its thread's queue while the Isaud link is up, with the bytes that it reads, writes or changes; a
read, a write with completion or an atomic whose address does not translate, and an atomic that is not aligned, completes with status
UNSUPPORTED, which its thread consumes in its turn, and a posted write is discarded (log 62); with the link down nothing happens. -/
def Obligations.HostRequests : Prop :=
  ∀ (s : State) thread ap addr n bytes (v w : Word) (x : BitVec 32), let places := s.hostPlaces ap addr
    let no := fun (t : State) => t.reqs = s.reqs ∧ t.mem = s.mem ∧ t.regions = s.regions ∧
      ((∀ o ∈ s.hostOps, o.thread ≠ thread) → t = { s with hostResps := s.hostResps ++ [{ thread := thread, ok := false, bytes := [] }] }) ∧
      (∀ o, s.hostOps.find? (fun o => o.thread == thread) = some o → o.complete = false →
        t = { s with hostOps := s.hostOps ++ [{ thread := thread, ids := [], got := [], ok := false }] })
    let atom := fun (i : Instr) (m : Nat) (op : AmoOp) (a c : Word) =>
      (s.isaudUp = true → addr % m ≠ 0 → ∃ t, Completes i s t ∧ no t) ∧
      (s.isaudUp = true → addr % m = 0 → (places m .store = none → ∃ t, Completes i s t ∧ no t) ∧
        (∀ ps, places m .store = some ps → ∃ t, Completes i s t ∧ hostSends s t thread false ps (ps.map (fun _ => .amo op m a c)))) ∧
      (s.isaudUp = false → Completes i s s)
    (s.hostMay addr n = true → (places n .read = none → ∃ t, Completes (.hostRead thread ap addr n) s t ∧ no t) ∧
      (∀ ps, places n .read = some ps → ∃ t, Completes (.hostRead thread ap addr n) s t ∧ hostSends s t thread false ps (ps.map (fun p => .read p.2.1)))) ∧
    (s.hostMay addr n = false → Completes (.hostRead thread ap addr n) s s) ∧
    (s.hostMay addr bytes.length = true → (places bytes.length .store = none → Completes (.postedWrite thread ap addr bytes) s s) ∧
      (∀ ps, places bytes.length .store = some ps → ∃ t, Completes (.postedWrite thread ap addr bytes) s t ∧ hostSends s t thread true ps (hostActs ps bytes))) ∧
    (∀ o : State, s.hostWrite = none → o = { s with hostWrite := some { thread := thread, ap := ap, addr := addr, bytes := bytes } } →
      (s.hostMay addr bytes.length = true → (places bytes.length .store = none → ∃ t, Completes .writeWithCompletion o t ∧ no t) ∧
        (∀ ps, places bytes.length .store = some ps → ∃ t, Completes .writeWithCompletion o t ∧ hostSends s t thread false ps (hostActs ps bytes))) ∧
      (s.hostMay addr bytes.length = false → Completes .writeWithCompletion o s)) ∧
    atom (.fadd64 thread ap addr v) 8 .add v 0 ∧ atom (.swap64 thread ap addr v) 8 .swap v 0 ∧
    atom (.fadd32 thread ap addr x) 4 .add (x.zeroExtend 64) 0 ∧ atom (.cas64 thread ap addr v w) 8 .cas w v

namespace Sys2Proof.Claims

/-- A link event: one log record, no request of this device to the ports that are lost, and for each that was there a report of the cause (R18, R22,
R32, R122). -/
def linkLost (s t : State) (ports : Port → Bool) (c : Byte) : Prop :=
  s.mgc.logSeq < t.mgc.logSeq ∧ (∀ q ∈ t.reqs, ¬(q.issuer.here = true ∧ ports q.port = true)) ∧
    ∀ q ∈ s.reqs, q.issuer.here = true → ports q.port = true → ∃ r ∈ t.resps, r.stamp = q.stamp ∧ r.issuer = q.issuer ∧ r.cause = some (causeFor q.issuer c)

end Sys2Proof.Claims

/-- R18, R20 to R22, R122, R277: a failed link, a reset peer and a dissolved tree fault the outstanding requests that need them, with the link's cause and a log
record; one Celcen port that fails moves its paths to the other once the requests in flight on it are done; a completion that has been out for 2^22 fc times
out, the oldest first (log 63); a peer's request, translated as Config.peerVd says (log 62), enters its inbound queue; a communicator gives ranks, paths and
windows, on the port that is up where one is down (log 64). One record for each port that is lost is log 61. An event that has happened already changes nothing. -/
def Obligations.LinkEvents : Prop :=
  ∀ (s : State),
    (s.isaudUp = true → ∃ t, Completes .isaudLinkDown s t ∧ t.isaudUp = false ∧ t.hostOps = [] ∧ linkLost s t (· == .host) 0xB0 ∧
      ∀ q ∈ t.reqs, ∀ n, q.stage ≠ .inHost n) ∧
    (s.isaudUp = false → Completes .isaudLinkDown s s) ∧
    (s.mgc.boot ≠ .power → Completes .isaudLinkReconnect s { s with isaudUp := true }) ∧
    (s.mgc.boot = .power → Completes .isaudLinkReconnect s s) ∧
    (s.celcen0Up = true ∨ s.celcen1Up = true → ∃ t, Completes .celcenBothPortsDown s t ∧ t.celcen0Up = false ∧ t.celcen1Up = false ∧
      t.mgc.logSeq = s.mgc.logSeq + (if s.celcen0Up then 1 else 0) + (if s.celcen1Up then 1 else 0) ∧
      ∀ q ∈ t.reqs, ¬(q.issuer.here = true ∧ Port.isPeer q.port = true)) ∧
    (s.celcen0Up = false → s.celcen1Up = false → Completes .celcenBothPortsDown s s) ∧
    (∀ second, (if second then s.celcen1Up else s.celcen0Up) = true → (if second then s.celcen0Up else s.celcen1Up) = true →
      ∃ t, Completes (.celcenPortFail second) s t ∧ t.reqs = s.reqs ∧ t.comm = { s.comm with moved := some (second, s.stamp) } ∧
        (∀ r, s.formedPath (.peer r) = some second → t.peerPath r = some (if s.drains second s.stamp then second else !second)) ∧
        (if second then t.celcen1Up else t.celcen0Up) = false ∧ (if second then t.celcen0Up else t.celcen1Up) = true ∧ t.mgc.logSeq = s.mgc.logSeq + 1) ∧
    (∀ second, (if second then s.celcen1Up else s.celcen0Up) = false → Completes (.celcenPortFail second) s s) ∧
    (∀ r b, s.peerPath r = some b → s.deadPeers.contains r = false → ∃ t, Completes (.peerDeviceReset r) s t ∧ t.deadPeers.contains r = true ∧ linkLost s t (· == .peer r) 0xBF) ∧
    (∀ r, s.peerPath r = none ∨ s.deadPeers.contains r = true → Completes (.peerDeviceReset r) s s) ∧
    (∀ d, s.deadDies.contains d = true → Completes (.dieLinkFailure d) s s) ∧
    (∀ d, s.deadDies.contains d = false → ∃ t, Completes (.dieLinkFailure d) s t ∧ t.deadDies.contains d = true ∧ t.mgc.logSeq = s.mgc.logSeq + 1 ∧
      ∀ q ∈ t.reqs, q.issuer.here = true → (∀ i, q.issuer ≠ .bank i) → t.cut (t.issuerDie q.issuer) q.port = false) ∧
    (∀ q, s.reqs.find? (fun q => q.port == .host && q.issuer.here && s.now - q.born ≥ 2 ^ 22) = some q →
      ∃ t, Completes (.completionTimeout .host) s t ∧ t.reqs = s.reqs.filter (fun r => r.stamp != q.stamp) ∧ t.mgc.logSeq = s.mgc.logSeq + 1 ∧
        ∃ r, t.resps = s.resps ++ [r] ∧ r.stamp = q.stamp ∧ r.issuer = q.issuer ∧ r.cause = some (causeFor q.issuer 0xB2)) ∧
    (∀ p, s.reqs.find? (fun q => q.port == p && q.issuer.here && s.now - q.born ≥ 2 ^ 22) = none → Completes (.completionTimeout p) s s) ∧
    (∀ peer addr n b pa cm, s.peerPath peer = some b → s.deadPeers.contains peer = false → s.celcen0Up = true → pieces addr n = [(addr, n)] →
      s.translate (some (Config.peerVd peer)) addr .read 0x34 = .ok (pa, cm) →
      ∃ t q, Completes (.peerRequestArrival peer addr (.read n)) s t ∧ t.reqs = s.reqs ++ [q] ∧ q.issuer = .peer peer ∧ q.stage = .inPeer peer ∧
        q.key = hbmKey pa ∧ q.act = .read n ∧ t.mem = s.mem) ∧
    (∀ peer addr op, s.peerPath peer = none → Completes (.peerRequestArrival peer addr op) s s) ∧
    (∀ rank n paths ws, (ws.map (·.window)).Nodup → ∃ t, Completes (.communicatorFormation rank n paths ws) s t ∧
      t.comm = { rank := rank, size := n, paths := paths, treeUp := true, moved := if s.celcen0Up = s.celcen1Up then none else some (s.celcen0Up, 0) } ∧ t.mem = s.mem ∧ t.reqs = s.reqs ∧ ∀ w ∈ ws, ∃ x, AMap.find t.windows w.window = some x ∧
        x.n = w.n ∧ x.ranks = w.ranks ∧ x.elems = w.elems ∧ x.fmt = w.fmt ∧ x.home = hbmKey w.home) ∧
    (s.comm.treeUp = false → Completes .reductionTreeDissolved s s) ∧
    (s.comm.treeUp = true → ∃ t, Completes .reductionTreeDissolved s t ∧ t.comm = { s.comm with treeUp := false } ∧ t.mgc.logSeq = s.mgc.logSeq + 1 ∧
      (∀ q ∈ t.reqs, ∀ w, q.stage ≠ .rp w) ∧ ∀ q ∈ s.reqs, ∀ w, q.stage = .rp w → ∃ r ∈ t.resps, r.stamp = q.stamp ∧ r.cause = some (causeFor q.issuer 0xBE))

/-! ### Queues, packets and virtual devices -/

namespace Sys2Proof.Claims

/-- One journal entry more, and of the state's tasks, virtual devices and regions none is touched (R57). -/
def oneEntry (s t : State) : Prop := t.jnl.wr = s.jnl.wr + 1 ∧ t.tasks = s.tasks ∧ t.vds = s.vds

/-- Packet p of copy queue q has become a command of its BTE under the next stamp, and is marked as started (R47, R48). -/
def handedOver (s t : State) (qid : Nat) (q : Queue) (p : Pkt) : Prop :=
  AMap.find t.btes s.stamp = some (p.bte qid q) ∧ t.mem = s.mem ∧ t.jnl = s.jnl ∧
    ∃ q', t.queue qid = some q' ∧ q'.r = q.r ∧ ∀ x ∈ q'.pend, x.seq = p.seq → x.started = true

/-- Packet p of queue q, with operation opc, is the one that starts next, and no other of the queue has its sequence number (R37, R44, R45, R48). -/
def startsNext (s : State) (qid : Nat) (q : Queue) (p : Pkt) (opc : Nat) : Prop :=
  s.queue qid = some q ∧ q.nextPkt = some p ∧ p.opc = opc ∧ q.destroying = [] ∧ ∀ x ∈ q.pend, x.seq = p.seq → x = p

end Sys2Proof.Claims

/-- R37 to R42, R57, R58, R76: a consumer that may work reads the granules of its slot, the last one first, and the others once that shows the current PHASE,
which stops the stall timer. With the fourth it accepts the packet as soon as it may: RIDX advances, one ACCEPT entry and one reservation are made,
and a packet that fails a check has its outcome at once. Where the PHASE is not current the stall timer runs, and past its limit the queue stalls
with a STALL entry, which waits where the journal has no room, and is dropped, with the queue back to RUN, where the packet comes first. While the journal
has no room for a packet, or the Marshal none for a task, the timer does not run. -/
def Obligations.QueueConsumers : Prop :=
  ∀ (s : State) qid (q : Queue), s.queue qid = some q →
    (s.consuming q = true → q.r < s.widx q →
      (q.seen = [] → (∀ g, s.slotLast q = some g → ∃ t y, Completes (.packetConsume qid) s t ∧ t.queue qid = some y ∧ y.seen = [g] ∧ y.waitFrom = none ∧
          y.heldStall = false ∧ y.r = q.r ∧ y.pend = q.pend ∧ y.state = (if q.heldStall = true ∧ q.state = .stalled then .run else q.state) ∧ t.jnl = s.jnl) ∧
        (s.slotLast q = none → ∃ t, Completes (.packetConsume qid) s t ∧ t.queue qid = some { q with waitFrom := some (q.waitFrom.getD s.now) } ∧
          t.jnl = s.jnl)) ∧
      (∀ g, q.seen ≠ [] → q.seen.length < 3 → s.slotGranule q (q.seen.length - 1) = some g →
        Completes (.packetConsume qid) s (s.putQueue qid { q with seen := q.seen ++ [g] })) ∧
      (∀ a b c e v, let bs := b ++ c ++ e ++ a; let w := pktWord bs; let opc := w 0 % 256
        (q.seen = [a, b, c] ∧ s.slotGranule q 2 = some e ∧ v = s.putQueue qid { q with seen := [a, b, c, e] } ∨ q.seen = [a, b, c, e] ∧ v = s) →
        (v.mayAccept q bs = false → Completes (.packetConsume qid) s v) ∧
        (v.mayAccept q bs = true → v.refusal q bs = none →
          ∃ t y p, Completes (.packetConsume qid) s t ∧ t.queue qid = some y ∧ y.r = q.r + 1 ∧ y.seen = [] ∧ y.pend = q.pend ++ [p] ∧ p.seq = q.r ∧ p.bytes = bs ∧
            p.started = false ∧ p.caps = v.packetCaps q w opc ∧ t.jnl.wr = s.jnl.wr + 1 ∧ t.jnl.resv = s.jnl.resv + 1 ∧ t.tasks = s.tasks) ∧
        (∀ f, v.mayAccept q bs = true → v.refusal q bs = some f → (∀ x ∈ q.pend, x.seq ≠ q.r) →
          ∃ t y, Completes (.packetConsume qid) s t ∧ t.queue qid = some y ∧ y.r = q.r + 1 ∧ y.pend = q.pend ∧ t.jnl.wr = s.jnl.wr + 2 ∧
            t.jnl.resv = s.jnl.resv ∧ t.tasks = s.tasks))) ∧
    (s.consuming q = false → Completes (.packetConsume qid) s s) ∧
    (∀ t0, q.waitFrom = some t0 → s.consuming q = true → q.state = .run → q.r < s.widx q → s.slotReady q = false → s.timerOff q = false → q.stall ≤ s.now - t0 →
      ∃ t q', Completes (.queueStall qid) s t ∧ t.queue qid = some q' ∧ q'.state = .stalled ∧ q'.r = q.r ∧
        (let room := (s.queueState qid .stalled q.r).room; (3 ≤ room → oneEntry s t) ∧ (room < 3 → q'.heldStall = true ∧ t.jnl = s.jnl))) ∧
    (q.waitFrom = none ∨ s.room < 2 ∨ (q.kind = 1 ∧ taskLimit ≤ s.tracked) → Completes (.queueStall qid) s s) ∧
    (∀ fc t0, q.waitFrom = some t0 → (s.room < 2 ∨ (q.kind = 1 ∧ taskLimit ≤ s.tracked)) → (s.holdTimers fc).queue qid = some { q with waitFrom := some (t0 + fc) }) ∧
    (q.heldStall = true → q.state = .stalled → s.slotReady q = true → ∃ t y, Completes (.stallEntryWrite qid) s t ∧ t.jnl = s.jnl ∧ t.queue qid = some y ∧
      y.heldStall = false ∧ y.state = .run) ∧
    (q.heldStall = true → q.state = .stalled → s.slotReady q = false → 3 ≤ s.room → ∃ t, Completes (.stallEntryWrite qid) s t ∧ oneEntry s t ∧
      t.queue qid = some { q with heldStall := false }) ∧
    (¬(q.heldStall = true ∧ q.state = .stalled ∧ (s.slotReady q = true ∨ 3 ≤ s.room)) → Completes (.stallEntryWrite qid) s s)

/-- R45 to R48, R62 to R65: the packets of task and copy queues. A LAUNCH of a TCB that passes its checks puts the task, with its arguments and entry, into the
graph, WAITING or READY. A CANCEL of a task that is there has outcome OK, and else NOTFOUND: a task that does not run is gone at once, or, frozen with stores
that hold it back, once they have been applied; a running one learns of it, and one that was dispatched in this fc keeps the cancel pending, and learns of it in
a later one (log 78). A NOTIFY stores its word, or has outcome FAULT with the cause (log 49). COPY, STRIDED and FILL become commands of the queue's BTE. -/
def Obligations.QueuePackets : Prop :=
  ∀ (s : State) qid (q : Queue) (p : Pkt), let u := s.markStarted qid p.seq
    (startsNext s qid q p 0x01 → ∀ b, let c := p.caps.getD 0 Cap.null
      let t0 := b.task q.vd p.taskId c (some (qid, p.seq)) ((List.range 4).map (fun i => BitVec.ofNat 64 (p.w (2 + i)))) (p.caps.getD 1 Cap.null) (p.caps.getD 2 Cap.null)
      u.readTcb q.vd c = .ok b → b.state = 0 → u.tcbFault b t0 = none → u.heatCheck t0 = some false →
      ∃ t w, Completes (.launch qid) s t ∧ t.task p.taskId = some w ∧ (w.st = .waiting ∨ w.st = .ready) ∧ w.entry = b.entry ∧ w.args = t0.args ∧
        w.queue = some (qid, p.seq) ∧ w.c1 = t0.c1 ∧ w.c2 = t0.c2 ∧ ∀ i, i ≠ p.taskId → t.task i = s.task i) ∧
    (startsNext s qid q p 0x02 →
      (s.cancellable q.vd (p.w 1) = false → ∃ t, Completes (.cancel qid) s t ∧ outcomeIs s t qid q p resNotfound 0 ∧ t.tasks = s.tasks) ∧
      (∀ w, s.task (p.w 1) = some w → w.vd = q.vd →
        (w.st = .running ∨ w.st = .runningTrig → w.fate = 0 → w.cancel = false → ∃ t, Completes (.cancel qid) s t ∧ outcomeIs s t qid q p resOk 0 ∧
          (∀ i, i ≠ p.w 1 → t.task i = s.task i) ∧
          (w.since < s.now → (∀ m ∈ w.members, (t.region m).cancelAt = some s.now) ∧
            ∃ y, t.task (p.w 1) = some y ∧ y.cancel = true ∧ y.grace = none ∧ y.members = w.members ∧ (y.st = .cancelling ↔ w.st = .running)) ∧
          (s.now ≤ w.since → (∃ y, t.task (p.w 1) = some y ∧ y.cancel = true ∧ y.st = w.st ∧ y.members = w.members) ∧
            t.cancels = s.cancels ++ [{ task := p.w 1, at_ := s.now, grace := none, casc := false }])) ∧
        (w.st = .waiting ∨ w.st = .ready ∨ (w.st = .frozen ∧ w.fate = 0 ∧ s.holdsBack w 7 = false) → w.queue ≠ none →
          ¬(w.st = .frozen ∧ w.cancel = true ∧ s.now = w.since) → ∃ t, Completes (.cancel qid) s t ∧ t.task (p.w 1) = none ∧
          ∀ y, t.queue qid = some y → ∀ x ∈ y.pend, x.seq ≠ p.seq) ∧
        (w.st = .frozen → w.fate = 0 → ¬(w.cancel = true ∧ s.now = w.since) → s.holdsBack w 7 = true →
          ∃ t y, Completes (.cancel qid) s t ∧ outcomeIs s t qid q p resOk 0 ∧ t.task (p.w 1) = some y ∧ y.st = .frozen ∧ y.fate = 7))) ∧
    (startsNext s qid q p 0x03 → let c := p.caps.getD 0 Cap.null; let a := c.cursor.toNat; let bs := leBytes 8 (p.w 2)
      (∀ k cm, let v := u.applyWrite k (plain bs) cm
        u.unitLink c a = none → u.unitKeys q.vd c a 8 permStore kindWrite .store = .ok [(k, 8, cm)] → u.refuses k (plain bs) cm 1 = none →
        Memory.wf s.mem = true → k + 8 ≤ apKey 0 → (∀ x ∈ v.queues, v.widx x.2 < 2 ^ 48) →
        ∃ t, Completes (.notify qid) s t ∧ outcomeIs s t qid q p resOk 0 ∧ t.rdWord k = p.w 2 ∧ t.tasks = s.tasks ∧
          ∀ j < apKey 0, ¬(k ≤ j ∧ j < k + 8) → Memory.get t.mem j = Memory.get s.mem j) ∧
      (∀ f, (u.unitLink c a = some f ∨ (u.unitLink c a = none ∧ u.unitWrite q.vd c a bs = .error f)) →
        ∃ t, Completes (.notify qid) s t ∧ outcomeIs s t qid q p resFault f.toNat ∧ t.tasks = s.tasks)) ∧
    (startsNext s qid q p 0x10 → ∃ t, Completes (.copy qid) s t ∧ handedOver s t qid q p) ∧
    (startsNext s qid q p 0x11 → ∃ t, Completes (.strided qid) s t ∧ handedOver s t qid q p) ∧
    (startsNext s qid q p 0x12 → ∃ t, Completes (.fill qid) s t ∧ handedOver s t qid q p) ∧
    (s.queue qid = none → ∀ i ∈ [Instr.launch qid, .cancel qid, .notify qid, .copy qid, .strided qid, .fill qid], Completes i s s)

/-- R43, R49 to R55, R134, R358: the control packets, each with one outcome entry. Q.CREATE puts a queue into service at sequence number 0; Q.DESTROY takes one
with no pending packet away; Q.SKIP passes the slot at which a queue is stalled; CAPT.SET writes an entry with its tag; VD.CREATE, VD.STOP, VD.START and
VD.DESTROY make, stop, restart and remove a virtual device; VD.DIRTY, VD.EXPORT and FW.INFO write their records to the host, and VD.IMPORT brings the listed
queues into service. That a queue runs after Q.SKIP is the model's choice (log 43), that VD.DESTROY forgets the device's tasks is as well (log 48), and so are
the FAULT of a VD.CREATE with no region group left (log 77), of a VD.EXPORT that meets an uncorrectable completion object (log 44), and of Q.CREATE, CAPT.SET
and VD.IMPORT where a port refuses a write (log 45). -/
def Obligations.ControlPackets : Prop :=
  ∀ (s : State) (q0 : Queue) (p : Pkt), let u := s.markStarted 0 p.seq; let v := p.vd
    (startsNext s 0 q0 p 0x20 → ∀ ws, s.queue p.qid = none → AMap.find s.vds v ≠ none → v ≤ 31 → let cfg := p.w 5
      let nq : Queue := { vd := v, kind := cfg % 16, log2n := bitsOf cfg 4 4, bte := bitsOf cfg 8 6, desc := p.w 2, ring := p.w 3, capt := p.w 4, stall := p.w 6, state := .run, seqAt := 0, r := 0, waitFrom := none, heldStall := false, used := false, destroying := [], pend := [], seen := [] }
      u.queueLoc nq nq.desc ≠ none → u.createWrites nq = some ws →
      ((u.devWrites ws).2 = none → ∃ t, Completes .qCreate s t ∧ outcomeIs s t 0 q0 p resOk 0 ∧ t.queue p.qid = some nq) ∧
      (∀ f, (u.devWrites ws).2 = some f → ∃ t, Completes .qCreate s t ∧ outcomeIs s t 0 q0 p resFault f.toNat ∧ t.queue p.qid = none)) ∧
    (startsNext s 0 q0 p 0x21 → ∀ x, p.qid ≠ 0 → s.queue p.qid = some x → x.pend = [] → x.destroying = [] → (∀ d, AMap.find s.vds x.vd = some d → d.stopped = false) →
      ∃ t, Completes .qDestroy s t ∧ outcomeIs s t 0 q0 p resOk 0 ∧ t.queue p.qid = none) ∧
    (startsNext s 0 q0 p 0x22 → ∀ x, p.qid ≠ 0 → s.queue p.qid = some x → x.state = .stalled → x.r = p.w 2 →
      ∃ t y, Completes .qSkip s t ∧ t.queue p.qid = some y ∧ y.r = x.r + 1 ∧ y.state = .run ∧ t.jnl.wr = s.jnl.wr + 2) ∧
    (startsNext s 0 q0 p 0x23 → ∀ x d c, let k := hbmKey (x.capt + 16 * (p.w 1 % 256))
      p.qid ≠ 0 → s.queue p.qid = some x → AMap.find s.vds x.vd = some d → Cap.root (p.w 4 % 8) (bitsOf (p.w 4) 8 7) (p.w 2) (p.w 3) = some c →
      d.root (p.w 4 % 8) (p.w 2) (p.w 3) (bitsOf (p.w 4) 8 7) = true → isHbm k = true → Memory.wf s.mem = true →
      (u.refuses k (plain c.bytes) false 1 = none → ∃ t, Completes .captSet s t ∧ outcomeIs s t 0 q0 p resOk 0 ∧ t.tagAt k = true ∧ t.rd k 16 = c.bytes) ∧
      (∀ f, u.refuses k (plain c.bytes) false 1 = some f → ∃ t, Completes .captSet s t ∧ outcomeIs s t 0 q0 p resFault f.toNat ∧ t.tagAt k = s.tagAt k)) ∧
    (startsNext s 0 q0 p 0x30 → v ≤ 31 → p.w 2 % 2 ^ 32 ≠ 0 → (∀ r ∈ s.clearBad, (p.w 2).testBit (r / 8) = false) → AMap.find s.vds v = none → (∀ d ∈ s.vds, d.2.groups &&& BitVec.ofNat 32 (p.w 2) = 0) → p.w 5 % 4096 = 0 → p.w 6 % 4096 = 0 →
      p.w 5 + p.w 6 ≤ 2 ^ 48 → ∃ t d, Completes .vdCreatePacket s t ∧ outcomeIs s t 0 q0 p resOk 0 ∧ AMap.find t.vds v = some d ∧ d.stopped = false ∧
        d.groups = BitVec.ofNat 32 (p.w 2) ∧ d.ptRoot = p.w 3 ∧ d.ready = List.replicate 8 []) ∧
    (startsNext s 0 q0 p 0x30 → v ≤ 31 → p.w 2 % 2 ^ 32 ≠ 0 → (∀ g < 32, (p.w 2).testBit g = true → ∃ r ∈ s.clearBad, ∃ w, r / 8 = g ∧ AMap.find s.owners g = some w ∧ w ≠ v) → AMap.find s.vds v = none →
      p.w 2 < 2 ^ 32 → (∀ d ∈ s.vds, d.2.groups &&& BitVec.ofNat 32 (p.w 2) = 0) → p.w 5 % 4096 = 0 → p.w 6 % 4096 = 0 → p.w 5 + p.w 6 ≤ 2 ^ 48 →
      ∃ t, Completes .vdCreatePacket s t ∧ outcomeIs s t 0 q0 p resFault 0xAD ∧ t.vds = s.vds) ∧
    (startsNext s 0 q0 p 0x31 → ∀ d, AMap.find s.vds v = some d → d.stopped = true → s.vdStopDone v = true → (∀ x ∈ s.queues, x.2.kind = 3 ∨ x.2.vd ≠ v) →
      ∃ t, Completes .vdDestroy s t ∧ outcomeIs s t 0 q0 p resOk 0 ∧ AMap.find t.vds v = none ∧ ∀ i w, t.task i = some w → w.vd ≠ v) ∧
    (startsNext s 0 q0 p 0x32 → ∀ d, (∀ x ∈ q0.pend, x.started = false) → AMap.find s.vds v = some d →
      ∃ t e, Completes .vdStopPacket s t ∧ AMap.find t.vds v = some e ∧ e.stopped = true) ∧
    (∀ x, s.queue 0 = some q0 → q0.destroying = [] → q0.pend.find? (fun p => p.started && p.opc == 0x32 && s.vdStopDone p.vd) = some x →
      (∀ y ∈ q0.pend, y.seq = x.seq → y = x) → ∃ t, Completes .vdStopPacket s t ∧ outcomeIs s t 0 q0 x resOk 0) ∧
    (startsNext s 0 q0 p 0x33 → ∀ d, AMap.find s.vds v = some d → d.stopped = true → s.vdStopDone v = true →
      ∃ t e, Completes .vdStartPacket s t ∧ outcomeIs s t 0 q0 p resOk 0 ∧ AMap.find t.vds v = some e ∧ e.stopped = false) ∧
    (startsNext s 0 q0 p 0x34 → ∀ bits x, AMap.find s.vds v ≠ none → s.hostOk (p.w 4) ((p.w 3 + 7) / 8) = true → u.dirtyBits v (p.w 3) (p.w 2) = (bits, x) →
      ∃ t, Completes .vdDirtyPacket s t ∧ outcomeIs s t 0 q0 p resOk 0 ∧ t.dirty = x.dirty ∧
        t.mem = ((x.put (hostKey (p.w 4)) (packBits bits)).outcome 0 p.seq resOk 0).mem) ∧
    (startsNext s 0 q0 p 0x35 → ∀ d, AMap.find s.vds v = some d → d.stopped = true → s.vdStopDone v = true → let r := u.exportRecord v
      r.length ≤ p.w 3 → s.hostOk (p.w 2) r.length = true →
      ((u.stoppedCopies v).findSome? u.bitmapBad = none →
        ∃ t, Completes .vdExport s t ∧ outcomeIs s t 0 q0 p resOk 0 ∧ t.mem = ((u.put (hostKey (p.w 2)) r).outcome 0 p.seq resOk 0).mem) ∧
      (∀ f, (u.stoppedCopies v).findSome? u.bitmapBad = some f →
        ∃ t, Completes .vdExport s t ∧ outcomeIs s t 0 q0 p resFault f.toNat ∧ t.mem = (u.outcome 0 p.seq resFault f.toNat).mem)) ∧
    (startsNext s 0 q0 p 0x36 → ∀ n, AMap.find s.vds v ≠ none → let a := p.w 2
      let h := u.rd (hostKey a) 16; let es := (List.range n).map (u.recordEntry a)
      fieldLe h 0 4 = v → fieldLe h 4 4 = n → n ≤ 4096 → s.hostOk a 16 = true → s.hostOk a (16 + 128 * n) = true → es.all (u.importable v) = true →
      (es.map (·.1)).Nodup →
      (∀ f, (u.importAll es).2 = some f → ∃ t, Completes .vdImport s t ∧ outcomeIs s t 0 q0 p resFault f.toNat) ∧
      ((u.importAll es).2 = none → ∃ t, Completes .vdImport s t ∧ outcomeIs s t 0 q0 p resOk 0 ∧ ∀ e ∈ es, ∃ y, t.queue e.1 = some y ∧ y.r = e.2.2.1 ∧ y.state = if e.2.1 < 2 ^ 48 then .run else .dead)) ∧
    (startsNext s 0 q0 p 0x40 → s.hostOk (p.w 1) 256 = true →
      ∃ t, Completes .fwInfo s t ∧ outcomeIs s t 0 q0 p resOk 0 ∧ t.mem = ((u.put (hostKey (p.w 1)) (u.quoteBody (List.replicate 32 0))).outcome 0 p.seq resOk 0).mem)

/-! ### The management controller -/

namespace Sys2Proof.Claims

/-- A mailbox command written while none runs is done with a status and its TAG, and is no longer running (R28, R29). -/
def answered (t : State) (status : Byte) (tag : Byte) : Prop := t.mgc.status = status ∧ t.mgc.tag = tag ∧ t.mgc.cmd = none

/-- The module at POWER again with nothing of the device left but its fuses (R29, R56). -/
def lostAll (s t : State) : Prop :=
  t.mgc.boot = .power ∧ t.mgc.svnFused = s.mgc.svnFused ∧ t.mgc.cmd = none ∧ t.queues = [] ∧ t.tasks = [] ∧ t.vds = [] ∧ t.reqs = [] ∧ t.regions = [] ∧
    t.jnl.en = false ∧ t.jnl.wr = 0 ∧ t.hostResps = s.hostResps ∧
    ∀ c, c ∈ t.mem ↔ c ∈ s.mem ∧ hostKey 0 ≤ c.1 ∧ c.1 < apKey 0

end Sys2Proof.Claims

/-- R23 to R27: the boot states follow each other: POWER, LINK, WAIT_IMAGE, VERIFY, LOAD, INIT, READY. A check of the image that fails sets the code of the
first such check and goes back to WAIT_IMAGE; an INIT that fails halts the module. At READY the control queue exists, with a ring of zeros, and every region is
released with empty memory; that a region then stands off with the registers of its reset is the model's choice (log 8, with the values of log 5). For an image
whose SVN is above 64, that SVN_IMAGE keeps its low 8 bits and the fuses stop at 64 is as well (log 61). An image that passes every check needs a signature that
no value of the model is known to have (log 6), so that this clause has no witness. Each entry to a state is logged. -/
def Obligations.BootSequence : Prop :=
  ∀ (s : State),
    (s.mgc.boot = .power → ∃ t, Completes .powerUp s t ∧ t.mgc.boot = .link ∧ t.isaudUp = true ∧ s.mgc.logSeq < t.mgc.logSeq) ∧
    (s.mgc.boot = .link → ∃ t, Completes .powerUp s t ∧ t.mgc.boot = .waitImage ∧ t.mgc.logSeq = s.mgc.logSeq + 1) ∧
    (s.mgc.boot ≠ .power → s.mgc.boot ≠ .link → Completes .powerUp s s) ∧
    (s.mgc.boot = .verify → (s.imageError = none → ∃ t, Completes .verify s t ∧ t.mgc.boot = .load ∧ t.mgc.svnImage = BitVec.ofNat 8 s.imageSvn) ∧
      (∀ e, s.imageError = some e → ∃ t, Completes .verify s t ∧ t.mgc.boot = .waitImage ∧ t.mgc.err = BitVec.ofNat 8 e ∧ 1 ≤ e ∧ e ≤ 6)) ∧
    (s.mgc.boot ≠ .verify → Completes .verify s s) ∧
    (s.mgc.boot = .load →
      (s.anyBad (sramKey 0) s.imageLength = false → ∃ t, Completes (.mgcLoad .ok) s t ∧ t.mgc.boot = .init ∧ t.mgc.imageHash = s.imageDigest) ∧
      (∃ t, Completes (.mgcLoad .cannotInstall) s t ∧ t.mgc.boot = .waitImage ∧ t.mgc.err = 0x0A)) ∧
    (∀ e, s.mgc.boot ≠ .load → Completes (.mgcLoad e) s s) ∧
    (s.mgc.boot = .init →
      (∃ t, Completes (.mgcInit .ok) s t ∧ t.mgc.boot = .ready ∧ t.mgc.svnFused = (if s.advances then min 64 s.imageSvn else s.mgc.svnFused) ∧
        (∃ q, t.queues = [(0, q)] ∧ q.kind = 3 ∧ q.state = .run ∧ q.r = 0) ∧ (∀ r < 256, (t.region r).run = .off ∧ (t.region r).pacer = Pacer.reset) ∧
        (∀ k, isSram k = true ∨ isHbm k = true ∨ (apKey 0x10000 ≤ k ∧ k < apKey 0x14000) → Memory.get t.mem k = 0) ∧ t.tags = [] ∧ t.live = []) ∧
      (∃ t, Completes (.mgcInit .trainingFailed) s t ∧ t.mgc.boot = .halted ∧ t.mgc.err = 0x07) ∧
      (∀ die temp, thermalLimit ≤ temp.toNat → ∃ t, Completes (.mgcInit (.thermalStop die temp)) s t ∧ t.mgc.boot = .halted ∧ t.mgc.err = 0x08 ∧
        t.mgc.logSeq = s.mgc.logSeq + 3) ∧
      (s.advances = true → ∃ t, Completes (.mgcInit .fuseFailed) s t ∧ t.mgc.boot = .halted ∧ t.mgc.err = 0x09)) ∧
    (∀ e, s.mgc.boot ≠ .init → Completes (.mgcInit e) s s)

/-- R13, R18, R24, R28 to R34, R56, R215: mailbox commands do their work in the boot states that allow them, and answer with status and TAG; MODULE_RESET and a
loss of power lose the device's state; with the Isaud link down the host reaches none of them, and no register (R18; log 76). Registers of the supervisor
aperture take writes under their own rules, a staging write that finds the window closed is counted and dropped, and sensors beyond their limits lower the
budgets. -/
def Obligations.Management : Prop :=
  ∀ (s : State) (tag : Byte), let a0 := s.mgc.arg0; let a1 := s.mgc.arg1
    (s.mgc.cmd = none → s.mgc.boot ≠ .power → s.isaudUp = true →
      (s.mgc.boot = .waitImage → lengthOk a0.toNat = true → ∃ t, Completes (.imageGo tag) s t ∧ answered t 0 tag ∧ t.mgc.boot = .verify ∧ t.mgc.goLen = a0.toNat ∧
        t.mgc.err = 0) ∧
      (s.mgc.boot ≠ .waitImage → ∃ t, Completes (.imageGo tag) s t ∧ answered t 4 tag ∧ t.mgc.boot = s.mgc.boot) ∧
      (s.bootIn 1 6 = true → mbxAddr a0 (32 * a1.toNat) = true → 64 ≤ a1.toNat → a1.toNat ≤ 65536 → 2 ^ Nat.log2 a1.toNat = a1.toNat →
        ∃ t, Completes (.logRing tag) s t ∧ answered t 0 tag ∧ t.mgc.ringAddr = some a0.toNat ∧ t.mgc.ringCount = a1.toNat ∧ t.mgc.logOld = s.mgc.logOld ∧
          t.mgc.arg2 = BitVec.ofNat 64 s.mgc.logSeq) ∧
      (s.mgc.boot = .ready → mbxAddr a0 32 = true → mbxAddr a1 320 = true → s.isaudUp = true → let body := s.quoteBody (s.rd (hostKey a0.toNat) 32)
        ∃ t, Completes (.quote tag) s t ∧ answered t 0 tag ∧ t.mem = Memory.setBytes s.mem (hostKey a1.toNat) (body ++ signBytes body)) ∧
      (s.mgc.boot ≠ .ready → ∃ t, Completes (.quote tag) s t ∧ answered t 4 tag ∧ t.mem = s.mem) ∧
      (s.bootIn 1 7 = true → isSensor a0.toNat = true → ∃ t, Completes (.sensor tag) s t ∧ answered t 0 tag ∧
        (a0.toNat = 80 → t.mgc.arg0 = s.mgc.inlet.zeroExtend 64) ∧ (a0.toNat = 81 → t.mgc.arg0 = s.mgc.flow.zeroExtend 64)) ∧
      (s.bootIn 1 7 = true → isSensor a0.toNat = false → ∃ t, Completes (.sensor tag) s t ∧ answered t 3 tag ∧ t.mgc.arg0 = a0) ∧
      (s.bootIn 1 7 = true → mbxAddr a0 128 = true → s.isaudUp = true → ∃ t, Completes (.identity tag) s t ∧ answered t 0 tag ∧
        t.mem = Memory.setBytes s.mem (hostKey a0.toNat) identityRecord)) ∧
    (s.isaudUp = false → s.mgc.cmd = none → ∀ i ∈ [Instr.imageGo tag, .logRing tag, .quote tag, .sensor tag, .identity tag, .moduleReset tag], Completes i s s) ∧
    (s.isaudUp = true → ∃ t, Completes (.moduleReset tag) s t ∧ lostAll s t) ∧ (∃ t, Completes .powerLoss s t ∧ lostAll s t) ∧
    (∀ (v : Word), s.isaudUp = true → let n := v.toNat % 32
      (s.jnl.en = true → Completes (.jnlCfgWrite v) s s) ∧
      (s.jnl.en = false → ∃ t, Completes (.jnlCfgWrite v) s t ∧ t.jnl.en = v.getLsbD 8 ∧ t.jnl.log2j = (if 12 ≤ n ∧ n ≤ 21 then n else s.jnl.log2j) ∧
        (v.getLsbD 8 = true → t.jnl.wr = 0 ∧ t.jnl.rd = 0) ∧ t.jnl.epoch = s.jnl.epoch ∧ t.mem = s.mem) ∧
      (s.jnl.rd ≤ v.toNat ∧ v.toNat ≤ s.jnl.wr → Completes (.jnlRdWrite v) s { s with jnl := { s.jnl with rd := v.toNat } }) ∧
      (¬(s.jnl.rd ≤ v.toNat ∧ v.toNat ≤ s.jnl.wr) → Completes (.jnlRdWrite v) s s) ∧
      ((∀ x ∈ s.queues, s.widx x.2 < 2 ^ 48) → (∃ t, Completes (.registerWrite 0x08 v) s t ∧ t.mgc = { s.mgc with arg0 := v } ∧ t.mem = s.mem) ∧
        Completes (.registerWrite 0x30 v) s s) ∧
      (∀ off, off % 8 = 0 → 0x10000000 ≤ off → off < 0x14000000 →
        (s.mgc.windowOpen = true → ∃ t, Completes (.registerWrite off v) s t ∧ t.mem = Memory.setBytes s.mem (sramKey (off - 0x10000000)) (leBytes 8 v.toNat)) ∧
        (s.mgc.windowOpen = false → ∃ t, Completes (.registerWrite off v) s t ∧ t.mgc.logSeq = s.mgc.logSeq + 1 ∧
          t.mgc.dropped = (if s.mgc.dropped = 0xFFFF then s.mgc.dropped else s.mgc.dropped + 1)))) ∧
    (∀ inlet flow, let bad := inletHigh inlet || flowLow flow
      ∃ t, Completes (.sensorSample inlet flow) s t ∧ t.mgc.inlet = inlet ∧ t.mgc.flow = flow ∧ t.mgc.lowered = bad ∧
        (bad = true → s.mgc.lowered = false → s.mgc.logSeq + 9 ≤ t.mgc.logSeq) ∧ (bad = false → s.mgc.lowered = false → t.mgc.logSeq = s.mgc.logSeq)) ∧
    (∀ off v, s.isaudUp = false → Completes (.registerWrite off v) s s ∧ Completes (.jnlCfgWrite v) s s ∧ Completes (.jnlRdWrite v) s s) ∧
    (∀ die temp, (thermalLimit ≤ temp.toNat → s.mgc.boot ≠ .halted → ∃ t, Completes (.thermalStop die temp) s t ∧ t.mgc.boot = .halted ∧
        (s.mgc.boot = .init → t.mgc.err = 0x08) ∧ s.mgc.logSeq + 2 ≤ t.mgc.logSeq) ∧
      ((temp.toNat < thermalLimit ∨ s.mgc.boot = .halted) → Completes (.thermalStop die temp) s s))

/-! ### Reset, memory, the decoder and the step -/

/-- R23, R28, R31, R56, R95, R126: after reset the MGC is at POWER, with the record of its entry and no error, every region is held in reset, the journal is off with
LOG2J 12, and there is no queue, virtual device or task. That no byte of memory is listed, so that each reads as 0, and that memory has its canonical form are the
model's choice (log 11); so are the Pacer's registers: X holds zeros, C null, and STAT.MODE is 1, supervisor mode (log 5). -/
def Obligations.ResetState : Prop :=
  let s := State.reset
  s.mgc.boot = .power ∧ s.mgc.err = 0 ∧ s.mgc.dropped = 0 ∧ s.mgc.logSeq = 1 ∧ (s.mgc.logOld.map (fun e => (e.1.source, e.1.code, e.2))) = [(0, 0, 0, 0)] ∧ s.jnl.en = false ∧ s.jnl.log2j = 12 ∧ s.jnl.wr = 0 ∧ s.queues = [] ∧ s.vds = [] ∧
    s.tasks = [] ∧ s.mem = [] ∧ Memory.wf s.mem = true ∧
    ∀ r, (s.region r).run = .reset ∧ (s.region r).pacer.mode = true ∧ (∀ i, (s.region r).pacer.rx i = 0) ∧ ∀ i, (s.region r).pacer.rc i = Cap.null

/-- R165, R168: memory stays in its canonical form: every step from a state whose memory is in that form leads to such a state. That equal memories
are equal data is the model's own form of memory (log 11). -/
def Obligations.MemoryStaysCanonical : Prop := ∀ s t, Memory.wf s.mem = true → step s = .next t → Memory.wf t.mem = true

/-- R203 to R210, R255: every well-formed instruction that has words is decoded from its own encoding, with every operand at every value, whatever bytes
follow. -/
def Obligations.DecodeEncode : Prop :=
  ∀ i rest, i.wf = true → encodeWords i ≠ [] → decode (encode i ++ rest) = .ok (i, rest)

/-- R203 to R210, R255: bytes that the decoder reads as an instruction are that instruction's own encoding, followed by the rest, and the instruction is
well-formed: no other word, none with a reserved bit set among them, stands for it. -/
def Obligations.WordsAreUnambiguous : Prop :=
  ∀ bs i rest, decode bs = .ok (i, rest) → i.wf = true ∧ encode i ++ rest = bs

/-- R203 to R210: words written out from the encoding tables, one or more for each group of instructions, decode to the instructions that they stand
for, and the all-zero and all-one words to none. -/
def Obligations.DecodesWords : Prop :=
  decodeTableWord 32 0x04A63802 = some (.and 5 6 7) ∧ decodeTableWord 32 0x10A68001 = some (.addi 5 6 0x8001) ∧
    decodeTableWord 32 0x08A63840 = some (.fadd 5 6 7 1) ∧ decodeTableWord 32 0x40C7009C = some (.beq 6 7 156) ∧
    decodeTableWord 32 0x60BFFFFE = some (.jal 5 0x1FFFFE) ∧ decodeTableWord 32 0x80A61F36 = some (.ld 5 3 1 0xF3 1 2) ∧
    decodeTableWord 32 0xB0A63800 = some (.cinc 5 6 7) ∧ decodeTableWord 32 0xF0001232 = some (.trap 0x123) ∧
    decodeTableWord 32 0xF00000A4 = some (.fence 2 2) ∧ decodeTableWord 32 0xC0A61002 = some (.cfgArm 5 6 2) ∧
    decodeTableWord 32 0xC8A63A47 = some (.amoCas 5 6 7 2 1) ∧ decodeTableWord 32 0xD0A63A89 = some (.barArrive 5 6 7 2 2) ∧
    decodeTableWord 32 0xD4A60001 = some (.drgnRead 5 6) ∧ decodeTableWord 32 0xD8A63810 = some (.heatOpen 5 6 7) ∧
    decodeTableWord 32 0xDC063800 = some (.tlbi 6 7) ∧ decodeTableWord 32 0x00000000 = none ∧ decodeTableWord 32 0xFFFFFFFF = none

/-- R97, R207, R216: where the next turn is that of a region's Pacer, at a boundary with nothing pending, the step fetches the word at the PC, decodes it, and
executes the instruction that it stands for; LIMM takes the next word as well; a fetch that fails a check faults. -/
def Obligations.StepRunsDecoded : Prop :=
  ∀ (s : State) turn rest, s.agenda = turn :: rest → turn.act = none →
    let v : State := { ((({ s with agenda := rest } : State).tick turn.fc).commitCancels).events turn.events with cur := turn.region }
    let c := v.reg.pacer.pcc
    v.mgc.boot = .ready → v.reg.run = .on → v.reg.stop = none → v.reg.pend = none → v.reg.wait = .none → v.debug = none →
    (∀ u i, v.fetch = .ok (u, i) → step s = exec i u.begin) ∧
    (∀ f x, v.fetch = .error (f, x) → step s = exec (.fetchAndDecodeFault f x) v) ∧
    (∀ u w i more, v.fetchWord c v.pc = .ok (u, w) → w < 2 ^ 32 → decode (wordBytes w ++ more) = .ok (i, more) → (∀ d n, i ≠ .limm d n) → v.fetch = .ok (u, i)) ∧
    (∀ u w u2 w2 d n, v.fetchWord c v.pc = .ok (u, w) → u.fetchWord u.reg.pacer.pcc (u.pc + 4) = .ok (u2, w2) → w < 2 ^ 32 → w2 < 2 ^ 32 →
      decode (wordBytes w ++ wordBytes w2) = .ok (.limm d n, []) → v.fetch = .ok (u2, .limm d n)) ∧
    (∀ sp x k cm, v.pc.toNat % 4 = 0 → c.check v.pc.toNat 4 permExec kindExec = .ok (sp, x) → memSpaces.contains sp = true →
      v.keyOf v.cur v.vd v.sup sp x 4 .exec 0x34 = .ok (k, cm) → v.icacheOn = false → v.anyBad k 4 = false →
      ∃ u, v.fetchWord c v.pc = .ok (u, leNat (v.rd k 4)) ∧ u.mem = v.mem ∧ u.regions = v.regions)
end

