-- ==== Sys2Proof/Laws/Maps.lean ====
section
/-! SUPPORT. Finite maps: what is found after a record is put, deleted or changed. -/

namespace Sys2Proof.Machine

@[simp] theorem AMap.find_put_same {α : Type} (m : AMap α) (k : Nat) (v : α) : AMap.find (AMap.put m k v) k = some v := by
  induction m with
  | nil => simp [AMap.put, AMap.find]
  | cons p m ih =>
    obtain ⟨j, w⟩ := p
    simp only [AMap.put]
    split_ifs with h1 h2
    · simp [AMap.find]
    · simp [AMap.find]
    · simp [AMap.find, h2, ih]

theorem AMap.find_put_other {α : Type} (m : AMap α) {k j : Nat} (v : α) (h : j ≠ k) : AMap.find (AMap.put m k v) j = AMap.find m j := by
  induction m with
  | nil => simp [AMap.put, AMap.find, h]
  | cons p m ih =>
    obtain ⟨i, w⟩ := p
    simp only [AMap.put]
    split_ifs with h1 h2
    · simp [AMap.find, h]
    · subst h2; simp [AMap.find, h]
    · simp only [AMap.find, ih]

@[simp] theorem AMap.findD_put_same {α : Type} (m : AMap α) (k : Nat) (v d : α) : AMap.findD (AMap.put m k v) k d = v := by
  simp [AMap.findD]

theorem AMap.findD_put_other {α : Type} (m : AMap α) {k j : Nat} (v d : α) (h : j ≠ k) :
    AMap.findD (AMap.put m k v) j d = AMap.findD m j d := by
  simp [AMap.findD, AMap.find_put_other m v h]

@[simp] theorem AMap.put_put {α : Type} (m : AMap α) (k : Nat) (v w : α) : AMap.put (AMap.put m k v) k w = AMap.put m k w := by
  induction m with
  | nil => simp [AMap.put]
  | cons p m ih =>
    obtain ⟨j, u⟩ := p
    simp only [AMap.put]
    split_ifs with h1 h2
    · simp [AMap.put]
    · simp [AMap.put]
    · simp [AMap.put, h1, h2, ih]

@[simp] theorem AMap.find_del_same {α : Type} (m : AMap α) (k : Nat) : AMap.find (AMap.del m k) k = none := by
  induction m with
  | nil => rfl
  | cons p m ih =>
    obtain ⟨j, w⟩ := p
    by_cases h : j = k
    · subst h; simpa [AMap.del] using ih
    · simp only [AMap.del, List.filter_cons, bne_iff_ne, ne_eq, h, not_false_eq_true, ite_true, AMap.find, if_neg (Ne.symm h)] at ih ⊢
      exact ih

end Sys2Proof.Machine
end

