-- ==== Sys2Proof/Laws/State.lean ====
section
/-! SUPPORT. What each update of the State leaves of each of its fields, and what it makes of the regions. -/

namespace Sys2Proof.Machine

open Sys2Proof

/-! ### One region's record is set -/

@[simp] theorem State.setRegion_agenda (s : State) (r : Nat) (g : Region) : (s.setRegion r g).agenda = s.agenda := rfl
@[simp] theorem State.setRegion_cur (s : State) (r : Nat) (g : Region) : (s.setRegion r g).cur = s.cur := rfl
@[simp] theorem State.setRegion_now (s : State) (r : Nat) (g : Region) : (s.setRegion r g).now = s.now := rfl
@[simp] theorem State.setRegion_free (s : State) (r : Nat) (g : Region) : (s.setRegion r g).free = s.free := rfl
@[simp] theorem State.setRegion_stamp (s : State) (r : Nat) (g : Region) : (s.setRegion r g).stamp = s.stamp := rfl
@[simp] theorem State.setRegion_tlbOn (s : State) (r : Nat) (g : Region) : (s.setRegion r g).tlbOn = s.tlbOn := rfl
@[simp] theorem State.setRegion_icacheOn (s : State) (r : Nat) (g : Region) : (s.setRegion r g).icacheOn = s.icacheOn := rfl
@[simp] theorem State.setRegion_mem (s : State) (r : Nat) (g : Region) : (s.setRegion r g).mem = s.mem := rfl
@[simp] theorem State.setRegion_tags (s : State) (r : Nat) (g : Region) : (s.setRegion r g).tags = s.tags := rfl
@[simp] theorem State.setRegion_full (s : State) (r : Nat) (g : Region) : (s.setRegion r g).full = s.full := rfl
@[simp] theorem State.setRegion_live (s : State) (r : Nat) (g : Region) : (s.setRegion r g).live = s.live := rfl
@[simp] theorem State.setRegion_bad (s : State) (r : Nat) (g : Region) : (s.setRegion r g).bad = s.bad := rfl
@[simp] theorem State.setRegion_badMeta (s : State) (r : Nat) (g : Region) : (s.setRegion r g).badMeta = s.badMeta := rfl
@[simp] theorem State.setRegion_clearBad (s : State) (r : Nat) (g : Region) : (s.setRegion r g).clearBad = s.clearBad := rfl
@[simp] theorem State.setRegion_hostWrite (s : State) (r : Nat) (g : Region) : (s.setRegion r g).hostWrite = s.hostWrite := rfl
@[simp] theorem State.setRegion_slotTables (s : State) (r : Nat) (g : Region) : (s.setRegion r g).slotTables = s.slotTables := rfl
@[simp] theorem State.setRegion_merge (s : State) (r : Nat) (g : Region) : (s.setRegion r g).merge = s.merge := rfl
@[simp] theorem State.setRegion_dirty (s : State) (r : Nat) (g : Region) : (s.setRegion r g).dirty = s.dirty := rfl
@[simp] theorem State.setRegion_tlb (s : State) (r : Nat) (g : Region) : (s.setRegion r g).tlb = s.tlb := rfl
@[simp] theorem State.setRegion_invals (s : State) (r : Nat) (g : Region) : (s.setRegion r g).invals = s.invals := rfl
@[simp] theorem State.setRegion_mgc (s : State) (r : Nat) (g : Region) : (s.setRegion r g).mgc = s.mgc := rfl
@[simp] theorem State.setRegion_jnl (s : State) (r : Nat) (g : Region) : (s.setRegion r g).jnl = s.jnl := rfl
@[simp] theorem State.setRegion_vds (s : State) (r : Nat) (g : Region) : (s.setRegion r g).vds = s.vds := rfl
@[simp] theorem State.setRegion_lastVd (s : State) (r : Nat) (g : Region) : (s.setRegion r g).lastVd = s.lastVd := rfl
@[simp] theorem State.setRegion_owners (s : State) (r : Nat) (g : Region) : (s.setRegion r g).owners = s.owners := rfl
@[simp] theorem State.setRegion_queues (s : State) (r : Nat) (g : Region) : (s.setRegion r g).queues = s.queues := rfl
@[simp] theorem State.setRegion_tasks (s : State) (r : Nat) (g : Region) : (s.setRegion r g).tasks = s.tasks := rfl
@[simp] theorem State.setRegion_cancels (s : State) (r : Nat) (g : Region) : (s.setRegion r g).cancels = s.cancels := rfl
@[simp] theorem State.setRegion_cancelledAt (s : State) (r : Nat) (g : Region) : (s.setRegion r g).cancelledAt = s.cancelledAt := rfl
@[simp] theorem State.setRegion_decidedAt (s : State) (r : Nat) (g : Region) : (s.setRegion r g).decidedAt = s.decidedAt := rfl
@[simp] theorem State.setRegion_heats (s : State) (r : Nat) (g : Region) : (s.setRegion r g).heats = s.heats := rfl
@[simp] theorem State.setRegion_index (s : State) (r : Nat) (g : Region) : (s.setRegion r g).index = s.index := rfl
@[simp] theorem State.setRegion_btes (s : State) (r : Nat) (g : Region) : (s.setRegion r g).btes = s.btes := rfl
@[simp] theorem State.setRegion_bteLast (s : State) (r : Nat) (g : Region) : (s.setRegion r g).bteLast = s.bteLast := rfl
@[simp] theorem State.setRegion_banks (s : State) (r : Nat) (g : Region) : (s.setRegion r g).banks = s.banks := rfl
@[simp] theorem State.setRegion_decls (s : State) (r : Nat) (g : Region) : (s.setRegion r g).decls = s.decls := rfl
@[simp] theorem State.setRegion_groups (s : State) (r : Nat) (g : Region) : (s.setRegion r g).groups = s.groups := rfl
@[simp] theorem State.setRegion_batons (s : State) (r : Nat) (g : Region) : (s.setRegion r g).batons = s.batons := rfl
@[simp] theorem State.setRegion_trigs (s : State) (r : Nat) (g : Region) : (s.setRegion r g).trigs = s.trigs := rfl
@[simp] theorem State.setRegion_windows (s : State) (r : Nat) (g : Region) : (s.setRegion r g).windows = s.windows := rfl
@[simp] theorem State.setRegion_comm (s : State) (r : Nat) (g : Region) : (s.setRegion r g).comm = s.comm := rfl
@[simp] theorem State.setRegion_isaudUp (s : State) (r : Nat) (g : Region) : (s.setRegion r g).isaudUp = s.isaudUp := rfl
@[simp] theorem State.setRegion_celcen0Up (s : State) (r : Nat) (g : Region) : (s.setRegion r g).celcen0Up = s.celcen0Up := rfl
@[simp] theorem State.setRegion_celcen1Up (s : State) (r : Nat) (g : Region) : (s.setRegion r g).celcen1Up = s.celcen1Up := rfl
@[simp] theorem State.setRegion_deadDies (s : State) (r : Nat) (g : Region) : (s.setRegion r g).deadDies = s.deadDies := rfl
@[simp] theorem State.setRegion_deadPeers (s : State) (r : Nat) (g : Region) : (s.setRegion r g).deadPeers = s.deadPeers := rfl
@[simp] theorem State.setRegion_reqs (s : State) (r : Nat) (g : Region) : (s.setRegion r g).reqs = s.reqs := rfl
@[simp] theorem State.setRegion_resps (s : State) (r : Nat) (g : Region) : (s.setRegion r g).resps = s.resps := rfl
@[simp] theorem State.setRegion_dropped (s : State) (r : Nat) (g : Region) : (s.setRegion r g).dropped = s.dropped := rfl
@[simp] theorem State.setRegion_hostOps (s : State) (r : Nat) (g : Region) : (s.setRegion r g).hostOps = s.hostOps := rfl
@[simp] theorem State.setRegion_hostResps (s : State) (r : Nat) (g : Region) : (s.setRegion r g).hostResps = s.hostResps := rfl
@[simp] theorem State.setRegion_module (s : State) (r : Nat) (g : Region) : (s.setRegion r g).module = s.module := rfl
@[simp] theorem State.setRegion_images (s : State) (r : Nat) (g : Region) : (s.setRegion r g).images = s.images := rfl

@[simp] theorem State.setReg_agenda (s : State) (g : Region) : (s.setReg g).agenda = s.agenda := rfl
@[simp] theorem State.setReg_cur (s : State) (g : Region) : (s.setReg g).cur = s.cur := rfl
@[simp] theorem State.setReg_now (s : State) (g : Region) : (s.setReg g).now = s.now := rfl
@[simp] theorem State.setReg_free (s : State) (g : Region) : (s.setReg g).free = s.free := rfl
@[simp] theorem State.setReg_stamp (s : State) (g : Region) : (s.setReg g).stamp = s.stamp := rfl
@[simp] theorem State.setReg_tlbOn (s : State) (g : Region) : (s.setReg g).tlbOn = s.tlbOn := rfl
@[simp] theorem State.setReg_icacheOn (s : State) (g : Region) : (s.setReg g).icacheOn = s.icacheOn := rfl
@[simp] theorem State.setReg_mem (s : State) (g : Region) : (s.setReg g).mem = s.mem := rfl
@[simp] theorem State.setReg_tags (s : State) (g : Region) : (s.setReg g).tags = s.tags := rfl
@[simp] theorem State.setReg_full (s : State) (g : Region) : (s.setReg g).full = s.full := rfl
@[simp] theorem State.setReg_live (s : State) (g : Region) : (s.setReg g).live = s.live := rfl
@[simp] theorem State.setReg_bad (s : State) (g : Region) : (s.setReg g).bad = s.bad := rfl
@[simp] theorem State.setReg_badMeta (s : State) (g : Region) : (s.setReg g).badMeta = s.badMeta := rfl
@[simp] theorem State.setReg_clearBad (s : State) (g : Region) : (s.setReg g).clearBad = s.clearBad := rfl
@[simp] theorem State.setReg_hostWrite (s : State) (g : Region) : (s.setReg g).hostWrite = s.hostWrite := rfl
@[simp] theorem State.setReg_slotTables (s : State) (g : Region) : (s.setReg g).slotTables = s.slotTables := rfl
@[simp] theorem State.setReg_merge (s : State) (g : Region) : (s.setReg g).merge = s.merge := rfl
@[simp] theorem State.setReg_dirty (s : State) (g : Region) : (s.setReg g).dirty = s.dirty := rfl
@[simp] theorem State.setReg_tlb (s : State) (g : Region) : (s.setReg g).tlb = s.tlb := rfl
@[simp] theorem State.setReg_invals (s : State) (g : Region) : (s.setReg g).invals = s.invals := rfl
@[simp] theorem State.setReg_mgc (s : State) (g : Region) : (s.setReg g).mgc = s.mgc := rfl
@[simp] theorem State.setReg_jnl (s : State) (g : Region) : (s.setReg g).jnl = s.jnl := rfl
@[simp] theorem State.setReg_vds (s : State) (g : Region) : (s.setReg g).vds = s.vds := rfl
@[simp] theorem State.setReg_lastVd (s : State) (g : Region) : (s.setReg g).lastVd = s.lastVd := rfl
@[simp] theorem State.setReg_owners (s : State) (g : Region) : (s.setReg g).owners = s.owners := rfl
@[simp] theorem State.setReg_queues (s : State) (g : Region) : (s.setReg g).queues = s.queues := rfl
@[simp] theorem State.setReg_tasks (s : State) (g : Region) : (s.setReg g).tasks = s.tasks := rfl
@[simp] theorem State.setReg_cancels (s : State) (g : Region) : (s.setReg g).cancels = s.cancels := rfl
@[simp] theorem State.setReg_cancelledAt (s : State) (g : Region) : (s.setReg g).cancelledAt = s.cancelledAt := rfl
@[simp] theorem State.setReg_decidedAt (s : State) (g : Region) : (s.setReg g).decidedAt = s.decidedAt := rfl
@[simp] theorem State.setReg_heats (s : State) (g : Region) : (s.setReg g).heats = s.heats := rfl
@[simp] theorem State.setReg_index (s : State) (g : Region) : (s.setReg g).index = s.index := rfl
@[simp] theorem State.setReg_btes (s : State) (g : Region) : (s.setReg g).btes = s.btes := rfl
@[simp] theorem State.setReg_bteLast (s : State) (g : Region) : (s.setReg g).bteLast = s.bteLast := rfl
@[simp] theorem State.setReg_banks (s : State) (g : Region) : (s.setReg g).banks = s.banks := rfl
@[simp] theorem State.setReg_decls (s : State) (g : Region) : (s.setReg g).decls = s.decls := rfl
@[simp] theorem State.setReg_groups (s : State) (g : Region) : (s.setReg g).groups = s.groups := rfl
@[simp] theorem State.setReg_batons (s : State) (g : Region) : (s.setReg g).batons = s.batons := rfl
@[simp] theorem State.setReg_trigs (s : State) (g : Region) : (s.setReg g).trigs = s.trigs := rfl
@[simp] theorem State.setReg_windows (s : State) (g : Region) : (s.setReg g).windows = s.windows := rfl
@[simp] theorem State.setReg_comm (s : State) (g : Region) : (s.setReg g).comm = s.comm := rfl
@[simp] theorem State.setReg_isaudUp (s : State) (g : Region) : (s.setReg g).isaudUp = s.isaudUp := rfl
@[simp] theorem State.setReg_celcen0Up (s : State) (g : Region) : (s.setReg g).celcen0Up = s.celcen0Up := rfl
@[simp] theorem State.setReg_celcen1Up (s : State) (g : Region) : (s.setReg g).celcen1Up = s.celcen1Up := rfl
@[simp] theorem State.setReg_deadDies (s : State) (g : Region) : (s.setReg g).deadDies = s.deadDies := rfl
@[simp] theorem State.setReg_deadPeers (s : State) (g : Region) : (s.setReg g).deadPeers = s.deadPeers := rfl
@[simp] theorem State.setReg_reqs (s : State) (g : Region) : (s.setReg g).reqs = s.reqs := rfl
@[simp] theorem State.setReg_resps (s : State) (g : Region) : (s.setReg g).resps = s.resps := rfl
@[simp] theorem State.setReg_dropped (s : State) (g : Region) : (s.setReg g).dropped = s.dropped := rfl
@[simp] theorem State.setReg_hostOps (s : State) (g : Region) : (s.setReg g).hostOps = s.hostOps := rfl
@[simp] theorem State.setReg_hostResps (s : State) (g : Region) : (s.setReg g).hostResps = s.hostResps := rfl
@[simp] theorem State.setReg_module (s : State) (g : Region) : (s.setReg g).module = s.module := rfl
@[simp] theorem State.setReg_images (s : State) (g : Region) : (s.setReg g).images = s.images := rfl

@[simp] theorem State.onRegion_agenda (s : State) (r : Nat) (f : Region → Region) : (s.onRegion r f).agenda = s.agenda := rfl
@[simp] theorem State.onRegion_cur (s : State) (r : Nat) (f : Region → Region) : (s.onRegion r f).cur = s.cur := rfl
@[simp] theorem State.onRegion_now (s : State) (r : Nat) (f : Region → Region) : (s.onRegion r f).now = s.now := rfl
@[simp] theorem State.onRegion_free (s : State) (r : Nat) (f : Region → Region) : (s.onRegion r f).free = s.free := rfl
@[simp] theorem State.onRegion_stamp (s : State) (r : Nat) (f : Region → Region) : (s.onRegion r f).stamp = s.stamp := rfl
@[simp] theorem State.onRegion_tlbOn (s : State) (r : Nat) (f : Region → Region) : (s.onRegion r f).tlbOn = s.tlbOn := rfl
@[simp] theorem State.onRegion_icacheOn (s : State) (r : Nat) (f : Region → Region) : (s.onRegion r f).icacheOn = s.icacheOn := rfl
@[simp] theorem State.onRegion_mem (s : State) (r : Nat) (f : Region → Region) : (s.onRegion r f).mem = s.mem := rfl
@[simp] theorem State.onRegion_tags (s : State) (r : Nat) (f : Region → Region) : (s.onRegion r f).tags = s.tags := rfl
@[simp] theorem State.onRegion_full (s : State) (r : Nat) (f : Region → Region) : (s.onRegion r f).full = s.full := rfl
@[simp] theorem State.onRegion_live (s : State) (r : Nat) (f : Region → Region) : (s.onRegion r f).live = s.live := rfl
@[simp] theorem State.onRegion_bad (s : State) (r : Nat) (f : Region → Region) : (s.onRegion r f).bad = s.bad := rfl
@[simp] theorem State.onRegion_badMeta (s : State) (r : Nat) (f : Region → Region) : (s.onRegion r f).badMeta = s.badMeta := rfl
@[simp] theorem State.onRegion_clearBad (s : State) (r : Nat) (f : Region → Region) : (s.onRegion r f).clearBad = s.clearBad := rfl
@[simp] theorem State.onRegion_hostWrite (s : State) (r : Nat) (f : Region → Region) : (s.onRegion r f).hostWrite = s.hostWrite := rfl
@[simp] theorem State.onRegion_slotTables (s : State) (r : Nat) (f : Region → Region) : (s.onRegion r f).slotTables = s.slotTables := rfl
@[simp] theorem State.onRegion_merge (s : State) (r : Nat) (f : Region → Region) : (s.onRegion r f).merge = s.merge := rfl
@[simp] theorem State.onRegion_dirty (s : State) (r : Nat) (f : Region → Region) : (s.onRegion r f).dirty = s.dirty := rfl
@[simp] theorem State.onRegion_tlb (s : State) (r : Nat) (f : Region → Region) : (s.onRegion r f).tlb = s.tlb := rfl
@[simp] theorem State.onRegion_invals (s : State) (r : Nat) (f : Region → Region) : (s.onRegion r f).invals = s.invals := rfl
@[simp] theorem State.onRegion_mgc (s : State) (r : Nat) (f : Region → Region) : (s.onRegion r f).mgc = s.mgc := rfl
@[simp] theorem State.onRegion_jnl (s : State) (r : Nat) (f : Region → Region) : (s.onRegion r f).jnl = s.jnl := rfl
@[simp] theorem State.onRegion_vds (s : State) (r : Nat) (f : Region → Region) : (s.onRegion r f).vds = s.vds := rfl
@[simp] theorem State.onRegion_lastVd (s : State) (r : Nat) (f : Region → Region) : (s.onRegion r f).lastVd = s.lastVd := rfl
@[simp] theorem State.onRegion_owners (s : State) (r : Nat) (f : Region → Region) : (s.onRegion r f).owners = s.owners := rfl
@[simp] theorem State.onRegion_queues (s : State) (r : Nat) (f : Region → Region) : (s.onRegion r f).queues = s.queues := rfl
@[simp] theorem State.onRegion_tasks (s : State) (r : Nat) (f : Region → Region) : (s.onRegion r f).tasks = s.tasks := rfl
@[simp] theorem State.onRegion_cancels (s : State) (r : Nat) (f : Region → Region) : (s.onRegion r f).cancels = s.cancels := rfl
@[simp] theorem State.onRegion_cancelledAt (s : State) (r : Nat) (f : Region → Region) : (s.onRegion r f).cancelledAt = s.cancelledAt := rfl
@[simp] theorem State.onRegion_decidedAt (s : State) (r : Nat) (f : Region → Region) : (s.onRegion r f).decidedAt = s.decidedAt := rfl
@[simp] theorem State.onRegion_heats (s : State) (r : Nat) (f : Region → Region) : (s.onRegion r f).heats = s.heats := rfl
@[simp] theorem State.onRegion_index (s : State) (r : Nat) (f : Region → Region) : (s.onRegion r f).index = s.index := rfl
@[simp] theorem State.onRegion_btes (s : State) (r : Nat) (f : Region → Region) : (s.onRegion r f).btes = s.btes := rfl
@[simp] theorem State.onRegion_bteLast (s : State) (r : Nat) (f : Region → Region) : (s.onRegion r f).bteLast = s.bteLast := rfl
@[simp] theorem State.onRegion_banks (s : State) (r : Nat) (f : Region → Region) : (s.onRegion r f).banks = s.banks := rfl
@[simp] theorem State.onRegion_decls (s : State) (r : Nat) (f : Region → Region) : (s.onRegion r f).decls = s.decls := rfl
@[simp] theorem State.onRegion_groups (s : State) (r : Nat) (f : Region → Region) : (s.onRegion r f).groups = s.groups := rfl
@[simp] theorem State.onRegion_batons (s : State) (r : Nat) (f : Region → Region) : (s.onRegion r f).batons = s.batons := rfl
@[simp] theorem State.onRegion_trigs (s : State) (r : Nat) (f : Region → Region) : (s.onRegion r f).trigs = s.trigs := rfl
@[simp] theorem State.onRegion_windows (s : State) (r : Nat) (f : Region → Region) : (s.onRegion r f).windows = s.windows := rfl
@[simp] theorem State.onRegion_comm (s : State) (r : Nat) (f : Region → Region) : (s.onRegion r f).comm = s.comm := rfl
@[simp] theorem State.onRegion_isaudUp (s : State) (r : Nat) (f : Region → Region) : (s.onRegion r f).isaudUp = s.isaudUp := rfl
@[simp] theorem State.onRegion_celcen0Up (s : State) (r : Nat) (f : Region → Region) : (s.onRegion r f).celcen0Up = s.celcen0Up := rfl
@[simp] theorem State.onRegion_celcen1Up (s : State) (r : Nat) (f : Region → Region) : (s.onRegion r f).celcen1Up = s.celcen1Up := rfl
@[simp] theorem State.onRegion_deadDies (s : State) (r : Nat) (f : Region → Region) : (s.onRegion r f).deadDies = s.deadDies := rfl
@[simp] theorem State.onRegion_deadPeers (s : State) (r : Nat) (f : Region → Region) : (s.onRegion r f).deadPeers = s.deadPeers := rfl
@[simp] theorem State.onRegion_reqs (s : State) (r : Nat) (f : Region → Region) : (s.onRegion r f).reqs = s.reqs := rfl
@[simp] theorem State.onRegion_resps (s : State) (r : Nat) (f : Region → Region) : (s.onRegion r f).resps = s.resps := rfl
@[simp] theorem State.onRegion_dropped (s : State) (r : Nat) (f : Region → Region) : (s.onRegion r f).dropped = s.dropped := rfl
@[simp] theorem State.onRegion_hostOps (s : State) (r : Nat) (f : Region → Region) : (s.onRegion r f).hostOps = s.hostOps := rfl
@[simp] theorem State.onRegion_hostResps (s : State) (r : Nat) (f : Region → Region) : (s.onRegion r f).hostResps = s.hostResps := rfl
@[simp] theorem State.onRegion_module (s : State) (r : Nat) (f : Region → Region) : (s.onRegion r f).module = s.module := rfl
@[simp] theorem State.onRegion_images (s : State) (r : Nat) (f : Region → Region) : (s.onRegion r f).images = s.images := rfl

@[simp] theorem State.onReg_agenda (s : State) (f : Region → Region) : (s.onReg f).agenda = s.agenda := rfl
@[simp] theorem State.onReg_cur (s : State) (f : Region → Region) : (s.onReg f).cur = s.cur := rfl
@[simp] theorem State.onReg_now (s : State) (f : Region → Region) : (s.onReg f).now = s.now := rfl
@[simp] theorem State.onReg_free (s : State) (f : Region → Region) : (s.onReg f).free = s.free := rfl
@[simp] theorem State.onReg_stamp (s : State) (f : Region → Region) : (s.onReg f).stamp = s.stamp := rfl
@[simp] theorem State.onReg_tlbOn (s : State) (f : Region → Region) : (s.onReg f).tlbOn = s.tlbOn := rfl
@[simp] theorem State.onReg_icacheOn (s : State) (f : Region → Region) : (s.onReg f).icacheOn = s.icacheOn := rfl
@[simp] theorem State.onReg_mem (s : State) (f : Region → Region) : (s.onReg f).mem = s.mem := rfl
@[simp] theorem State.onReg_tags (s : State) (f : Region → Region) : (s.onReg f).tags = s.tags := rfl
@[simp] theorem State.onReg_full (s : State) (f : Region → Region) : (s.onReg f).full = s.full := rfl
@[simp] theorem State.onReg_live (s : State) (f : Region → Region) : (s.onReg f).live = s.live := rfl
@[simp] theorem State.onReg_bad (s : State) (f : Region → Region) : (s.onReg f).bad = s.bad := rfl
@[simp] theorem State.onReg_badMeta (s : State) (f : Region → Region) : (s.onReg f).badMeta = s.badMeta := rfl
@[simp] theorem State.onReg_clearBad (s : State) (f : Region → Region) : (s.onReg f).clearBad = s.clearBad := rfl
@[simp] theorem State.onReg_hostWrite (s : State) (f : Region → Region) : (s.onReg f).hostWrite = s.hostWrite := rfl
@[simp] theorem State.onReg_slotTables (s : State) (f : Region → Region) : (s.onReg f).slotTables = s.slotTables := rfl
@[simp] theorem State.onReg_merge (s : State) (f : Region → Region) : (s.onReg f).merge = s.merge := rfl
@[simp] theorem State.onReg_dirty (s : State) (f : Region → Region) : (s.onReg f).dirty = s.dirty := rfl
@[simp] theorem State.onReg_tlb (s : State) (f : Region → Region) : (s.onReg f).tlb = s.tlb := rfl
@[simp] theorem State.onReg_invals (s : State) (f : Region → Region) : (s.onReg f).invals = s.invals := rfl
@[simp] theorem State.onReg_mgc (s : State) (f : Region → Region) : (s.onReg f).mgc = s.mgc := rfl
@[simp] theorem State.onReg_jnl (s : State) (f : Region → Region) : (s.onReg f).jnl = s.jnl := rfl
@[simp] theorem State.onReg_vds (s : State) (f : Region → Region) : (s.onReg f).vds = s.vds := rfl
@[simp] theorem State.onReg_lastVd (s : State) (f : Region → Region) : (s.onReg f).lastVd = s.lastVd := rfl
@[simp] theorem State.onReg_owners (s : State) (f : Region → Region) : (s.onReg f).owners = s.owners := rfl
@[simp] theorem State.onReg_queues (s : State) (f : Region → Region) : (s.onReg f).queues = s.queues := rfl
@[simp] theorem State.onReg_tasks (s : State) (f : Region → Region) : (s.onReg f).tasks = s.tasks := rfl
@[simp] theorem State.onReg_cancels (s : State) (f : Region → Region) : (s.onReg f).cancels = s.cancels := rfl
@[simp] theorem State.onReg_cancelledAt (s : State) (f : Region → Region) : (s.onReg f).cancelledAt = s.cancelledAt := rfl
@[simp] theorem State.onReg_decidedAt (s : State) (f : Region → Region) : (s.onReg f).decidedAt = s.decidedAt := rfl
@[simp] theorem State.onReg_heats (s : State) (f : Region → Region) : (s.onReg f).heats = s.heats := rfl
@[simp] theorem State.onReg_index (s : State) (f : Region → Region) : (s.onReg f).index = s.index := rfl
@[simp] theorem State.onReg_btes (s : State) (f : Region → Region) : (s.onReg f).btes = s.btes := rfl
@[simp] theorem State.onReg_bteLast (s : State) (f : Region → Region) : (s.onReg f).bteLast = s.bteLast := rfl
@[simp] theorem State.onReg_banks (s : State) (f : Region → Region) : (s.onReg f).banks = s.banks := rfl
@[simp] theorem State.onReg_decls (s : State) (f : Region → Region) : (s.onReg f).decls = s.decls := rfl
@[simp] theorem State.onReg_groups (s : State) (f : Region → Region) : (s.onReg f).groups = s.groups := rfl
@[simp] theorem State.onReg_batons (s : State) (f : Region → Region) : (s.onReg f).batons = s.batons := rfl
@[simp] theorem State.onReg_trigs (s : State) (f : Region → Region) : (s.onReg f).trigs = s.trigs := rfl
@[simp] theorem State.onReg_windows (s : State) (f : Region → Region) : (s.onReg f).windows = s.windows := rfl
@[simp] theorem State.onReg_comm (s : State) (f : Region → Region) : (s.onReg f).comm = s.comm := rfl
@[simp] theorem State.onReg_isaudUp (s : State) (f : Region → Region) : (s.onReg f).isaudUp = s.isaudUp := rfl
@[simp] theorem State.onReg_celcen0Up (s : State) (f : Region → Region) : (s.onReg f).celcen0Up = s.celcen0Up := rfl
@[simp] theorem State.onReg_celcen1Up (s : State) (f : Region → Region) : (s.onReg f).celcen1Up = s.celcen1Up := rfl
@[simp] theorem State.onReg_deadDies (s : State) (f : Region → Region) : (s.onReg f).deadDies = s.deadDies := rfl
@[simp] theorem State.onReg_deadPeers (s : State) (f : Region → Region) : (s.onReg f).deadPeers = s.deadPeers := rfl
@[simp] theorem State.onReg_reqs (s : State) (f : Region → Region) : (s.onReg f).reqs = s.reqs := rfl
@[simp] theorem State.onReg_resps (s : State) (f : Region → Region) : (s.onReg f).resps = s.resps := rfl
@[simp] theorem State.onReg_dropped (s : State) (f : Region → Region) : (s.onReg f).dropped = s.dropped := rfl
@[simp] theorem State.onReg_hostOps (s : State) (f : Region → Region) : (s.onReg f).hostOps = s.hostOps := rfl
@[simp] theorem State.onReg_hostResps (s : State) (f : Region → Region) : (s.onReg f).hostResps = s.hostResps := rfl
@[simp] theorem State.onReg_module (s : State) (f : Region → Region) : (s.onReg f).module = s.module := rfl
@[simp] theorem State.onReg_images (s : State) (f : Region → Region) : (s.onReg f).images = s.images := rfl

@[simp] theorem State.onPacer_agenda (s : State) (f : Pacer → Pacer) : (s.onPacer f).agenda = s.agenda := rfl
@[simp] theorem State.onPacer_cur (s : State) (f : Pacer → Pacer) : (s.onPacer f).cur = s.cur := rfl
@[simp] theorem State.onPacer_now (s : State) (f : Pacer → Pacer) : (s.onPacer f).now = s.now := rfl
@[simp] theorem State.onPacer_free (s : State) (f : Pacer → Pacer) : (s.onPacer f).free = s.free := rfl
@[simp] theorem State.onPacer_stamp (s : State) (f : Pacer → Pacer) : (s.onPacer f).stamp = s.stamp := rfl
@[simp] theorem State.onPacer_tlbOn (s : State) (f : Pacer → Pacer) : (s.onPacer f).tlbOn = s.tlbOn := rfl
@[simp] theorem State.onPacer_icacheOn (s : State) (f : Pacer → Pacer) : (s.onPacer f).icacheOn = s.icacheOn := rfl
@[simp] theorem State.onPacer_mem (s : State) (f : Pacer → Pacer) : (s.onPacer f).mem = s.mem := rfl
@[simp] theorem State.onPacer_tags (s : State) (f : Pacer → Pacer) : (s.onPacer f).tags = s.tags := rfl
@[simp] theorem State.onPacer_full (s : State) (f : Pacer → Pacer) : (s.onPacer f).full = s.full := rfl
@[simp] theorem State.onPacer_live (s : State) (f : Pacer → Pacer) : (s.onPacer f).live = s.live := rfl
@[simp] theorem State.onPacer_bad (s : State) (f : Pacer → Pacer) : (s.onPacer f).bad = s.bad := rfl
@[simp] theorem State.onPacer_badMeta (s : State) (f : Pacer → Pacer) : (s.onPacer f).badMeta = s.badMeta := rfl
@[simp] theorem State.onPacer_clearBad (s : State) (f : Pacer → Pacer) : (s.onPacer f).clearBad = s.clearBad := rfl
@[simp] theorem State.onPacer_hostWrite (s : State) (f : Pacer → Pacer) : (s.onPacer f).hostWrite = s.hostWrite := rfl
@[simp] theorem State.onPacer_slotTables (s : State) (f : Pacer → Pacer) : (s.onPacer f).slotTables = s.slotTables := rfl
@[simp] theorem State.onPacer_merge (s : State) (f : Pacer → Pacer) : (s.onPacer f).merge = s.merge := rfl
@[simp] theorem State.onPacer_dirty (s : State) (f : Pacer → Pacer) : (s.onPacer f).dirty = s.dirty := rfl
@[simp] theorem State.onPacer_tlb (s : State) (f : Pacer → Pacer) : (s.onPacer f).tlb = s.tlb := rfl
@[simp] theorem State.onPacer_invals (s : State) (f : Pacer → Pacer) : (s.onPacer f).invals = s.invals := rfl
@[simp] theorem State.onPacer_mgc (s : State) (f : Pacer → Pacer) : (s.onPacer f).mgc = s.mgc := rfl
@[simp] theorem State.onPacer_jnl (s : State) (f : Pacer → Pacer) : (s.onPacer f).jnl = s.jnl := rfl
@[simp] theorem State.onPacer_vds (s : State) (f : Pacer → Pacer) : (s.onPacer f).vds = s.vds := rfl
@[simp] theorem State.onPacer_lastVd (s : State) (f : Pacer → Pacer) : (s.onPacer f).lastVd = s.lastVd := rfl
@[simp] theorem State.onPacer_owners (s : State) (f : Pacer → Pacer) : (s.onPacer f).owners = s.owners := rfl
@[simp] theorem State.onPacer_queues (s : State) (f : Pacer → Pacer) : (s.onPacer f).queues = s.queues := rfl
@[simp] theorem State.onPacer_tasks (s : State) (f : Pacer → Pacer) : (s.onPacer f).tasks = s.tasks := rfl
@[simp] theorem State.onPacer_cancels (s : State) (f : Pacer → Pacer) : (s.onPacer f).cancels = s.cancels := rfl
@[simp] theorem State.onPacer_cancelledAt (s : State) (f : Pacer → Pacer) : (s.onPacer f).cancelledAt = s.cancelledAt := rfl
@[simp] theorem State.onPacer_decidedAt (s : State) (f : Pacer → Pacer) : (s.onPacer f).decidedAt = s.decidedAt := rfl
@[simp] theorem State.onPacer_heats (s : State) (f : Pacer → Pacer) : (s.onPacer f).heats = s.heats := rfl
@[simp] theorem State.onPacer_index (s : State) (f : Pacer → Pacer) : (s.onPacer f).index = s.index := rfl
@[simp] theorem State.onPacer_btes (s : State) (f : Pacer → Pacer) : (s.onPacer f).btes = s.btes := rfl
@[simp] theorem State.onPacer_bteLast (s : State) (f : Pacer → Pacer) : (s.onPacer f).bteLast = s.bteLast := rfl
@[simp] theorem State.onPacer_banks (s : State) (f : Pacer → Pacer) : (s.onPacer f).banks = s.banks := rfl
@[simp] theorem State.onPacer_decls (s : State) (f : Pacer → Pacer) : (s.onPacer f).decls = s.decls := rfl
@[simp] theorem State.onPacer_groups (s : State) (f : Pacer → Pacer) : (s.onPacer f).groups = s.groups := rfl
@[simp] theorem State.onPacer_batons (s : State) (f : Pacer → Pacer) : (s.onPacer f).batons = s.batons := rfl
@[simp] theorem State.onPacer_trigs (s : State) (f : Pacer → Pacer) : (s.onPacer f).trigs = s.trigs := rfl
@[simp] theorem State.onPacer_windows (s : State) (f : Pacer → Pacer) : (s.onPacer f).windows = s.windows := rfl
@[simp] theorem State.onPacer_comm (s : State) (f : Pacer → Pacer) : (s.onPacer f).comm = s.comm := rfl
@[simp] theorem State.onPacer_isaudUp (s : State) (f : Pacer → Pacer) : (s.onPacer f).isaudUp = s.isaudUp := rfl
@[simp] theorem State.onPacer_celcen0Up (s : State) (f : Pacer → Pacer) : (s.onPacer f).celcen0Up = s.celcen0Up := rfl
@[simp] theorem State.onPacer_celcen1Up (s : State) (f : Pacer → Pacer) : (s.onPacer f).celcen1Up = s.celcen1Up := rfl
@[simp] theorem State.onPacer_deadDies (s : State) (f : Pacer → Pacer) : (s.onPacer f).deadDies = s.deadDies := rfl
@[simp] theorem State.onPacer_deadPeers (s : State) (f : Pacer → Pacer) : (s.onPacer f).deadPeers = s.deadPeers := rfl
@[simp] theorem State.onPacer_reqs (s : State) (f : Pacer → Pacer) : (s.onPacer f).reqs = s.reqs := rfl
@[simp] theorem State.onPacer_resps (s : State) (f : Pacer → Pacer) : (s.onPacer f).resps = s.resps := rfl
@[simp] theorem State.onPacer_dropped (s : State) (f : Pacer → Pacer) : (s.onPacer f).dropped = s.dropped := rfl
@[simp] theorem State.onPacer_hostOps (s : State) (f : Pacer → Pacer) : (s.onPacer f).hostOps = s.hostOps := rfl
@[simp] theorem State.onPacer_hostResps (s : State) (f : Pacer → Pacer) : (s.onPacer f).hostResps = s.hostResps := rfl
@[simp] theorem State.onPacer_module (s : State) (f : Pacer → Pacer) : (s.onPacer f).module = s.module := rfl
@[simp] theorem State.onPacer_images (s : State) (f : Pacer → Pacer) : (s.onPacer f).images = s.images := rfl

@[simp] theorem State.wx_agenda (s : State) (i : XReg) (v : Word) : (s.wx i v).agenda = s.agenda := rfl
@[simp] theorem State.wx_cur (s : State) (i : XReg) (v : Word) : (s.wx i v).cur = s.cur := rfl
@[simp] theorem State.wx_now (s : State) (i : XReg) (v : Word) : (s.wx i v).now = s.now := rfl
@[simp] theorem State.wx_free (s : State) (i : XReg) (v : Word) : (s.wx i v).free = s.free := rfl
@[simp] theorem State.wx_stamp (s : State) (i : XReg) (v : Word) : (s.wx i v).stamp = s.stamp := rfl
@[simp] theorem State.wx_tlbOn (s : State) (i : XReg) (v : Word) : (s.wx i v).tlbOn = s.tlbOn := rfl
@[simp] theorem State.wx_icacheOn (s : State) (i : XReg) (v : Word) : (s.wx i v).icacheOn = s.icacheOn := rfl
@[simp] theorem State.wx_mem (s : State) (i : XReg) (v : Word) : (s.wx i v).mem = s.mem := rfl
@[simp] theorem State.wx_tags (s : State) (i : XReg) (v : Word) : (s.wx i v).tags = s.tags := rfl
@[simp] theorem State.wx_full (s : State) (i : XReg) (v : Word) : (s.wx i v).full = s.full := rfl
@[simp] theorem State.wx_live (s : State) (i : XReg) (v : Word) : (s.wx i v).live = s.live := rfl
@[simp] theorem State.wx_bad (s : State) (i : XReg) (v : Word) : (s.wx i v).bad = s.bad := rfl
@[simp] theorem State.wx_badMeta (s : State) (i : XReg) (v : Word) : (s.wx i v).badMeta = s.badMeta := rfl
@[simp] theorem State.wx_clearBad (s : State) (i : XReg) (v : Word) : (s.wx i v).clearBad = s.clearBad := rfl
@[simp] theorem State.wx_hostWrite (s : State) (i : XReg) (v : Word) : (s.wx i v).hostWrite = s.hostWrite := rfl
@[simp] theorem State.wx_slotTables (s : State) (i : XReg) (v : Word) : (s.wx i v).slotTables = s.slotTables := rfl
@[simp] theorem State.wx_merge (s : State) (i : XReg) (v : Word) : (s.wx i v).merge = s.merge := rfl
@[simp] theorem State.wx_dirty (s : State) (i : XReg) (v : Word) : (s.wx i v).dirty = s.dirty := rfl
@[simp] theorem State.wx_tlb (s : State) (i : XReg) (v : Word) : (s.wx i v).tlb = s.tlb := rfl
@[simp] theorem State.wx_invals (s : State) (i : XReg) (v : Word) : (s.wx i v).invals = s.invals := rfl
@[simp] theorem State.wx_mgc (s : State) (i : XReg) (v : Word) : (s.wx i v).mgc = s.mgc := rfl
@[simp] theorem State.wx_jnl (s : State) (i : XReg) (v : Word) : (s.wx i v).jnl = s.jnl := rfl
@[simp] theorem State.wx_vds (s : State) (i : XReg) (v : Word) : (s.wx i v).vds = s.vds := rfl
@[simp] theorem State.wx_lastVd (s : State) (i : XReg) (v : Word) : (s.wx i v).lastVd = s.lastVd := rfl
@[simp] theorem State.wx_owners (s : State) (i : XReg) (v : Word) : (s.wx i v).owners = s.owners := rfl
@[simp] theorem State.wx_queues (s : State) (i : XReg) (v : Word) : (s.wx i v).queues = s.queues := rfl
@[simp] theorem State.wx_tasks (s : State) (i : XReg) (v : Word) : (s.wx i v).tasks = s.tasks := rfl
@[simp] theorem State.wx_cancels (s : State) (i : XReg) (v : Word) : (s.wx i v).cancels = s.cancels := rfl
@[simp] theorem State.wx_cancelledAt (s : State) (i : XReg) (v : Word) : (s.wx i v).cancelledAt = s.cancelledAt := rfl
@[simp] theorem State.wx_decidedAt (s : State) (i : XReg) (v : Word) : (s.wx i v).decidedAt = s.decidedAt := rfl
@[simp] theorem State.wx_heats (s : State) (i : XReg) (v : Word) : (s.wx i v).heats = s.heats := rfl
@[simp] theorem State.wx_index (s : State) (i : XReg) (v : Word) : (s.wx i v).index = s.index := rfl
@[simp] theorem State.wx_btes (s : State) (i : XReg) (v : Word) : (s.wx i v).btes = s.btes := rfl
@[simp] theorem State.wx_bteLast (s : State) (i : XReg) (v : Word) : (s.wx i v).bteLast = s.bteLast := rfl
@[simp] theorem State.wx_banks (s : State) (i : XReg) (v : Word) : (s.wx i v).banks = s.banks := rfl
@[simp] theorem State.wx_decls (s : State) (i : XReg) (v : Word) : (s.wx i v).decls = s.decls := rfl
@[simp] theorem State.wx_groups (s : State) (i : XReg) (v : Word) : (s.wx i v).groups = s.groups := rfl
@[simp] theorem State.wx_batons (s : State) (i : XReg) (v : Word) : (s.wx i v).batons = s.batons := rfl
@[simp] theorem State.wx_trigs (s : State) (i : XReg) (v : Word) : (s.wx i v).trigs = s.trigs := rfl
@[simp] theorem State.wx_windows (s : State) (i : XReg) (v : Word) : (s.wx i v).windows = s.windows := rfl
@[simp] theorem State.wx_comm (s : State) (i : XReg) (v : Word) : (s.wx i v).comm = s.comm := rfl
@[simp] theorem State.wx_isaudUp (s : State) (i : XReg) (v : Word) : (s.wx i v).isaudUp = s.isaudUp := rfl
@[simp] theorem State.wx_celcen0Up (s : State) (i : XReg) (v : Word) : (s.wx i v).celcen0Up = s.celcen0Up := rfl
@[simp] theorem State.wx_celcen1Up (s : State) (i : XReg) (v : Word) : (s.wx i v).celcen1Up = s.celcen1Up := rfl
@[simp] theorem State.wx_deadDies (s : State) (i : XReg) (v : Word) : (s.wx i v).deadDies = s.deadDies := rfl
@[simp] theorem State.wx_deadPeers (s : State) (i : XReg) (v : Word) : (s.wx i v).deadPeers = s.deadPeers := rfl
@[simp] theorem State.wx_reqs (s : State) (i : XReg) (v : Word) : (s.wx i v).reqs = s.reqs := rfl
@[simp] theorem State.wx_resps (s : State) (i : XReg) (v : Word) : (s.wx i v).resps = s.resps := rfl
@[simp] theorem State.wx_dropped (s : State) (i : XReg) (v : Word) : (s.wx i v).dropped = s.dropped := rfl
@[simp] theorem State.wx_hostOps (s : State) (i : XReg) (v : Word) : (s.wx i v).hostOps = s.hostOps := rfl
@[simp] theorem State.wx_hostResps (s : State) (i : XReg) (v : Word) : (s.wx i v).hostResps = s.hostResps := rfl
@[simp] theorem State.wx_module (s : State) (i : XReg) (v : Word) : (s.wx i v).module = s.module := rfl
@[simp] theorem State.wx_images (s : State) (i : XReg) (v : Word) : (s.wx i v).images = s.images := rfl

@[simp] theorem State.wc_agenda (s : State) (i : CReg) (v : Cap) : (s.wc i v).agenda = s.agenda := rfl
@[simp] theorem State.wc_cur (s : State) (i : CReg) (v : Cap) : (s.wc i v).cur = s.cur := rfl
@[simp] theorem State.wc_now (s : State) (i : CReg) (v : Cap) : (s.wc i v).now = s.now := rfl
@[simp] theorem State.wc_free (s : State) (i : CReg) (v : Cap) : (s.wc i v).free = s.free := rfl
@[simp] theorem State.wc_stamp (s : State) (i : CReg) (v : Cap) : (s.wc i v).stamp = s.stamp := rfl
@[simp] theorem State.wc_tlbOn (s : State) (i : CReg) (v : Cap) : (s.wc i v).tlbOn = s.tlbOn := rfl
@[simp] theorem State.wc_icacheOn (s : State) (i : CReg) (v : Cap) : (s.wc i v).icacheOn = s.icacheOn := rfl
@[simp] theorem State.wc_mem (s : State) (i : CReg) (v : Cap) : (s.wc i v).mem = s.mem := rfl
@[simp] theorem State.wc_tags (s : State) (i : CReg) (v : Cap) : (s.wc i v).tags = s.tags := rfl
@[simp] theorem State.wc_full (s : State) (i : CReg) (v : Cap) : (s.wc i v).full = s.full := rfl
@[simp] theorem State.wc_live (s : State) (i : CReg) (v : Cap) : (s.wc i v).live = s.live := rfl
@[simp] theorem State.wc_bad (s : State) (i : CReg) (v : Cap) : (s.wc i v).bad = s.bad := rfl
@[simp] theorem State.wc_badMeta (s : State) (i : CReg) (v : Cap) : (s.wc i v).badMeta = s.badMeta := rfl
@[simp] theorem State.wc_clearBad (s : State) (i : CReg) (v : Cap) : (s.wc i v).clearBad = s.clearBad := rfl
@[simp] theorem State.wc_hostWrite (s : State) (i : CReg) (v : Cap) : (s.wc i v).hostWrite = s.hostWrite := rfl
@[simp] theorem State.wc_slotTables (s : State) (i : CReg) (v : Cap) : (s.wc i v).slotTables = s.slotTables := rfl
@[simp] theorem State.wc_merge (s : State) (i : CReg) (v : Cap) : (s.wc i v).merge = s.merge := rfl
@[simp] theorem State.wc_dirty (s : State) (i : CReg) (v : Cap) : (s.wc i v).dirty = s.dirty := rfl
@[simp] theorem State.wc_tlb (s : State) (i : CReg) (v : Cap) : (s.wc i v).tlb = s.tlb := rfl
@[simp] theorem State.wc_invals (s : State) (i : CReg) (v : Cap) : (s.wc i v).invals = s.invals := rfl
@[simp] theorem State.wc_mgc (s : State) (i : CReg) (v : Cap) : (s.wc i v).mgc = s.mgc := rfl
@[simp] theorem State.wc_jnl (s : State) (i : CReg) (v : Cap) : (s.wc i v).jnl = s.jnl := rfl
@[simp] theorem State.wc_vds (s : State) (i : CReg) (v : Cap) : (s.wc i v).vds = s.vds := rfl
@[simp] theorem State.wc_lastVd (s : State) (i : CReg) (v : Cap) : (s.wc i v).lastVd = s.lastVd := rfl
@[simp] theorem State.wc_owners (s : State) (i : CReg) (v : Cap) : (s.wc i v).owners = s.owners := rfl
@[simp] theorem State.wc_queues (s : State) (i : CReg) (v : Cap) : (s.wc i v).queues = s.queues := rfl
@[simp] theorem State.wc_tasks (s : State) (i : CReg) (v : Cap) : (s.wc i v).tasks = s.tasks := rfl
@[simp] theorem State.wc_cancels (s : State) (i : CReg) (v : Cap) : (s.wc i v).cancels = s.cancels := rfl
@[simp] theorem State.wc_cancelledAt (s : State) (i : CReg) (v : Cap) : (s.wc i v).cancelledAt = s.cancelledAt := rfl
@[simp] theorem State.wc_decidedAt (s : State) (i : CReg) (v : Cap) : (s.wc i v).decidedAt = s.decidedAt := rfl
@[simp] theorem State.wc_heats (s : State) (i : CReg) (v : Cap) : (s.wc i v).heats = s.heats := rfl
@[simp] theorem State.wc_index (s : State) (i : CReg) (v : Cap) : (s.wc i v).index = s.index := rfl
@[simp] theorem State.wc_btes (s : State) (i : CReg) (v : Cap) : (s.wc i v).btes = s.btes := rfl
@[simp] theorem State.wc_bteLast (s : State) (i : CReg) (v : Cap) : (s.wc i v).bteLast = s.bteLast := rfl
@[simp] theorem State.wc_banks (s : State) (i : CReg) (v : Cap) : (s.wc i v).banks = s.banks := rfl
@[simp] theorem State.wc_decls (s : State) (i : CReg) (v : Cap) : (s.wc i v).decls = s.decls := rfl
@[simp] theorem State.wc_groups (s : State) (i : CReg) (v : Cap) : (s.wc i v).groups = s.groups := rfl
@[simp] theorem State.wc_batons (s : State) (i : CReg) (v : Cap) : (s.wc i v).batons = s.batons := rfl
@[simp] theorem State.wc_trigs (s : State) (i : CReg) (v : Cap) : (s.wc i v).trigs = s.trigs := rfl
@[simp] theorem State.wc_windows (s : State) (i : CReg) (v : Cap) : (s.wc i v).windows = s.windows := rfl
@[simp] theorem State.wc_comm (s : State) (i : CReg) (v : Cap) : (s.wc i v).comm = s.comm := rfl
@[simp] theorem State.wc_isaudUp (s : State) (i : CReg) (v : Cap) : (s.wc i v).isaudUp = s.isaudUp := rfl
@[simp] theorem State.wc_celcen0Up (s : State) (i : CReg) (v : Cap) : (s.wc i v).celcen0Up = s.celcen0Up := rfl
@[simp] theorem State.wc_celcen1Up (s : State) (i : CReg) (v : Cap) : (s.wc i v).celcen1Up = s.celcen1Up := rfl
@[simp] theorem State.wc_deadDies (s : State) (i : CReg) (v : Cap) : (s.wc i v).deadDies = s.deadDies := rfl
@[simp] theorem State.wc_deadPeers (s : State) (i : CReg) (v : Cap) : (s.wc i v).deadPeers = s.deadPeers := rfl
@[simp] theorem State.wc_reqs (s : State) (i : CReg) (v : Cap) : (s.wc i v).reqs = s.reqs := rfl
@[simp] theorem State.wc_resps (s : State) (i : CReg) (v : Cap) : (s.wc i v).resps = s.resps := rfl
@[simp] theorem State.wc_dropped (s : State) (i : CReg) (v : Cap) : (s.wc i v).dropped = s.dropped := rfl
@[simp] theorem State.wc_hostOps (s : State) (i : CReg) (v : Cap) : (s.wc i v).hostOps = s.hostOps := rfl
@[simp] theorem State.wc_hostResps (s : State) (i : CReg) (v : Cap) : (s.wc i v).hostResps = s.hostResps := rfl
@[simp] theorem State.wc_module (s : State) (i : CReg) (v : Cap) : (s.wc i v).module = s.module := rfl
@[simp] theorem State.wc_images (s : State) (i : CReg) (v : Cap) : (s.wc i v).images = s.images := rfl

@[simp] theorem State.jump_agenda (s : State) (a : Word) : (s.jump a).agenda = s.agenda := rfl
@[simp] theorem State.jump_cur (s : State) (a : Word) : (s.jump a).cur = s.cur := rfl
@[simp] theorem State.jump_now (s : State) (a : Word) : (s.jump a).now = s.now := rfl
@[simp] theorem State.jump_free (s : State) (a : Word) : (s.jump a).free = s.free := rfl
@[simp] theorem State.jump_stamp (s : State) (a : Word) : (s.jump a).stamp = s.stamp := rfl
@[simp] theorem State.jump_tlbOn (s : State) (a : Word) : (s.jump a).tlbOn = s.tlbOn := rfl
@[simp] theorem State.jump_icacheOn (s : State) (a : Word) : (s.jump a).icacheOn = s.icacheOn := rfl
@[simp] theorem State.jump_mem (s : State) (a : Word) : (s.jump a).mem = s.mem := rfl
@[simp] theorem State.jump_tags (s : State) (a : Word) : (s.jump a).tags = s.tags := rfl
@[simp] theorem State.jump_full (s : State) (a : Word) : (s.jump a).full = s.full := rfl
@[simp] theorem State.jump_live (s : State) (a : Word) : (s.jump a).live = s.live := rfl
@[simp] theorem State.jump_bad (s : State) (a : Word) : (s.jump a).bad = s.bad := rfl
@[simp] theorem State.jump_badMeta (s : State) (a : Word) : (s.jump a).badMeta = s.badMeta := rfl
@[simp] theorem State.jump_clearBad (s : State) (a : Word) : (s.jump a).clearBad = s.clearBad := rfl
@[simp] theorem State.jump_hostWrite (s : State) (a : Word) : (s.jump a).hostWrite = s.hostWrite := rfl
@[simp] theorem State.jump_slotTables (s : State) (a : Word) : (s.jump a).slotTables = s.slotTables := rfl
@[simp] theorem State.jump_merge (s : State) (a : Word) : (s.jump a).merge = s.merge := rfl
@[simp] theorem State.jump_dirty (s : State) (a : Word) : (s.jump a).dirty = s.dirty := rfl
@[simp] theorem State.jump_tlb (s : State) (a : Word) : (s.jump a).tlb = s.tlb := rfl
@[simp] theorem State.jump_invals (s : State) (a : Word) : (s.jump a).invals = s.invals := rfl
@[simp] theorem State.jump_mgc (s : State) (a : Word) : (s.jump a).mgc = s.mgc := rfl
@[simp] theorem State.jump_jnl (s : State) (a : Word) : (s.jump a).jnl = s.jnl := rfl
@[simp] theorem State.jump_vds (s : State) (a : Word) : (s.jump a).vds = s.vds := rfl
@[simp] theorem State.jump_lastVd (s : State) (a : Word) : (s.jump a).lastVd = s.lastVd := rfl
@[simp] theorem State.jump_owners (s : State) (a : Word) : (s.jump a).owners = s.owners := rfl
@[simp] theorem State.jump_queues (s : State) (a : Word) : (s.jump a).queues = s.queues := rfl
@[simp] theorem State.jump_tasks (s : State) (a : Word) : (s.jump a).tasks = s.tasks := rfl
@[simp] theorem State.jump_cancels (s : State) (a : Word) : (s.jump a).cancels = s.cancels := rfl
@[simp] theorem State.jump_cancelledAt (s : State) (a : Word) : (s.jump a).cancelledAt = s.cancelledAt := rfl
@[simp] theorem State.jump_decidedAt (s : State) (a : Word) : (s.jump a).decidedAt = s.decidedAt := rfl
@[simp] theorem State.jump_heats (s : State) (a : Word) : (s.jump a).heats = s.heats := rfl
@[simp] theorem State.jump_index (s : State) (a : Word) : (s.jump a).index = s.index := rfl
@[simp] theorem State.jump_btes (s : State) (a : Word) : (s.jump a).btes = s.btes := rfl
@[simp] theorem State.jump_bteLast (s : State) (a : Word) : (s.jump a).bteLast = s.bteLast := rfl
@[simp] theorem State.jump_banks (s : State) (a : Word) : (s.jump a).banks = s.banks := rfl
@[simp] theorem State.jump_decls (s : State) (a : Word) : (s.jump a).decls = s.decls := rfl
@[simp] theorem State.jump_groups (s : State) (a : Word) : (s.jump a).groups = s.groups := rfl
@[simp] theorem State.jump_batons (s : State) (a : Word) : (s.jump a).batons = s.batons := rfl
@[simp] theorem State.jump_trigs (s : State) (a : Word) : (s.jump a).trigs = s.trigs := rfl
@[simp] theorem State.jump_windows (s : State) (a : Word) : (s.jump a).windows = s.windows := rfl
@[simp] theorem State.jump_comm (s : State) (a : Word) : (s.jump a).comm = s.comm := rfl
@[simp] theorem State.jump_isaudUp (s : State) (a : Word) : (s.jump a).isaudUp = s.isaudUp := rfl
@[simp] theorem State.jump_celcen0Up (s : State) (a : Word) : (s.jump a).celcen0Up = s.celcen0Up := rfl
@[simp] theorem State.jump_celcen1Up (s : State) (a : Word) : (s.jump a).celcen1Up = s.celcen1Up := rfl
@[simp] theorem State.jump_deadDies (s : State) (a : Word) : (s.jump a).deadDies = s.deadDies := rfl
@[simp] theorem State.jump_deadPeers (s : State) (a : Word) : (s.jump a).deadPeers = s.deadPeers := rfl
@[simp] theorem State.jump_reqs (s : State) (a : Word) : (s.jump a).reqs = s.reqs := rfl
@[simp] theorem State.jump_resps (s : State) (a : Word) : (s.jump a).resps = s.resps := rfl
@[simp] theorem State.jump_dropped (s : State) (a : Word) : (s.jump a).dropped = s.dropped := rfl
@[simp] theorem State.jump_hostOps (s : State) (a : Word) : (s.jump a).hostOps = s.hostOps := rfl
@[simp] theorem State.jump_hostResps (s : State) (a : Word) : (s.jump a).hostResps = s.hostResps := rfl
@[simp] theorem State.jump_module (s : State) (a : Word) : (s.jump a).module = s.module := rfl
@[simp] theorem State.jump_images (s : State) (a : Word) : (s.jump a).images = s.images := rfl

@[simp] theorem State.advance_agenda (s : State) : (s.advance).agenda = s.agenda := rfl
@[simp] theorem State.advance_cur (s : State) : (s.advance).cur = s.cur := rfl
@[simp] theorem State.advance_now (s : State) : (s.advance).now = s.now := rfl
@[simp] theorem State.advance_free (s : State) : (s.advance).free = s.free := rfl
@[simp] theorem State.advance_stamp (s : State) : (s.advance).stamp = s.stamp := rfl
@[simp] theorem State.advance_tlbOn (s : State) : (s.advance).tlbOn = s.tlbOn := rfl
@[simp] theorem State.advance_icacheOn (s : State) : (s.advance).icacheOn = s.icacheOn := rfl
@[simp] theorem State.advance_mem (s : State) : (s.advance).mem = s.mem := rfl
@[simp] theorem State.advance_tags (s : State) : (s.advance).tags = s.tags := rfl
@[simp] theorem State.advance_full (s : State) : (s.advance).full = s.full := rfl
@[simp] theorem State.advance_live (s : State) : (s.advance).live = s.live := rfl
@[simp] theorem State.advance_bad (s : State) : (s.advance).bad = s.bad := rfl
@[simp] theorem State.advance_badMeta (s : State) : (s.advance).badMeta = s.badMeta := rfl
@[simp] theorem State.advance_clearBad (s : State) : (s.advance).clearBad = s.clearBad := rfl
@[simp] theorem State.advance_hostWrite (s : State) : (s.advance).hostWrite = s.hostWrite := rfl
@[simp] theorem State.advance_slotTables (s : State) : (s.advance).slotTables = s.slotTables := rfl
@[simp] theorem State.advance_merge (s : State) : (s.advance).merge = s.merge := rfl
@[simp] theorem State.advance_dirty (s : State) : (s.advance).dirty = s.dirty := rfl
@[simp] theorem State.advance_tlb (s : State) : (s.advance).tlb = s.tlb := rfl
@[simp] theorem State.advance_invals (s : State) : (s.advance).invals = s.invals := rfl
@[simp] theorem State.advance_mgc (s : State) : (s.advance).mgc = s.mgc := rfl
@[simp] theorem State.advance_jnl (s : State) : (s.advance).jnl = s.jnl := rfl
@[simp] theorem State.advance_vds (s : State) : (s.advance).vds = s.vds := rfl
@[simp] theorem State.advance_lastVd (s : State) : (s.advance).lastVd = s.lastVd := rfl
@[simp] theorem State.advance_owners (s : State) : (s.advance).owners = s.owners := rfl
@[simp] theorem State.advance_queues (s : State) : (s.advance).queues = s.queues := rfl
@[simp] theorem State.advance_tasks (s : State) : (s.advance).tasks = s.tasks := rfl
@[simp] theorem State.advance_cancels (s : State) : (s.advance).cancels = s.cancels := rfl
@[simp] theorem State.advance_cancelledAt (s : State) : (s.advance).cancelledAt = s.cancelledAt := rfl
@[simp] theorem State.advance_decidedAt (s : State) : (s.advance).decidedAt = s.decidedAt := rfl
@[simp] theorem State.advance_heats (s : State) : (s.advance).heats = s.heats := rfl
@[simp] theorem State.advance_index (s : State) : (s.advance).index = s.index := rfl
@[simp] theorem State.advance_btes (s : State) : (s.advance).btes = s.btes := rfl
@[simp] theorem State.advance_bteLast (s : State) : (s.advance).bteLast = s.bteLast := rfl
@[simp] theorem State.advance_banks (s : State) : (s.advance).banks = s.banks := rfl
@[simp] theorem State.advance_decls (s : State) : (s.advance).decls = s.decls := rfl
@[simp] theorem State.advance_groups (s : State) : (s.advance).groups = s.groups := rfl
@[simp] theorem State.advance_batons (s : State) : (s.advance).batons = s.batons := rfl
@[simp] theorem State.advance_trigs (s : State) : (s.advance).trigs = s.trigs := rfl
@[simp] theorem State.advance_windows (s : State) : (s.advance).windows = s.windows := rfl
@[simp] theorem State.advance_comm (s : State) : (s.advance).comm = s.comm := rfl
@[simp] theorem State.advance_isaudUp (s : State) : (s.advance).isaudUp = s.isaudUp := rfl
@[simp] theorem State.advance_celcen0Up (s : State) : (s.advance).celcen0Up = s.celcen0Up := rfl
@[simp] theorem State.advance_celcen1Up (s : State) : (s.advance).celcen1Up = s.celcen1Up := rfl
@[simp] theorem State.advance_deadDies (s : State) : (s.advance).deadDies = s.deadDies := rfl
@[simp] theorem State.advance_deadPeers (s : State) : (s.advance).deadPeers = s.deadPeers := rfl
@[simp] theorem State.advance_reqs (s : State) : (s.advance).reqs = s.reqs := rfl
@[simp] theorem State.advance_resps (s : State) : (s.advance).resps = s.resps := rfl
@[simp] theorem State.advance_dropped (s : State) : (s.advance).dropped = s.dropped := rfl
@[simp] theorem State.advance_hostOps (s : State) : (s.advance).hostOps = s.hostOps := rfl
@[simp] theorem State.advance_hostResps (s : State) : (s.advance).hostResps = s.hostResps := rfl
@[simp] theorem State.advance_module (s : State) : (s.advance).module = s.module := rfl
@[simp] theorem State.advance_images (s : State) : (s.advance).images = s.images := rfl

/-! ### The regions after an update -/

@[simp] theorem State.setRegion_same (s : State) (r : Nat) (g : Region) : (s.setRegion r g).region r = g := by simp [State.region, State.setRegion]
theorem State.setRegion_other (s : State) {r q : Nat} (g : Region) (h : q ≠ r) : (s.setRegion r g).region q = s.region q := by
  simp [State.region, State.setRegion, AMap.findD_put_other _ _ _ h]
@[simp] theorem State.setRegion_twice (s : State) (r : Nat) (g h : Region) : (s.setRegion r g).setRegion r h = s.setRegion r h := by
  simp [State.setRegion]
@[simp] theorem State.setReg_reg (s : State) (g : Region) : (s.setReg g).reg = g := by simp [State.reg, State.setReg]
theorem State.setReg_other (s : State) {q : Nat} (g : Region) (h : q ≠ s.cur) : (s.setReg g).region q = s.region q := s.setRegion_other g h
@[simp] theorem State.setReg_twice (s : State) (g h : Region) : (s.setReg g).setReg h = s.setReg h := by simp [State.setReg]
@[simp] theorem State.onReg_reg (s : State) (f : Region → Region) : (s.onReg f).reg = f s.reg := by simp [State.onReg]
theorem State.onReg_other (s : State) {q : Nat} (f : Region → Region) (h : q ≠ s.cur) : (s.onReg f).region q = s.region q := s.setReg_other _ h
@[simp] theorem State.onRegion_same (s : State) (r : Nat) (f : Region → Region) : (s.onRegion r f).region r = f (s.region r) := by
  simp [State.onRegion]
theorem State.onRegion_other (s : State) {r q : Nat} (f : Region → Region) (h : q ≠ r) : (s.onRegion r f).region q = s.region q :=
  s.setRegion_other _ h
@[simp] theorem State.onPacer_reg (s : State) (f : Pacer → Pacer) : (s.onPacer f).reg = { s.reg with pacer := f s.reg.pacer } := by
  simp [State.onPacer]
@[simp] theorem State.onPacer_twice (s : State) (f g : Pacer → Pacer) : (s.onPacer f).onPacer g = s.onPacer (fun p => g (f p)) := by
  simp [State.onPacer]
@[simp] theorem State.onReg_twice (s : State) (f g : Region → Region) : (s.onReg f).onReg g = s.onReg (fun r => g (f r)) := by
  simp [State.onReg]

/-! ### Registers -/

@[simp] theorem Pacer.rx_zero (p : Pacer) : p.rx 0 = 0 := by simp [Pacer.rx]
@[simp] theorem Pacer.rc_zero (p : Pacer) : p.rc 0 = Cap.null := by simp [Pacer.rc]

theorem Pacer.rx_wx (p : Pacer) (d r : XReg) (v : Word) : (p.wx d v).rx r = if r = d ∧ d ≠ 0 then v else p.rx r := by
  by_cases hd : d = 0
  · rw [if_neg (fun h => h.2 hd), Pacer.wx, if_pos hd]
  · rw [Pacer.wx, if_neg hd]
    by_cases e : r = d
    · rw [if_pos ⟨e, hd⟩, Pacer.rx, if_neg (e ▸ hd)]; subst e; exact Vector.getElem_set_self _
    · rw [if_neg (fun h => e h.1), Pacer.rx, Pacer.rx]
      have : d.toNat ≠ r.toNat := fun h => e (BitVec.eq_of_toNat_eq h.symm)
      split
      · rfl
      · exact Vector.getElem_set_ne d.isLt r.isLt this

theorem Pacer.rc_wc (p : Pacer) (d r : CReg) (v : Cap) : (p.wc d v).rc r = if r = d ∧ d ≠ 0 then v else p.rc r := by
  by_cases hd : d = 0
  · rw [if_neg (fun h => h.2 hd), Pacer.wc, if_pos hd]
  · rw [Pacer.wc, if_neg hd]
    by_cases e : r = d
    · rw [if_pos ⟨e, hd⟩, Pacer.rc, if_neg (e ▸ hd)]; subst e; exact Vector.getElem_set_self _
    · rw [if_neg (fun h => e h.1), Pacer.rc, Pacer.rc]
      have : d.toNat ≠ r.toNat := fun h => e (BitVec.eq_of_toNat_eq h.symm)
      split
      · rfl
      · exact Vector.getElem_set_ne d.isLt r.isLt this

@[simp] theorem Pacer.wx_c (p : Pacer) (d : XReg) (v : Word) : (p.wx d v).c = p.c := by unfold Pacer.wx; split <;> rfl
@[simp] theorem Pacer.wx_k (p : Pacer) (d : XReg) (v : Word) : (p.wx d v).k = p.k := by unfold Pacer.wx; split <;> rfl
@[simp] theorem Pacer.wx_kValid (p : Pacer) (d : XReg) (v : Word) : (p.wx d v).kValid = p.kValid := by unfold Pacer.wx; split <;> rfl
@[simp] theorem Pacer.wx_pcc (p : Pacer) (d : XReg) (v : Word) : (p.wx d v).pcc = p.pcc := by unfold Pacer.wx; split <;> rfl
@[simp] theorem Pacer.wx_epcc (p : Pacer) (d : XReg) (v : Word) : (p.wx d v).epcc = p.epcc := by unfold Pacer.wx; split <;> rfl
@[simp] theorem Pacer.wx_mask (p : Pacer) (d : XReg) (v : Word) : (p.wx d v).mask = p.mask := by unfold Pacer.wx; split <;> rfl
@[simp] theorem Pacer.wx_pmode (p : Pacer) (d : XReg) (v : Word) : (p.wx d v).pmode = p.pmode := by unfold Pacer.wx; split <;> rfl
@[simp] theorem Pacer.wx_mode (p : Pacer) (d : XReg) (v : Word) : (p.wx d v).mode = p.mode := by unfold Pacer.wx; split <;> rfl
@[simp] theorem Pacer.wx_epc (p : Pacer) (d : XReg) (v : Word) : (p.wx d v).epc = p.epc := by unfold Pacer.wx; split <;> rfl
@[simp] theorem Pacer.wx_cause (p : Pacer) (d : XReg) (v : Word) : (p.wx d v).cause = p.cause := by unfold Pacer.wx; split <;> rfl
@[simp] theorem Pacer.wx_tval (p : Pacer) (d : XReg) (v : Word) : (p.wx d v).tval = p.tval := by unfold Pacer.wx; split <;> rfl
@[simp] theorem Pacer.wx_fpmode (p : Pacer) (d : XReg) (v : Word) : (p.wx d v).fpmode = p.fpmode := by unfold Pacer.wx; split <;> rfl
@[simp] theorem Pacer.wx_taskid (p : Pacer) (d : XReg) (v : Word) : (p.wx d v).taskid = p.taskid := by unfold Pacer.wx; split <;> rfl
@[simp] theorem Pacer.wx_dcyc (p : Pacer) (d : XReg) (v : Word) : (p.wx d v).dcyc = p.dcyc := by unfold Pacer.wx; split <;> rfl
@[simp] theorem Pacer.wx_tvec (p : Pacer) (d : XReg) (v : Word) : (p.wx d v).tvec = p.tvec := by unfold Pacer.wx; split <;> rfl
@[simp] theorem Pacer.wx_savebase (p : Pacer) (d : XReg) (v : Word) : (p.wx d v).savebase = p.savebase := by unfold Pacer.wx; split <;> rfl
@[simp] theorem Pacer.wx_dbgctl (p : Pacer) (d : XReg) (v : Word) : (p.wx d v).dbgctl = p.dbgctl := by unfold Pacer.wx; split <;> rfl
@[simp] theorem Pacer.wx_dbgiaddr (p : Pacer) (d : XReg) (v : Word) : (p.wx d v).dbgiaddr = p.dbgiaddr := by unfold Pacer.wx; split <;> rfl
@[simp] theorem Pacer.wx_dbgdaddr (p : Pacer) (d : XReg) (v : Word) : (p.wx d v).dbgdaddr = p.dbgdaddr := by unfold Pacer.wx; split <;> rfl
@[simp] theorem Pacer.wx_fltpend (p : Pacer) (d : XReg) (v : Word) : (p.wx d v).fltpend = p.fltpend := by unfold Pacer.wx; split <;> rfl
@[simp] theorem Pacer.wx_sscr (p : Pacer) (d : XReg) (v : Word) : (p.wx d v).sscr = p.sscr := by unfold Pacer.wx; split <;> rfl
@[simp] theorem Pacer.wx_ev (p : Pacer) (d : XReg) (v : Word) : (p.wx d v).ev = p.ev := by unfold Pacer.wx; split <;> rfl
@[simp] theorem Pacer.wc_x (p : Pacer) (d : CReg) (v : Cap) : (p.wc d v).x = p.x := by unfold Pacer.wc; split <;> rfl
@[simp] theorem Pacer.wc_k (p : Pacer) (d : CReg) (v : Cap) : (p.wc d v).k = p.k := by unfold Pacer.wc; split <;> rfl
@[simp] theorem Pacer.wc_kValid (p : Pacer) (d : CReg) (v : Cap) : (p.wc d v).kValid = p.kValid := by unfold Pacer.wc; split <;> rfl
@[simp] theorem Pacer.wc_pcc (p : Pacer) (d : CReg) (v : Cap) : (p.wc d v).pcc = p.pcc := by unfold Pacer.wc; split <;> rfl
@[simp] theorem Pacer.wc_epcc (p : Pacer) (d : CReg) (v : Cap) : (p.wc d v).epcc = p.epcc := by unfold Pacer.wc; split <;> rfl
@[simp] theorem Pacer.wc_mask (p : Pacer) (d : CReg) (v : Cap) : (p.wc d v).mask = p.mask := by unfold Pacer.wc; split <;> rfl
@[simp] theorem Pacer.wc_pmode (p : Pacer) (d : CReg) (v : Cap) : (p.wc d v).pmode = p.pmode := by unfold Pacer.wc; split <;> rfl
@[simp] theorem Pacer.wc_mode (p : Pacer) (d : CReg) (v : Cap) : (p.wc d v).mode = p.mode := by unfold Pacer.wc; split <;> rfl
@[simp] theorem Pacer.wc_epc (p : Pacer) (d : CReg) (v : Cap) : (p.wc d v).epc = p.epc := by unfold Pacer.wc; split <;> rfl
@[simp] theorem Pacer.wc_cause (p : Pacer) (d : CReg) (v : Cap) : (p.wc d v).cause = p.cause := by unfold Pacer.wc; split <;> rfl
@[simp] theorem Pacer.wc_tval (p : Pacer) (d : CReg) (v : Cap) : (p.wc d v).tval = p.tval := by unfold Pacer.wc; split <;> rfl
@[simp] theorem Pacer.wc_fpmode (p : Pacer) (d : CReg) (v : Cap) : (p.wc d v).fpmode = p.fpmode := by unfold Pacer.wc; split <;> rfl
@[simp] theorem Pacer.wc_taskid (p : Pacer) (d : CReg) (v : Cap) : (p.wc d v).taskid = p.taskid := by unfold Pacer.wc; split <;> rfl
@[simp] theorem Pacer.wc_dcyc (p : Pacer) (d : CReg) (v : Cap) : (p.wc d v).dcyc = p.dcyc := by unfold Pacer.wc; split <;> rfl
@[simp] theorem Pacer.wc_tvec (p : Pacer) (d : CReg) (v : Cap) : (p.wc d v).tvec = p.tvec := by unfold Pacer.wc; split <;> rfl
@[simp] theorem Pacer.wc_savebase (p : Pacer) (d : CReg) (v : Cap) : (p.wc d v).savebase = p.savebase := by unfold Pacer.wc; split <;> rfl
@[simp] theorem Pacer.wc_dbgctl (p : Pacer) (d : CReg) (v : Cap) : (p.wc d v).dbgctl = p.dbgctl := by unfold Pacer.wc; split <;> rfl
@[simp] theorem Pacer.wc_dbgiaddr (p : Pacer) (d : CReg) (v : Cap) : (p.wc d v).dbgiaddr = p.dbgiaddr := by unfold Pacer.wc; split <;> rfl
@[simp] theorem Pacer.wc_dbgdaddr (p : Pacer) (d : CReg) (v : Cap) : (p.wc d v).dbgdaddr = p.dbgdaddr := by unfold Pacer.wc; split <;> rfl
@[simp] theorem Pacer.wc_fltpend (p : Pacer) (d : CReg) (v : Cap) : (p.wc d v).fltpend = p.fltpend := by unfold Pacer.wc; split <;> rfl
@[simp] theorem Pacer.wc_sscr (p : Pacer) (d : CReg) (v : Cap) : (p.wc d v).sscr = p.sscr := by unfold Pacer.wc; split <;> rfl
@[simp] theorem Pacer.wc_ev (p : Pacer) (d : CReg) (v : Cap) : (p.wc d v).ev = p.ev := by unfold Pacer.wc; split <;> rfl

@[simp] theorem Pacer.wx_frame (p : Pacer) (d : XReg) (v : Word) (c : Cap) : ({ p.wx d v with x := p.x, pcc := c } : Pacer) = { p with pcc := c } := by
  unfold Pacer.wx; split <;> rfl
@[simp] theorem Pacer.wc_frame (p : Pacer) (d : CReg) (v : Cap) (k : Cap) : ({ p.wc d v with c := p.c, pcc := k } : Pacer) = { p with pcc := k } := by
  unfold Pacer.wc; split <;> rfl

end Sys2Proof.Machine
end

