-- ==== Sys2Proof/Laws/Endings.lean ====
section
/-! SUPPORT. What the shared endings of instruction meanings do, said once: a result written, a jump, a trap, a wait. -/

namespace Sys2Proof.Machine

open Sys2Proof

/-- A change of the current region's record leaves everything else. -/
theorem State.here_setReg (s : State) (g : Region) : s.here (s.setReg g) := by
  exact ⟨rfl, fun r h => s.setReg_other g h⟩

theorem State.here_refl (s : State) : s.here s := ⟨rfl, fun _ _ => rfl⟩

theorem State.reg_of_put (s : State) (g : Region) : ({ s with regions := AMap.put s.regions s.cur g } : State).reg = g := s.setReg_reg g

/-- A change of the current Pacer leaves everything else. -/
theorem State.inPacer_onPacer (s : State) (f : Pacer → Pacer) : s.inPacer (s.onPacer f) := by
  exact ⟨s.here_setReg _, by simp⟩

@[simp] theorem State.advance_def (s : State) : s.advance = s.onPacer (fun p => { p with pcc := p.pcc.withCursor (s.pc + 4) }) := rfl
@[simp] theorem State.jump_def (s : State) (a : Word) : s.jump a = s.onPacer (fun p => { p with pcc := p.pcc.withCursor a }) := rfl
@[simp] theorem State.wx_def (s : State) (d : XReg) (v : Word) : s.wx d v = s.onPacer (fun p => p.wx d v) := rfl
@[simp] theorem State.wc_def (s : State) (d : CReg) (v : Cap) : s.wc d v = s.onPacer (fun p => p.wc d v) := rfl

/-- X(d) written and execution continuing at a. -/
theorem State.wroteX_onPacer (s : State) (d : XReg) (v a : Word) :
    s.wroteX (s.onPacer (fun p => { p.wx d v with pcc := p.pcc.withCursor a })) d v a := by
  refine ⟨⟨s.inPacer_onPacer _, by simp, by simp⟩, fun r => ?_⟩
  have e : (s.onPacer (fun p => { p.wx d v with pcc := p.pcc.withCursor a })).rx r = (s.reg.pacer.wx d v).rx r := by
    simp [State.rx, Pacer.rx]
  rw [e]; exact Pacer.rx_wx s.reg.pacer d r v

/-- C(d) written and execution continuing at a. -/
theorem State.wroteC_onPacer (s : State) (d : CReg) (v : Cap) (a : Word) :
    s.wroteC (s.onPacer (fun p => { p.wc d v with pcc := p.pcc.withCursor a })) d v a := by
  refine ⟨s.inPacer_onPacer _, by simp, by simp, fun r => ?_⟩
  have e : (s.onPacer (fun p => { p.wc d v with pcc := p.pcc.withCursor a })).rc r = (s.reg.pacer.wc d v).rc r := by
    simp [State.rc, Pacer.rc]
  rw [e]; exact Pacer.rc_wc s.reg.pacer d r v

theorem State.jumped_jump (s : State) (a : Word) : s.jumped (s.jump a) a := by
  exact ⟨⟨s.inPacer_onPacer _, by simp, by simp⟩, fun r => by simp [State.rx, Pacer.rx]⟩

@[simp] theorem State.pc_wx (s : State) (d : XReg) (v : Word) : (s.wx d v).pc = s.pc := by simp [State.pc]
@[simp] theorem State.pc_wc (s : State) (d : CReg) (v : Cap) : (s.wc d v).pc = s.pc := by simp [State.pc]

/-- An instruction that writes X(d). -/
theorem State.ret_wroteX (s : State) (d : XReg) (v : Word) : ∃ t, s.ret d v = .next t ∧ s.wroteX t d v s.nextPC := by
  refine ⟨_, rfl, ?_⟩
  have h := s.wroteX_onPacer d v (s.pc + 4)
  simpa [State.advance, State.nextPC, State.pc] using h

/-- An instruction that writes C(d). -/
theorem State.retC_wroteC (s : State) (d : CReg) (v : Cap) : ∃ t, s.retC d v = .next t ∧ s.wroteC t d v s.nextPC := by
  refine ⟨_, rfl, ?_⟩
  have h := s.wroteC_onPacer d v (s.pc + 4)
  simpa [State.advance, State.nextPC, State.pc] using h

/-- An instruction that only moves the PC on. -/
theorem State.advance_jumped (s : State) : s.jumped s.advance s.nextPC := s.jumped_jump _

/-- Trap entry. -/
theorem State.trapEntry_entered (s : State) (c : Byte) (v : Word) : s.entered (s.trapEntry c v) c v := by
  refine ⟨s.here_setReg _, ?_, ?_, ?_⟩ <;> simp [State.trapEntry, State.setReg_reg]

/-- A precise fault where MASK does not hide it. -/
theorem State.trap_entered (s : State) (c : Byte) (v : Word) (h : s.unmasked) : s.entered (s.trap c v) c v := by
  have : (s.sup && s.reg.pacer.mask) = false := by
    rcases h with h | h <;> simp [State.sup, h]
  simpa [State.trap, this] using s.trapEntry_entered c v

theorem State.fail_entered (s : State) (c : Byte) (v : Word) (h : s.unmasked) : ∃ t, s.fail c v = .next t ∧ s.entered t c v :=
  ⟨_, rfl, s.trap_entered c v h⟩

theorem State.fail0_entered (s : State) (c : Byte) (i : Instr) (h : s.unmasked) :
    ∃ t, s.fail0 c i = .next t ∧ s.entered t c (BitVec.ofNat 64 ((encodeWords i).headD 0)) :=
  ⟨_, rfl, s.trap_entered c _ h⟩

/-- A wait changes nothing but that the region waits. -/
theorem State.block_waits (s : State) :
    ∃ t, s.block = .next t ∧ s.here t ∧ ({ t.reg with wait := s.reg.wait } : Region) = s.reg ∧ t.pc = s.pc :=
  ⟨_, rfl, s.here_setReg _, by simp, by simp [State.pc]⟩

end Sys2Proof.Machine
end

