-- ==== Sys2Proof/Laws/Issue.lean ====
section
/-! SUPPORT. What an instruction on memory leaves when it issues its requests (R165, R234 to R236). -/

namespace Sys2Proof.Machine

open Sys2Proof

/-- Caches filled after walks change no other part of the machine. -/
theorem State.fillTlb_frame (s : State) (vd : Option Nat) (va : Nat) : ∃ e, s.fillTlb vd va = { s with tlb := e } := by
  unfold State.fillTlb
  split
  · split
    · exact ⟨_, rfl⟩
    · exact ⟨s.tlb, rfl⟩
  · exact ⟨s.tlb, rfl⟩

theorem State.walked_frame (s : State) (sp x n : Nat) : ∃ e, s.walked sp x n = { s with tlb := e } := by
  have key : ∀ (l : List (Nat × Nat)) (u : State), ∃ e, l.foldl (fun t p => t.fillTlb t.vd p.1) u = { u with tlb := e } := by
    intro l
    induction l with
    | nil => intro u; exact ⟨u.tlb, rfl⟩
    | cons p l ih =>
      intro u
      obtain ⟨e, he⟩ := u.fillTlb_frame u.vd p.1
      obtain ⟨f, hf⟩ := ih (u.fillTlb u.vd p.1)
      refine ⟨f, ?_⟩
      rw [List.foldl_cons, hf, he]
  unfold State.walked
  split
  · exact key _ _
  · exact ⟨s.tlb, rfl⟩

/-- The note of a watched address is all that an access leaves in its region. -/
theorem State.noteAccess_frame (s : State) (a : Word) (n : Nat) :
    s.noteAccess a n = s ∨ s.noteAccess a n = s.onReg (fun g => { g with dataBrk := some a }) := by
  unfold State.noteAccess
  simp only
  split
  · exact .inr rfl
  · exact .inl rfl

/-- Requests that a Pacer creates enter RQ, and nothing else changes (R165). -/
theorem State.enterPacer_spec (s : State) (rs : List NewReq) :
    ∃ qs : List Req, (s.enterPacer rs).1 = { s with reqs := s.reqs ++ qs, stamp := s.stamp + rs.length } ∧
      (s.enterPacer rs).2 = qs.map (·.stamp) ∧
      qs.map (fun q => (q.issuer, q.stage, q.key, q.port, q.act)) =
        rs.map (fun r => (Issuer.pacer s.cur, Stage.rq s.cur, r.key, r.port, r.act)) := by
  refine ⟨_, rfl, rfl, ?_⟩
  apply List.ext_getElem
  · simp
  · intro i h1 h2
    simp

/-- The state in which an access of n bytes at a finds its requests entered. -/
theorem State.noted_issues (s : State) (a : Word) (sp x n : Nat) (ps : List Piece) (acts : List Act) (rs : List NewReq)
    (hr : rs.map (fun r => (Issuer.pacer s.cur, Stage.rq s.cur, r.key, r.port, r.act)) =
      (ps.zip acts).map (fun p => (Issuer.pacer s.cur, Stage.rq s.cur, p.1.key, portOf p.1.key, p.2))) :
    ∃ qs, let t := (((s.walked sp x n).noteAccess a n).enterPacer rs).1
      s.issues t ps acts qs ∧ (((s.walked sp x n).noteAccess a n).enterPacer rs).2 = qs.map (·.stamp) ∧ t.reg.wait = s.reg.wait ∧
        t.reg.pacer = s.reg.pacer ∧ t.cur = s.cur := by
  obtain ⟨e, he⟩ := s.walked_frame sp x n
  rw [he]
  set u : State := { s with tlb := e } with hu
  have hreg : u.reg = s.reg := rfl
  have hoth : ∀ r, u.region r = s.region r := fun _ => rfl
  rcases u.noteAccess_frame a n with hn | hn
  · rw [hn]
    obtain ⟨qs, h1, h2, h3⟩ := u.enterPacer_spec rs
    refine ⟨qs, ?_⟩
    simp only [h1]
    exact ⟨⟨rfl, h3.trans hr, rfl, fun _ _ => rfl, rfl, rfl⟩, h2, rfl, rfl, rfl⟩
  · rw [hn]
    set v := u.onReg (fun g => { g with dataBrk := some a }) with hv
    obtain ⟨qs, h1, h2, h3⟩ := v.enterPacer_spec rs
    have hvr : v.reg = { s.reg with dataBrk := some a } := by rw [hv, State.onReg_reg, hreg]
    have e1 : ∀ (q : List Req) (m : Nat), ({ v with reqs := q, stamp := m } : State).reg = v.reg := fun _ _ => rfl
    have e2 : ∀ (q : List Req) (m : Nat) (r : Nat), ({ v with reqs := q, stamp := m } : State).region r = v.region r := fun _ _ _ => rfl
    refine ⟨qs, ?_⟩
    simp only [h1]
    refine ⟨⟨rfl, h3.trans hr, rfl, ?_, ?_, ?_⟩, h2, ?_, ?_, rfl⟩
    · intro r hne; rw [e2]; exact (State.onReg_other u _ hne).trans (hoth r)
    · rw [e1, hvr]
    · rw [e1, hvr]
    · rw [e1, hvr]
    · rw [e1, hvr]

/-- A wait begun for requests. -/
theorem State.await_issues {s t : State} {ps : List Piece} {acts : List Act} {qs : List Req} (k : Cont) (h : s.issues t ps acts qs)
    (hc : t.cur = s.cur) (hp : t.reg.pacer = s.reg.pacer) : s.waitsFor (t.await k (qs.map (·.stamp))) ps acts k := by
  obtain ⟨h1, h2, h3, h4, h5, h6⟩ := h
  have hr : (t.await k (qs.map (·.stamp))).reg = { t.reg with wait := .resp k (qs.map (·.stamp)) [] } := by
    simp [State.await]
  refine ⟨qs, ⟨h1, h2, h3, ?_, ?_, ?_⟩, ?_, ?_⟩
  · intro r hne
    rw [State.await, State.onReg_other _ _ (hc ▸ hne)]; exact h4 r hne
  · rw [hr]; exact h5
  · rw [hr]; exact h6
  · rw [hr]
  · rw [hr]; show t.reg.pacer.pcc = _; rw [hp]

/-- An instruction that waits for its requests. -/
theorem State.issueWait_waitsFor (s : State) (a : Word) (sp n : Nat) (ps : List Piece) (act : Piece → Act) (k : Cont) :
    ∃ t, s.issueWait a sp n ps act k = .next t ∧ s.waitsFor t ps (ps.map act) k := by
  obtain ⟨qs, h1, h2, h3, h4, h5⟩ := s.noted_issues a sp (inSpace a) n ps (ps.map act)
    (ps.map (fun p => { key := p.key, va := p.va, port := portOf p.key, cmpr := p.cmpr, act := act p })) (by
      clear * - ps; induction ps <;> simp_all)
  have h := State.await_issues k h1 h5 h4
  rw [← h2] at h
  exact ⟨_, rfl, h⟩

/-- An instruction that completes once its requests are issued. -/
theorem State.issueDone_sends (s : State) (a : Word) (sp n : Nat) (ps : List Piece) (acts : List Act) :
    ∃ t, s.issueDone a sp n ps acts = .next t ∧ s.sends t ps acts := by
  obtain ⟨qs, h1, h2, h3, h4, h5⟩ := s.noted_issues a sp (inSpace a) n ps acts
    ((ps.zip acts).map (fun p => { key := p.1.key, va := p.1.va, port := portOf p.1.key, cmpr := p.1.cmpr, act := p.2 })) (by
      simp [Function.comp_def])
  set t := (((s.walked sp (inSpace a) n).noteAccess a n).enterPacer
    ((ps.zip acts).map (fun p => { key := p.1.key, va := p.1.va, port := portOf p.1.key, cmpr := p.1.cmpr, act := p.2 }))).1 with ht
  refine ⟨t.advance, rfl, qs, ?_⟩
  obtain ⟨g1, g2, g3, g4, g5, g6⟩ := h1
  have hr : t.advance.reg = { t.reg with pacer := { t.reg.pacer with pcc := t.reg.pacer.pcc.withCursor (t.pc + 4) } } := by simp
  refine ⟨⟨g1, g2, g3, ?_, ?_, ?_⟩, ?_, ?_⟩
  · intro r hne
    rw [State.advance_def, State.onPacer, State.setReg_other _ _ (h5 ▸ hne)]; exact g4 r hne
  · rw [hr]; exact g5
  · rw [hr]; exact g6
  · rw [hr]; exact h3
  · rw [hr, State.pc, h4]; rfl

end Sys2Proof.Machine
end

