-- ==== Sys2Proof/Laws/Memory.lean ====
section
/-! SUPPORT. Memory: what a read finds after a write, and that every memory operation keeps the canonical form. -/

namespace Sys2Proof.Machine

open Sys2Proof

/-- The canonical form over lists: keys rise strictly, no listed byte is 0. -/
theorem Memory.wf_iff (m : List Host.Cell) : Memory.wf m = true ↔ m.Pairwise (fun p q => p.1 < q.1) ∧ ∀ p ∈ m, p.2 ≠ 0 := by
  induction m with
  | nil => simp [Memory.wf]
  | cons p m ih =>
    obtain ⟨j, b⟩ := p
    cases m with
    | nil => simp [Memory.wf]
    | cons q m =>
      obtain ⟨k, c⟩ := q
      rw [Memory.wf, Bool.and_eq_true, Bool.and_eq_true, ih, List.pairwise_cons (a := (j, b))]
      simp only [bne_iff_ne, ne_eq, decide_eq_true_eq, List.mem_cons, forall_eq_or_imp]
      constructor
      · rintro ⟨⟨h1, h2⟩, h3, h4⟩
        exact ⟨⟨⟨h2, fun a ha => h2.trans ((List.pairwise_cons.1 h3).1 a ha)⟩, h3⟩, h1, h4⟩
      · rintro ⟨⟨⟨h1, _⟩, h3⟩, h4, h5⟩
        exact ⟨⟨h4, h1⟩, h3, h5⟩

/-- A key that lies below every listed key reads 0. -/
theorem Memory.get_below (m : List Host.Cell) (k : Nat) (h : ∀ p ∈ m, k < p.1) : Memory.get m k = 0 := by
  induction m with
  | nil => rfl
  | cons p m ih =>
    obtain ⟨j, b⟩ := p
    have h1 := h (j, b) (by simp)
    simp only [Memory.get]
    rw [if_neg (by simp at h1; omega)]
    exact ih (fun q hq => h q (by simp [hq]))

/-- The keys of memory after one byte is set. -/
theorem Memory.mem_set {m : List Host.Cell} {k : Nat} {v : Byte} {p : Host.Cell} (h : p ∈ Memory.set m k v) :
    p ∈ m ∨ (p = (k, v) ∧ v ≠ 0) := by
  induction m with
  | nil =>
    simp only [Memory.set] at h
    split_ifs at h with hv
    · simp at h
    · simp at h; exact .inr ⟨h, hv⟩
  | cons q m ih =>
    obtain ⟨j, b⟩ := q
    simp only [Memory.set] at h
    split_ifs at h with h1 h2 h3 h4
    · exact .inl h
    · rcases List.mem_cons.1 h with h | h
      · exact .inr ⟨h, h2⟩
      · exact .inl h
    · exact .inl (by simp [h])
    · rcases List.mem_cons.1 h with h | h
      · exact .inr ⟨h, h4⟩
      · exact .inl (by simp [h])
    · rcases List.mem_cons.1 h with h | h
      · exact .inl (by simp [h])
      · rcases ih h with h | h
        · exact .inl (by simp [h])
        · exact .inr h

/-- Setting a byte keeps the canonical form. -/
theorem Memory.set_wf (m : List Host.Cell) (k : Nat) (v : Byte) (h : Memory.wf m = true) : Memory.wf (Memory.set m k v) = true := by
  rw [Memory.wf_iff] at h ⊢
  refine ⟨?_, fun p hp => ?_⟩
  · have hp := h.1
    clear h
    induction m with
    | nil => simp only [Memory.set]; split <;> simp
    | cons q m ih =>
      obtain ⟨j, b⟩ := q
      have hc := List.pairwise_cons.1 hp
      simp only [Memory.set]
      split_ifs with h1 h2 h3 h4
      · exact hp
      · refine List.pairwise_cons.2 ⟨fun a ha => ?_, hp⟩
        rcases List.mem_cons.1 ha with rfl | ha
        · exact h1
        · exact h1.trans (hc.1 a ha)
      · exact hc.2
      · exact List.pairwise_cons.2 ⟨fun a ha => by subst h3; exact hc.1 a ha, hc.2⟩
      · refine List.pairwise_cons.2 ⟨fun a ha => ?_, ih hc.2⟩
        rcases Memory.mem_set ha with ha | ⟨rfl, _⟩
        · exact hc.1 a ha
        · show j < k; omega
  · rcases Memory.mem_set hp with hp | ⟨rfl, hv⟩
    · exact h.2 p hp
    · exact hv

/-- A read after a write of one byte. -/
theorem Memory.get_set (m : List Host.Cell) (k j : Nat) (v : Byte) (h : Memory.wf m = true) :
    Memory.get (Memory.set m k v) j = if j = k then v else Memory.get m j := by
  have hp := ((Memory.wf_iff m).1 h).1
  clear h
  induction m with
  | nil =>
    simp only [Memory.set]
    split_ifs with h1 h2 h2
    · simp [Memory.get, h1]
    · rfl
    · simp [Memory.get, h2]
    · simp [Memory.get, h2]
  | cons q m ih =>
    obtain ⟨i, b⟩ := q
    have hc := List.pairwise_cons.1 hp
    simp only [Memory.set]
    split_ifs with h1 h2 h3 h3 h4
    · subst h3
      rw [Memory.get_below _ _ ?_, h2]
      intro p hm
      rcases List.mem_cons.1 hm with rfl | hm
      · exact h1
      · exact h1.trans (hc.1 p hm)
    · rfl
    · simp [Memory.get, h3]
    · simp [Memory.get, h3]
    · rename_i h5; subst h4
      subst h5
      have : Memory.get m j = 0 := Memory.get_below _ _ (fun p hm => hc.1 p hm)
      simp_all
    all_goals simp_all [Memory.get]

/-- Dropping bytes keeps the canonical form. -/
theorem Memory.filter_wf (m : List Host.Cell) (f : Host.Cell → Bool) (h : Memory.wf m = true) : Memory.wf (m.filter f) = true := by
  rw [Memory.wf_iff] at h ⊢
  exact ⟨h.1.sublist List.filter_sublist, fun p hp => h.2 p (List.mem_of_mem_filter hp)⟩

theorem Memory.clear_wf (m : List Host.Cell) (lo hi : Nat) (h : Memory.wf m = true) : Memory.wf (Memory.clear m lo hi) = true :=
  Memory.filter_wf m _ h

/-- Setting bytes under masks keeps the canonical form. -/
theorem Memory.setMasked_wf (bs : List (Byte × Byte)) : ∀ (m : List Host.Cell) (k : Nat), Memory.wf m = true →
    Memory.wf (Memory.setMasked m k bs) = true := by
  induction bs with
  | nil => intro m k h; exact h
  | cons p bs ih =>
    intro m k h
    obtain ⟨v, w⟩ := p
    simp only [Memory.setMasked]
    refine ih _ _ ?_
    split
    · exact h
    · exact Memory.set_wf _ _ _ h

theorem Memory.setBytes_wf (m : List Host.Cell) (k : Nat) (bs : List Byte) (h : Memory.wf m = true) :
    Memory.wf (Memory.setBytes m k bs) = true := Memory.setMasked_wf _ m k h

@[simp] theorem Memory.setBytes_nil (m : List Host.Cell) (k : Nat) : Memory.setBytes m k [] = m := rfl

theorem Memory.setBytes_cons (m : List Host.Cell) (k : Nat) (b : Byte) (bs : List Byte) :
    Memory.setBytes m k (b :: bs) = Memory.setBytes (Memory.set m k b) (k + 1) bs := by
  have h1 : ¬((0xFF : Byte) = 0) := by decide
  have h2 : ((Memory.get m k &&& ~~~(0xFF : Byte)) ||| (b &&& 0xFF)) = b := by
    have e1 : ~~~(0xFF : Byte) = 0 := by decide
    have e2 : b &&& 0xFF = b := BitVec.and_allOnes
    rw [e1, e2]; simp
  simp only [Memory.setBytes, List.map_cons, Memory.setMasked, if_neg h1, h2]

/-- A read after a write of bytes: the bytes written, and every other byte as before. -/
theorem Memory.get_setBytes (bs : List Byte) : ∀ (m : List Host.Cell) (k j : Nat), Memory.wf m = true →
    Memory.get (Memory.setBytes m k bs) j = if k ≤ j ∧ j < k + bs.length then bs.getD (j - k) 0 else Memory.get m j := by
  induction bs with
  | nil => intro m k j h; rw [if_neg (by simp)]; rfl
  | cons b bs ih =>
    intro m k j h
    rw [Memory.setBytes_cons, ih _ _ _ (Memory.set_wf _ _ _ h), Memory.get_set _ _ _ _ h]
    simp only [List.length_cons]
    by_cases hj : j = k
    · subst hj
      rw [if_neg (by omega), if_pos rfl, if_pos (by omega)]
      simp
    · by_cases hr : k + 1 ≤ j ∧ j < k + 1 + bs.length
      · rw [if_pos hr, if_pos (by omega)]
        obtain ⟨d, rfl⟩ : ∃ d, j = k + 1 + d := ⟨j - (k + 1), by omega⟩
        rw [show k + 1 + d - (k + 1) = d by omega, show k + 1 + d - k = d + 1 by omega]; simp
      · rw [if_neg hr, if_neg hj, if_neg (by omega)]

/-! ### The operations on State -/

theorem State.put_wf (s : State) (k : Nat) (bs : List Byte) (h : Memory.wf s.mem = true) : Memory.wf (s.put k bs).mem = true :=
  Memory.setBytes_wf _ _ _ h

theorem State.putWord_wf (s : State) (k v : Nat) (h : Memory.wf s.mem = true) : Memory.wf (s.putWord k v).mem = true := s.put_wf _ _ h

theorem State.scrub_wf (s : State) (lo hi : Nat) (h : Memory.wf s.mem = true) : Memory.wf (s.scrub lo hi).mem = true :=
  Memory.clear_wf _ _ _ h

@[simp] theorem State.wake_mem (s : State) (g : Nat) : (s.wake g).mem = s.mem := rfl
@[simp] theorem State.wake_tags (s : State) (g : Nat) : (s.wake g).tags = s.tags := rfl

/-- Waking monitors leaves memory and tags. -/
theorem State.foldl_wake (gs : List Nat) : ∀ s : State, (gs.foldl State.wake s).mem = s.mem ∧ (gs.foldl State.wake s).tags = s.tags := by
  induction gs with
  | nil => intro s; exact ⟨rfl, rfl⟩
  | cons g gs ih => intro s; simpa using ih (s.wake g)

@[simp] theorem State.noteMerge_mem (s : State) (k : Nat) (c : Bool) : (s.noteMerge k c).mem = s.mem := by unfold State.noteMerge; split <;> rfl
@[simp] theorem State.noteMerge_tags (s : State) (k : Nat) (c : Bool) : (s.noteMerge k c).tags = s.tags := by unfold State.noteMerge; split <;> rfl
@[simp] theorem State.touch_mem (s : State) (k n : Nat) : (s.touch k n).mem = s.mem := by unfold State.touch; split <;> rfl
@[simp] theorem State.touch_tags (s : State) (k n : Nat) : (s.touch k n).tags = s.tags := by unfold State.touch; split <;> rfl

/-- Maintenance entries change declarations alone. -/
theorem State.maintain_frame (s : State) (k : Nat) (new : List Byte) :
    (s.maintain k new).mem = s.mem ∧ (s.maintain k new).tags = s.tags := by
  unfold State.maintain; split <;> exact ⟨rfl, rfl⟩

/-- What an applied write makes of memory and tags. -/
theorem State.applyWrite_mem (s : State) (k : Nat) (bs : List (Byte × Byte)) (c : Bool) :
    (s.applyWrite k bs c).mem = Memory.setBytes s.mem k (s.merged k bs) ∧
      (s.applyWrite k bs c).tags = s.tags.filter (fun g => !(granulesOf k bs.length).contains g) := by
  unfold State.applyWrite
  simp only [State.foldl_wake, State.noteMerge_mem, State.touch_mem, State.noteMerge_tags, State.touch_tags, s.maintain_frame]
  simp

theorem State.applyWrite_wf (s : State) (k : Nat) (bs : List (Byte × Byte)) (c : Bool) (h : Memory.wf s.mem = true) :
    Memory.wf (s.applyWrite k bs c).mem = true := by
  rw [(s.applyWrite_mem k bs c).1]; exact Memory.setBytes_wf _ _ _ h

theorem State.log_wf (s : State) (k u c : Nat) (v : Word) (h : Memory.wf s.mem = true) : Memory.wf (s.log k u c v).mem = true := by
  simp only [State.log]; split
  · exact State.put_wf _ _ _ h
  · exact h

theorem State.devWrite_wf {s t : State} {l : Nat × Bool} {bs : List Byte} (he : s.devWrite l bs = .ok t) (h : Memory.wf s.mem = true) :
    Memory.wf t.mem = true := by
  unfold State.devWrite at he; split at he <;> cases he
  exact s.applyWrite_wf _ _ _ h

theorem State.devWrites_wf (ws : List ((Nat × Bool) × List Byte)) : ∀ s : State, Memory.wf s.mem = true →
    Memory.wf (s.devWrites ws).1.mem = true := by
  induction ws with
  | nil => exact fun s h => h
  | cons w ws ih =>
    intro s h
    simp only [State.devWrites]; split
    · exact h
    · next he => exact ih _ (State.devWrite_wf he h)

theorem State.putDesc_wf (s : State) (q : Queue) (o v : Nat) (h : Memory.wf s.mem = true) : Memory.wf (s.putDesc q o v).mem = true := by
  have hw := State.devWrites_wf (s.descWords q [(o, v)]) s h
  unfold State.putDesc; split
  · next he => rw [he] at hw; exact hw
  · next he =>
    rw [he] at hw
    split
    · exact State.log_wf _ _ _ _ _ hw
    · exact hw

@[simp] theorem State.putQueue_mem (s : State) (id : Nat) (q : Queue) : (s.putQueue id q).mem = s.mem := rfl

theorem State.queueState_wf (s : State) (id : Nat) (st : QState) (q : Nat) (h : Memory.wf s.mem = true) :
    Memory.wf (s.queueState id st q).mem = true := by
  cases hq : s.queue id with
  | none => simp only [State.queueState, hq]; exact h
  | some x =>
    simp only [State.queueState, hq]
    apply State.putDesc_wf
    rw [State.putQueue_mem]; exact h

/-- A sync object's own transaction faults or writes its granule alone. -/
theorem State.setObj_ok {s t : State} {k a b : Nat} {c : Bool} (h : s.setObj k a b c = .ok t) :
    t = s.applyWrite (k / 16 * 16) (plain (leBytes 8 a ++ leBytes 8 b)) c := by
  unfold State.setObj at h
  dsimp only at h
  split at h
  · cases h
  · split at h <;> cases h
    rfl

theorem State.setObj_wf {s t : State} {k a b : Nat} {c : Bool} (h : s.setObj k a b c = .ok t) (hw : Memory.wf s.mem = true) :
    Memory.wf t.mem = true := by
  rw [State.setObj_ok h]; exact s.applyWrite_wf _ _ _ hw

theorem State.reset_wf : Memory.wf State.reset.mem = true := rfl

end Sys2Proof.Machine
end

