-- ==== Sys2Proof/Tests/Slice0.lean ====
section
/-! SUPPORT. Tests: ill-formed terms that WellFormed refuses, words written out from the encoding tables of chapter 11 and chapter 13 that
decode to their instructions, single steps with results worked out from the rules by hand, and for each statement of the provers a state
that meets the hypotheses of each of its clauses. -/

namespace Sys2Proof.Tests

open Sys2Proof Sys2Proof.Machine Sys2Proof.Claims

/-! ### WellFormed refuses an ill-formed term for each of its checks -/

/-- A QID of 12 bits (R36). -/
theorem test_wf_queues : ([
  .packetConsume 4096, .queueStall 4096, .stallEntryWrite 4096, .launch 4096, .cancel 4096, .notify 4096, .copy 4096, .strided 4096,
  .fill 4096] : List Instr).all (fun i => !i.wf) = true := by decide

/-- An element index below 72 (R107). -/
theorem test_wf_elements : ([
  .mxMma 72, .mxMmaBs 72, .mxMmaRc 72, .mxMzero 72, .mxMdrn 72, .vxAdd 72, .vxSub 72, .vxMul 72, .vxFma 72, .vxMin 72, .vxMax 72,
  .vxAbs 72, .vxNeg 72, .vxCmp 72, .vxAnd 72, .vxOr 72, .vxXor 72, .vxShl 72, .vxShr 72, .vxCvt 72, .vxAcc 72, .vxScan 72, .rxRsum 72,
  .rxRmax 72, .rxRmin 72, .rxRargmax 72, .rxRsumsq 72, .fxExp2 72, .fxLog2 72, .fxRcp 72, .fxRsqrt 72, .fxSin 72, .fxTanh 72, .fxLut 72,
  .qxQuant 72, .qxDeq 72, .qxBscale 72, .qxRound 72, .dlDelay 72, .dlPrime 72, .pmTrans 72, .pmBcast 72, .pmShuf 72, .pmPack 72,
  .pmUnpack 72, .smSel 72, .smMerge 72, .smSplit 72, .smFilter 72, .smConst 72, .rnRngBits 72, .rnRngBern 72, .gtEntry 72, .gtExit 72,
  .gtBound 72, .gtAcq 72, .ptCtlin 72, .ptSink 72, .ptEreq 72, .ptErsp 72, .ptTrig 72] : List Instr).all (fun i => !i.wf) = true := by decide

/-- A stream engine below 8 (R115). -/
theorem test_wf_engines : ([
  .roundStart 8, .agRd 8 true, .agWr 8 true, .agRdfe 8 true, .agGather 8 true, .agRing 8 true, .agSurv 8 true] : List Instr).all (fun i => !i.wf) = true := by decide

/-- A slot below 8 (R110). -/
theorem test_wf_slots : ([
  .configRefetch 8, .cacheSoftError 8, .armBoundary 8] : List Instr).all (fun i => !i.wf) = true := by decide

/-- Scope and kind where only release is allowed: an acquire, a scope above SYS, and a scope with no kind (R206, R255). -/
theorem test_wf_release : ([
  .btePut 0 0 0 2 1, .btePut 0 0 0 5 2, .btePut 0 0 0 3 0, .bankMv 0 2 1, .bankMv 0 5 2, .bankMv 0 3 0, .redFadd 0 0 0 2 1,
  .redFadd 0 0 0 5 2, .redFadd 0 0 0 3 0, .redFmax 0 0 0 2 1, .redFmax 0 0 0 5 2, .redFmax 0 0 0 3 0, .redFmin 0 0 0 2 1,
  .redFmin 0 0 0 5 2, .redFmin 0 0 0 3 0, .redIadd 0 0 0 2 1, .redIadd 0 0 0 5 2, .redIadd 0 0 0 3 0, .wred 0 0 0 2 1, .wred 0 0 0 5 2,
  .wred 0 0 0 3 0, .barArrive 0 0 0 2 1, .barArrive 0 0 0 5 2, .barArrive 0 0 0 3 0, .barDrop 0 2 1, .barDrop 0 5 2, .barDrop 0 3 0] : List Instr).all (fun i => !i.wf) = true := by decide

/-- Scope and kind where every kind is allowed: a scope above SYS, and a scope with no kind (R206, R255). -/
theorem test_wf_qualifier : ([
  .amoAdd 0 0 0 5 3, .amoAdd 0 0 0 1 0, .amoAnd 0 0 0 5 3, .amoAnd 0 0 0 1 0, .amoOr 0 0 0 5 3, .amoOr 0 0 0 1 0, .amoXor 0 0 0 5 3,
  .amoXor 0 0 0 1 0, .amoMin 0 0 0 5 3, .amoMin 0 0 0 1 0, .amoMax 0 0 0 5 3, .amoMax 0 0 0 1 0, .amoSwap 0 0 0 5 3, .amoSwap 0 0 0 1 0,
  .amoCas 0 0 0 5 3, .amoCas 0 0 0 1 0] : List Instr).all (fun i => !i.wf) = true := by decide

/-- The other ranges: dies, host accesses, heats, registers, conditions, conversions, sizes, capability fields, fences and batons. -/
theorem test_wf_others : ([
  .thermalStop 10 0, .hostRead 0 .sup 0x10 0, .hostRead 0 .sup 0xFF 2, .hostRead 0 .sup 0 257, .postedWrite 0 .sup 0x10 [],
  .postedWrite 0 .sup 0xFF [1, 2], .dieLinkFailure 8, .heatAccountingWrite 256, .pacerRegisterSoftError 32, .fcmp 1 2 3 8 0, .fcvt 1 2 14,
  .ld 1 2 3 0 1 3, .cget 1 2 8, .fence 5 2, .fence 2 0, .batonAlloc 1 2 5] : List Instr).all (fun i => !i.wf) = true := by decide

/-! ### Words written out from the encoding tables (R203 to R210, R255) decode to their instructions -/

theorem test_decode_add_to_minu : ([
  (0x04A63800, .add 5 6 7), (0x04A63801, .sub 5 6 7), (0x04A63802, .and 5 6 7), (0x04A63803, .or 5 6 7), (0x04A63804, .xor 5 6 7),
  (0x04A63805, .andn 5 6 7), (0x04A63806, .sll 5 6 7), (0x04A63807, .srl 5 6 7), (0x04A63808, .sra 5 6 7), (0x04A63809, .slt 5 6 7),
  (0x04A6380A, .sltu 5 6 7), (0x04A6380B, .min 5 6 7), (0x04A6380C, .max 5 6 7), (0x04A6380D, .minu 5 6 7)] : List (Nat × Instr)).all (fun p => decodeTableWord 32 p.1 == some p.2) = true := by decide

theorem test_decode_maxu_to_sel : ([
  (0x04A6380E, .maxu 5 6 7), (0x04A63810, .mul 5 6 7), (0x04A63811, .mulh 5 6 7), (0x04A63812, .mulhu 5 6 7), (0x04A63813, .div 5 6 7),
  (0x04A63814, .divu 5 6 7), (0x04A63815, .rem 5 6 7), (0x04A63816, .remu 5 6 7), (0x04A60018, .clz 5 6), (0x04A60019, .ctz 5 6),
  (0x04A6001A, .popc 5 6), (0x04A6381B, .bext 5 6 7), (0x04A6381C, .bins 5 6 7), (0x04A63A5D, .sel 5 6 7 9)] : List (Nat × Instr)).all (fun p => decodeTableWord 32 p.1 == some p.2) = true := by decide

theorem test_decode_addi_to_auipc : ([
  (0x10A68001, .addi 5 6 32769), (0x14A68001, .andi 5 6 32769), (0x18A68001, .ori 5 6 32769), (0x1CA68001, .xori 5 6 32769),
  (0x20A60025, .slli 5 6 37), (0x24A6003F, .srli 5 6 63), (0x28A60011, .srai 5 6 17), (0x2CA68001, .slti 5 6 32769),
  (0x30A08001, .lui 5 32769), (0x34A08001, .auipc 5 32769)] : List (Nat × Instr)).all (fun p => decodeTableWord 32 p.1 == some p.2) = true := by decide

theorem test_decode_fadd_to_blt : ([
  (0x08A63840, .fadd 5 6 7 1), (0x08A63841, .fsub 5 6 7 1), (0x08A63842, .fmul 5 6 7 1), (0x08A63843, .ffma 5 6 7 1),
  (0x08A63844, .fdiv 5 6 7 1), (0x08A60045, .fsqrt 5 6 1), (0x08A63846, .fmin 5 6 7 1), (0x08A63847, .fmax 5 6 7 1),
  (0x08A638C8, .fcmp 5 6 7 1 1), (0x08A60109, .fcvt 5 6 2), (0x08A6004A, .fclass 5 6 1), (0x40C7009C, .beq 6 7 156),
  (0x44C7009C, .bne 6 7 156), (0x48C7009C, .blt 6 7 156)] : List (Nat × Instr)).all (fun p => decodeTableWord 32 p.1 == some p.2) = true := by decide

theorem test_decode_bge_to_cld : ([
  (0x4CC7009C, .bge 6 7 156), (0x50C7009C, .bltu 6 7 156), (0x54C7009C, .bgeu 6 7 156), (0x58C0009C, .loop 6 156),
  (0x60BFFFFE, .jal 5 2097150), (0x64A68001, .jalr 5 6 32769), (0x80A61F36, .ld 5 3 1 243 1 2), (0x84A619C2, .st 5 3 1 156 2),
  (0x888619C0, .ldq 4 3 1 156), (0x8CA619C0, .stq 5 3 1 156), (0x90A619C2, .ldfeWait 5 3 1 156 2), (0x90A619C6, .ldfeTake 5 3 1 156 2),
  (0x94A619C6, .stfe 5 3 1 156 1 2), (0x98A619C0, .cld 5 3 1 156)] : List (Nat × Instr)).all (fun p => decodeTableWord 32 p.1 == some p.2) = true := by decide

theorem test_decode_cst_to_csub : ([
  (0x9CA619C0, .cst 5 3 1 156), (0xB0A63800, .cinc 5 6 7), (0xB0A63801, .csetb 5 6 7), (0xB0A63802, .candp 5 6 7),
  (0xB0A60083, .cget 5 6 2), (0xB0A60004, .ctag 5 6), (0xB0A60005, .cclr 5 6), (0xB0A63806, .csub 5 6 7)] : List (Nat × Instr)).all (fun p => decodeTableWord 32 p.1 == some p.2) = true := by decide

theorem test_decode_gets_to_yield : ([
  (0xF0A00070, .gets 5 7), (0xF0060051, .sets 6 5), (0xF0001232, .trap 291), (0xF0000003, .eret), (0xF00000A4, .fence 2 2),
  (0xF0A60005, .wfe 5 6), (0xF0000006, .halt), (0xF0000007, .yield)] : List (Nat × Instr)).all (fun p => decodeTableWord 32 p.1 == some p.2) = true := by decide

theorem test_decode_cfgLoad_to_drain : ([
  (0xC0061000, .cfgLoad 6 2), (0xC0001001, .cfgEvict 2), (0xC0A61002, .cfgArm 5 6 2), (0xC0A01003, .cfgDisarm 5 2),
  (0xC0A01004, .cfgQuery 5 2), (0xC0060008, .ctlSeq 6), (0xC0061809, .ctlPipe 6 3), (0xC006000A, .ctlStrm 6), (0xC000000B, .ctlEnd),
  (0xC0A61010, .strmGo 5 6 2), (0xC0063811, .strmParm 6 7), (0xC0A61012, .inj 5 6 2), (0xC0A20013, .getk 5 2), (0xC0001014, .drain 2)] : List (Nat × Instr)).all (fun p => decodeTableWord 32 p.1 == some p.2) = true := by decide

theorem test_decode_snapMark_to_snapWait : ([
  (0xC0061018, .snapMark 6 2), (0xC0A61019, .snapWait 5 6 2)] : List (Nat × Instr)).all (fun p => decodeTableWord 32 p.1 == some p.2) = true := by decide

theorem test_decode_btePut_to_amoCas : ([
  (0xC4A63A80, .btePut 5 6 7 2 2), (0xC4A63801, .waitc 5 6 7), (0xC4A63802, .testc 5 6 7), (0xC4060283, .bankMv 6 2 2),
  (0xC8A63A40, .amoAdd 5 6 7 2 1), (0xC8A63A41, .amoAnd 5 6 7 2 1), (0xC8A63A42, .amoOr 5 6 7 2 1), (0xC8A63A43, .amoXor 5 6 7 2 1),
  (0xC8A63A44, .amoMin 5 6 7 2 1), (0xC8A63A45, .amoMax 5 6 7 2 1), (0xC8A63A46, .amoSwap 5 6 7 2 1), (0xC8A63A47, .amoCas 5 6 7 2 1)] : List (Nat × Instr)).all (fun p => decodeTableWord 32 p.1 == some p.2) = true := by decide

theorem test_decode_redFadd_to_waitv : ([
  (0xCD263A80, .redFadd 9 6 7 2 2), (0xCC663A81, .redFmax 3 6 7 2 2), (0xCC663A82, .redFmin 3 6 7 2 2), (0xCD063A83, .redIadd 8 6 7 2 2),
  (0xCC463A84, .wred 2 6 7 2 2), (0xD0A60400, .batonAlloc 5 6 4), (0xD0060001, .batonAcq 6), (0xD0060002, .batonRel 6),
  (0xD0060003, .batonFree 6), (0xD0063808, .barInit 6 7), (0xD0A63A89, .barArrive 5 6 7 2 2), (0xD0A6380A, .barWait 5 6 7),
  (0xD006028B, .barDrop 6 2 2), (0xD0A63810, .waitv 5 6 7)] : List (Nat × Instr)).all (fun p => decodeTableWord 32 p.1 == some p.2) = true := by decide

theorem test_decode_drgnDecl_to_drgnDrop : ([
  (0xD4A63800, .drgnDecl 5 6 7), (0xD4A60001, .drgnRead 5 6), (0xD4060002, .drgnSync 6), (0xD4060003, .drgnDrop 6)] : List (Nat × Instr)).all (fun p => decodeTableWord 32 p.1 == some p.2) = true := by decide

theorem test_decode_taskSpawn_to_kvSlot : ([
  (0xD8A63800, .taskSpawn 5 6 7), (0xD8A60001, .taskCancel 5 6), (0xD8000002, .taskRetire), (0xD8A63808, .trigBind 5 6 7),
  (0xD8060809, .trigUnbind 6 1), (0xD8A63810, .heatOpen 5 6 7), (0xD8060011, .heatClose 6), (0xD8A60012, .ballotPost 5 6),
  (0xD8A60013, .ballotPoll 5 6), (0xD8A63818, .seqAdmit 5 6 7), (0xD8A63819, .seqRelease 5 6 7), (0xD8A6381A, .kvSlot 5 6 7)] : List (Nat × Instr)).all (fun p => decodeTableWord 32 p.1 == some p.2) = true := by decide

theorem test_decode_tlbi_to_frst : ([
  (0xDC063800, .tlbi 6 7), (0xDC000001, .tlbsync), (0xDCA63802, .vdDirty 5 6 7), (0xDC060003, .vdStop 6), (0xDC060004, .vdStart 6),
  (0xDC063805, .fcap 6 7), (0xDC063806, .frst 6 7)] : List (Nat × Instr)).all (fun p => decodeTableWord 32 p.1 == some p.2) = true := by decide

/-- LIMM takes its immediate from the next word (R224). -/
theorem test_decode_limm : decodeTableWord 64 0xFFFFFFFEFCA00000 = some (.limm 5 0xFFFFFFFE) := by decide

/-! ### A small state -/

/-- A capability for its whole space's first 16 MiB less 256 bytes, with every permission and a cursor. -/
def capAt (space cursor : Nat) : Cap :=
  { tag := true, perms := 0x7F, space := BitVec.ofNat 3 space, exp := 0, len := 0xFFFF00, boff := BitVec.ofNat 24 cursor, cursor := BitVec.ofNat 64 cursor }

/-- A running Pacer in task mode at 0x1000: X1 = 5, X2 = −7, X3 = 0x100; C1 at SRAM 0x100, C2 at the window's end, C3 at HBM 0x400. -/
def pacer0 : Pacer :=
  { Pacer.reset with mode := false, pcc := capAt 1 0x1000, epcc := capAt 1 0x2000, x := ((Pacer.reset.x.set 1 5).set 2 (-7)).set 3 0x100,
                     c := ((Pacer.reset.c.set 1 (capAt 1 0x100)).set 2 (capAt 1 0xFFFEF0)).set 3 (capAt 3 0x400) }

/-- The machine at READY with region 0 running; f changes its record. -/
def with0 (f : Region → Region) : State :=
  { State.reset.setRegion 0 (f { Region.reset with pacer := pacer0, run := .on }) with mgc := { State.reset.mgc with boot := .ready } }

/-- Region 0's registers changed by f. -/
def withP (f : Pacer → Pacer) : State := with0 (fun g => { g with pacer := f g.pacer })

/-- Region 0 in supervisor mode with MASK 0. -/
def sup0 : State := withP (fun p => { p with mode := true })

/-- The outcome's next state, or s where it stops. -/
def after (i : Instr) (s : State) : State := match exec i s with | .next t => t | _ => s

/-- An access answers a piece in a space: the hypothesis of a statement about memory, as a Bool. -/
def okIs {ε α : Type} [DecidableEq α] (e : Except ε α) (a : α) : Bool := match e with | .ok b => decide (b = a) | .error _ => false
theorem ok_of_okIs {ε α : Type} [DecidableEq α] {e : Except ε α} {a : α} (h : okIs e a = true) : e = .ok a := by
  cases e <;> simp_all [okIs]
def errIs {ε α : Type} [DecidableEq ε] (e : Except ε α) (a : ε) : Bool := match e with | .ok _ => false | .error b => decide (b = a)
theorem err_of_errIs {ε α : Type} [DecidableEq ε] {e : Except ε α} {a : ε} (h : errIs e a = true) : e = .error a := by cases e <;> simp_all [errIs]
/-- A test of the value of an access, as a Bool. -/
def okSat {ε α : Type} (e : Except ε α) (p : α → Bool) : Bool := match e with | .ok a => p a | .error _ => false
theorem ex_ok {ε α : Type} {e : Except ε α} {p : α → Bool} (h : okSat e p = true) : ∃ a, e = .ok a ∧ p a = true := by
  cases e <;> simp_all [okSat]
theorem ok_ex {ε α : Type} {e : Except ε α} (h : okSat e (fun _ => true) = true) : ∃ a, e = .ok a := (ex_ok h).imp fun _ h => h.1

/-! ### Single steps, with results worked out by hand from the rules -/

/-- R219: 5 + (−7) wraps; −7 / 5 rounds toward zero to −1 with remainder −2; the high half of −7 × 5 is −1. -/
theorem test_integer : (after (.add 4 1 2) (with0 id)).rx 4 = BitVec.ofInt 64 (-2) ∧ (after (.div 4 2 1) (with0 id)).rx 4 = BitVec.ofInt 64 (-1) ∧
    (after (.rem 4 2 1) (with0 id)).rx 4 = BitVec.ofInt 64 (-2) ∧ (after (.mulh 4 2 1) (with0 id)).rx 4 = BitVec.ofInt 64 (-1) := by decide
/-- R95: X0 stays zero. -/
theorem test_x0 : (after (.add 0 1 1) (with0 id)).rx 0 = 0 := by decide
/-- R219: −7 is the smaller signed value and the larger unsigned one; the arithmetic shift of −7 by 5 is −1. -/
theorem test_compare : (after (.slt 4 2 1) (with0 id)).rx 4 = 1 ∧ (after (.sltu 4 2 1) (with0 id)).rx 4 = 0 ∧
    (after (.sra 4 2 1) (with0 id)).rx 4 = BitVec.ofInt 64 (-1) ∧ (after (.andn 4 1 2) (with0 id)).rx 4 = 4 := by decide
/-- R220: 5 has 61 zero bits above its highest 1 bit, none below its lowest, and two 1 bits; zero has 64 and 64. -/
theorem test_counts : (after (.clz 4 1) (with0 id)).rx 4 = 61 ∧ (after (.ctz 4 1) (with0 id)).rx 4 = 0 ∧ (after (.popc 4 1) (with0 id)).rx 4 = 2 ∧
    (after (.clz 4 0) (with0 id)).rx 4 = 64 ∧ (after (.ctz 4 0) (with0 id)).rx 4 = 64 := by decide
/-- R221: the descriptor 0x100 names one bit at bit 0. -/
theorem test_fields : (after (.bext 4 1 3) (with0 id)).rx 4 = 1 ∧ (after (.bins 2 0 3) (with0 id)).rx 2 = BitVec.ofInt 64 (-8) := by decide
/-- R223: immediates are sign-extended for ADDI and zero-extended for ANDI. -/
theorem test_immediate : (after (.addi 4 1 0xFFFF) (with0 id)).rx 4 = 4 ∧ (after (.andi 4 2 0xFFFF) (with0 id)).rx 4 = 0xFFF9 ∧
    (after (.lui 4 0x8000) (with0 id)).rx 4 = 0xFFFFFFFF80000000 ∧ (after (.auipc 4 1) (with0 id)).rx 4 = 0x11000 := by decide
/-- R226: in binary64, 1.0 + 2.0 = 3.0 with no flag. -/
theorem test_fadd : (after (.fadd 4 1 2 1) (withP (fun p => { p with x := (p.x.set 1 0x3FF0000000000000).set 2 0x4000000000000000 }))).rx 4 = 0x4008000000000000 := by decide
/-- R231: a branch taken backwards, and one not taken. -/
theorem test_branch : (after (.beq 1 1 0xFFFF) (with0 id)).pc = 0xFFC ∧ (after (.bne 1 1 0xFFFF) (with0 id)).pc = 0x1004 := by decide
/-- R232, R233: LOOP counts 5 down to 4; JAL links. -/
theorem test_loop : (after (.loop 1 3) (with0 id)).pc = 0x100C ∧ (after (.loop 1 3) (with0 id)).rx 1 = 4 ∧ (after (.jal 4 2) (with0 id)).rx 4 = 0x1004 ∧
    (after (.jal 4 2) (with0 id)).pc = 0x1008 := by decide
/-- R242, R245: CINC moves the cursor, and CGET 0 reads it; outside the window the tag goes. -/
theorem test_cinc : ((after (.cinc 4 1 1) (with0 id)).rc 4).cursor = 0x105 ∧ ((after (.cinc 4 1 1) (with0 id)).rc 4).tag = true ∧
    ((after (.cinc 4 1 2) (with0 id)).rc 4).cursor = 0xF9 ∧ (after (.cget 4 2 0) (with0 id)).rx 4 = 0xFFFEF0 := by decide
/-- R123: TRAP in task mode saves PC and cause 0x0A, and enters supervisor mode under MASK. -/
theorem test_trap : let t := after (.trap 7) (with0 id); (t.reg.pacer.epc, t.reg.pacer.cause, t.reg.pacer.mode, t.reg.pacer.mask, t.reg.pacer.pmode) =
    (0x1000, 0x0A, true, true, false) := by decide
/-- R250: ERET continues at EPC in the mode of PMODE. -/
theorem test_eret : let t := after .eret sup0; (t.reg.pacer.mode, t.pc) = (false, 0) := by decide
/-- R206, R207: a division by zero faults with 0x08, and HALT in task mode with 0x05. -/
theorem test_faults : (after (.div 4 1 0) (with0 id)).reg.pacer.cause = 0x08 ∧ (after .halt (with0 id)).reg.pacer.cause = 0x05 := by decide

/-! ### A state and operands for each clause of the statements about integer, FP, branch and memory instructions -/

theorem meets_IntegerInstructions : (with0 id).rx 1 ≠ 0 ∧ (with0 id).rx 0 = 0 ∧ (with0 id).unmasked := by unfold State.unmasked; decide
/-- A field that ends at bit 63, and one that would end beyond it. -/
theorem meets_BitInstructions : (let v := ((withP (fun p => { p with x := p.x.set 1 0x013F })).rx 1).toNat; v = v % 64 + v / 2 ^ 8 % 128 * 2 ^ 8 ∧ v % 64 + v / 2 ^ 8 % 128 ≤ 64) ∧
    (let v := ((withP (fun p => { p with x := p.x.set 1 0x023F })).rx 1).toNat; ¬(v = v % 64 + v / 2 ^ 8 % 128 * 2 ^ 8 ∧ v % 64 + v / 2 ^ 8 % 128 ≤ 64)) ∧ (with0 id).unmasked := by unfold State.unmasked; decide
/-- A quotient that raises DZ, with its flag not enabled, and enabled. -/
theorem meets_FloatResults : let m : Word := 0
    (fpArith (fpFmt 1) .div m (fpOperand (fpFmt 1) 0x3FF0000000000000) (fpOperand (fpFmt 1) 0) (fpOperand (fpFmt 1) 0)).flags ≠ 0 ∧
    (fpArith (fpFmt 1) .div m (fpOperand (fpFmt 1) 0x3FF0000000000000) (fpOperand (fpFmt 1) 0) (fpOperand (fpFmt 1) 0)).flags &&& fpEn m = 0 ∧
    (∃ v : Word, (fpArith (fpFmt 1) .div v (fpOperand (fpFmt 1) 0x3FF0000000000000) (fpOperand (fpFmt 1) 0) (fpOperand (fpFmt 1) 0)).flags &&& fpEn v ≠ 0) ∧
    (with0 id).unmasked :=
  ⟨by decide, by decide, ⟨0xFFFFFFFFFFFFFFFF, by decide⟩, .inl (by decide)⟩
theorem meets_ControlFlow : (1 : XReg) ≠ 0 ∧ (with0 id).rx 1 - 1 ≠ 0 ∧ (with0 id).unmasked := by unfold State.unmasked; decide
/-- The last byte through C2, and the granule at C1; a tagged C3 in HBM. -/
theorem meets_LoadsIssue : let s := with0 id
    s.access (s.rc 2) (s.memAddr 2 1 10 1).toNat 1 permLoad kindRead loadSpaces .read =
      .ok (1, [{ key := 0xFFFEFF, va := 0xFFFEFF, size := 1, cmpr := false }]) ∧
    s.access (s.rc 1) (s.memAddr 1 0 0 16).toNat 16 permLoad kindRead loadSpaces .read =
      .ok (1, [{ key := 0x100, va := 0x100, size := 16, cmpr := false }]) ∧
    (s.memAddr 1 0 0xFF 8).toNat % 8 = 0 ∧
    s.access (s.rc 1) (s.memAddr 1 0 0xFF 8).toNat 8 permLoad kindRead [1, 2] .read = .ok (1, [{ key := 0xF8, va := 0xF8, size := 8, cmpr := false }]) ∧
    s.access (s.rc 1) (s.memAddr 1 0 0xFF 8).toNat 8 (permLoad + permStore) kindAtomic [1, 2] .store =
      .ok (1, [{ key := 0xF8, va := 0xF8, size := 8, cmpr := false }]) ∧
    (s.memAddr 1 0 0 16).toNat % 16 = 0 ∧
    s.access (s.rc 1) (s.memAddr 1 0 0 16).toNat 16 permLoad kindRead [1, 2, 3, 4, 5, 7] .read =
      .ok (1, [{ key := 0x100, va := 0x100, size := 16, cmpr := false }]) ∧ (4 : XReg).getLsbD 0 = false := by decide +kernel
/-- An access of 16 bytes across a granule boundary makes two pieces. -/
theorem test_two_pieces : okIs ((with0 id).access (capAt 1 0x108) 0x108 16 permLoad kindRead loadSpaces .read)
    (1, [{ key := 0x108, va := 0x108, size := 8, cmpr := false }, { key := 0x110, va := 0x110, size := 8, cmpr := false }]) = true := by decide

/-- One response with the bytes bs on its way back to region 0, which waits for it with k. -/
def waits0 (k : Cont) (bs : List Byte) : State :=
  { with0 (fun g => { g with wait := .resp k [7] [] }) with
    resps := [{ stamp := 7, issuer := .pacer 0, va := 0x100, port := .bank 0 0, bytes := bs, flag := true, cause := none }] }
/-- The bytes of one response for an X register, the last pair, and a C register. -/
theorem meets_LoadsReturn : ∀ x ∈ [(Cont.toX 4 2 true, 2), (.toXX 30, 16), (.toC 4, 16)], let s := waits0 x.1 (List.replicate x.2 1)
    (s.resps[0]?).map (fun q => (q.issuer, q.cause, q.stamp, q.bytes.length)) = some (.pacer 0, none, 7, x.2) ∧ s.dropped.contains 7 = false ∧
    (s.region 0).wait = .resp x.1 [7] [] ∧ (30 : XReg).getLsbD 0 = false := by decide
theorem test_load_returns : (after (.ret 0) (waits0 (.toX 4 2 true) [0x80, 0xFF])).rx 4 = 0xFFFFFFFFFFFFFF80 ∧
    (after (.ret 0) (waits0 (.toX 4 2 true) [0x80, 0xFF])).pc = 0x1004 := by decide
/-- R238: the second half of a pair goes to the next register. -/
theorem test_pair_returns : let t := after (.ret 0) (waits0 (.toXX 30) (leBytes 8 5 ++ leBytes 8 6)); (t.rx 30, t.rx 31, t.pc) = (5, 6, 0x1004) := by decide

theorem meets_StoresIssue : let s := with0 id
    s.access (s.rc 2) (s.memAddr 2 1 10 1).toNat 1 permStore kindWrite storeSpaces .store =
      .ok (1, [{ key := 0xFFFEFF, va := 0xFFFEFF, size := 1, cmpr := false }]) ∧
    s.access (s.rc 1) (s.memAddr 1 0 0 16).toNat 16 permStore kindWrite storeSpaces .store =
      .ok (1, [{ key := 0x100, va := 0x100, size := 16, cmpr := false }]) ∧
    (s.memAddr 1 0 0 8).toNat % 8 = 0 ∧ s.released 3 = true ∧
    s.access (s.rc 1) (s.memAddr 1 0 0 8).toNat 8 permStore kindWrite [1, 2] .store = .ok (1, [{ key := 0x100, va := 0x100, size := 8, cmpr := false }]) ∧
    (s.memAddr 1 0 0 16).toNat % 16 = 0 ∧
    (s.rc 1).check (s.memAddr 1 0 0 16).toNat 16 (permStore + if (s.rc 3).tag then permTgstore else 0) kindWrite = .ok (1, 0x100) ∧
    s.access (s.rc 1) (s.memAddr 1 0 0 16).toNat 16 permStore kindWrite [1, 2, 3, 4, 5] .store =
      .ok (1, [{ key := 0x100, va := 0x100, size := 16, cmpr := false }]) := by decide +kernel

/-- An untagged C0, one byte beyond C2's bounds, an odd register, a misaligned address with the capability's own checks passing, a store to a view. -/
theorem meets_MemoryFaults : let s := with0 id; let v := withP (fun p => { p with c := p.c.set 1 (capAt 7 0x5000) }); s.unmasked ∧ v.unmasked ∧
    s.access (s.rc 0) (s.memAddr 0 0 0 1).toNat 1 permLoad kindRead loadSpaces .read = .error 0x10 ∧
    s.access (s.rc 2) (s.memAddr 2 1 11 1).toNat 1 permStore kindWrite storeSpaces .store = .error 0x15 ∧
    s.access (s.rc 0) (s.memAddr 0 0 0 16).toNat 16 permLoad kindRead loadSpaces .read = .error 0x10 ∧
    s.access (s.rc 0) (s.memAddr 0 0 0 16).toNat 16 permStore kindWrite storeSpaces .store = .error 0x11 ∧
    (5 : XReg).getLsbD 0 = true ∧ (s.memAddr 1 1 0 8).toNat % 8 ≠ 0 ∧ (s.memAddr 1 1 0 16).toNat % 16 ≠ 0 ∧
    (s.rc 1).check (s.memAddr 1 1 0 16).toNat 16 permLoad kindRead = .ok (1, 0x105) ∧
    (s.rc 1).check (s.memAddr 1 1 0 16).toNat 16 (permStore + if (s.rc 0).tag then permTgstore else 0) kindWrite = .ok (1, 0x105) ∧
    (v.rc 1).check (v.memAddr 1 0 0 16).toNat 16 (permStore + if (v.rc 0).tag then permTgstore else 0) kindWrite = .ok (7, 0x5000) := by unfold State.unmasked; decide +kernel
/-- The same of LDFE, STFE, CLD and CST: an untagged C0 at an aligned address; accesses to a view; a space that CST does not take. -/
theorem meets_MemoryFaults_more : let s := with0 id; let at_ := fun (n : Nat) => withP (fun p => { p with c := p.c.set 1 (capAt n 0x5000) }); let v := at_ 7; let w := at_ 6
    let view : List Piece := [{ key := 288230376151732224, va := 0x5000, size := 8, cmpr := false }]
    (s.memAddr 0 0 0 8).toNat % 8 = 0 ∧ s.access (s.rc 0) (s.memAddr 0 0 0 8).toNat 8 permLoad kindRead [1, 2] .read = .error 0x10 ∧
    s.access (s.rc 0) (s.memAddr 0 0 0 8).toNat 8 (permLoad + permStore) kindAtomic [1, 2] .store = .error 0x13 ∧
    s.access (s.rc 0) (s.memAddr 0 0 0 8).toNat 8 permStore kindWrite [1, 2, 7] .store = .error 0x11 ∧
    v.access (v.rc 1) (v.memAddr 1 0 0 8).toNat 8 permStore kindWrite [1, 2, 7] .store = .ok (7, view) ∧
    v.access (v.rc 1) (v.memAddr 1 0 0 8).toNat 8 permLoad kindRead loadSpaces .read = .ok (7, view) ∧
    errIs (v.viewRequests (inSpace (v.memAddr 1 0 0 8)) 8 (v.memAddr 1 0 0 8)) 0x84 = true ∧
    v.access (v.rc 1) (v.memAddr 1 0 0 8).toNat 8 permStore kindWrite storeSpaces .store = .ok (7, view) ∧ (4 : XReg).getLsbD 0 = false ∧
    (∃ ps, v.access (v.rc 1) (v.memAddr 1 0 0 16).toNat 16 permStore kindWrite storeSpaces .store = .ok (7, ps)) ∧
    (s.rc 0).check (s.memAddr 0 0 0 16).toNat 16 permLoad kindRead = .error 0x10 ∧ (s.rc 0).check (s.memAddr 0 0 0 16).toNat 16 permStore kindWrite = .error 0x11 ∧
    (s.memAddr 0 0 0 16).toNat % 16 = 0 ∧ s.access (s.rc 0) (s.memAddr 0 0 0 16).toNat 16 permLoad kindRead [1, 2, 3, 4, 5, 7] .read = .error 0x10 ∧
    (w.rc 1).check (w.memAddr 1 0 0 16).toNat 16 permStore kindWrite = .ok (6, 0x5000) ∧ (w.rc 0).tag = false ∧
    w.access (w.rc 1) (w.memAddr 1 0 0 16).toNat 16 permStore kindWrite [1, 2, 3, 4, 5] .store = .error 0x0E :=
  ⟨by decide +kernel, by decide +kernel, by decide +kernel, by decide +kernel, by decide +kernel, by decide +kernel, by decide +kernel, by decide +kernel, by decide,
    ⟨_, rfl⟩, by decide +kernel⟩
/-- Sixteen bytes of a view that no declaration answers for, for LDQ and CLD. -/
theorem meets_MemoryFaults_views : let v := withP (fun p => { p with c := p.c.set 1 (capAt 7 0x5000) }); let a := v.memAddr 1 0 0 16
    (∃ x, v.access (v.rc 1) a.toNat 16 permLoad kindRead loadSpaces .read = .ok x ∧ (x.1 == 7) = true) ∧
    (∃ x, v.access (v.rc 1) a.toNat 16 permLoad kindRead [1, 2, 3, 4, 5, 7] .read = .ok x ∧ (x.1 == 7) = true) ∧
    errIs (v.viewRequests (inSpace a) 16 a) 0x84 = true ∧ (4 : XReg).getLsbD 0 = false ∧ a.toNat % 16 = 0 :=
  ⟨ex_ok (by decide +kernel), ex_ok (by decide +kernel), by decide +kernel⟩

/-- A request at a bank of region 0. -/
def reqOf (act : Act) : Req :=
  { stamp := 3, born := 0, issuer := .pacer 0, stage := .pq, port := .bank 0 0, key := 0x100, va := 0x100, cmpr := false, posted := false, act := act }
theorem meets_WriteApplies : let s : State := { with0 id with reqs := [reqOf (.write (plain [1, 2]) .keep)], tags := [0x10] }
    Memory.wf s.mem = true ∧ s.reqs.filter (fun r => r.stage == .pq && r.port == .bank 0 0) = [reqOf (.write (plain [1, 2]) .keep)] ∧
    s.linkFault (reqOf (.write (plain [1, 2]) .keep)) = none ∧
    s.refuses 0x100 (plain [1, 2]) false 1 = none := by decide
/-- R140, R167: the bytes appear and the granule's tag goes. -/
theorem test_write_applies : let t := after (.apply (.bank 0 0)) { with0 id with reqs := [reqOf (.write (plain [1, 2]) .keep)], tags := [0x10] }
    (t.rd 0x100 3, t.tags) = ([1, 2, 0], []) := by decide

/-- A release waits while a store of the Pacer has not reached its port; every other fence kind and every scope up to 4 is ready on an empty
machine. -/
theorem meets_Fences : let s := with0 id; let u : State := { s with reqs := [{ reqOf (.write (plain [1]) .keep) with stage := .rq 0 }] }
    (∀ sc : BitVec 3, sc.toNat ≤ 4 → s.released sc.toNat = true ∧ s.released (max sc.toNat 3) = true) ∧
    ¬((2 : BitVec 2) = 1 ∨ ((2 : BitVec 2) = 2 ∧ u.released 3 = true) ∨ ((2 : BitVec 2) = 3 ∧ u.released (max 3 3) = true)) ∧
    4 < (5 : BitVec 3).toNat ∧ s.unmasked := by unfold State.unmasked; decide
theorem meets_CapabilityResults : ∃ v, ((with0 id).rc 1).setBounds ((with0 id).rx 3).toNat = .ok v ∧ ((with0 id).rc 1).tag = true :=
  ⟨{ capAt 1 0x100 with len := 0x100, boff := 0 }, ok_of_okIs (by decide), by decide⟩
/-- A tagged and an untagged source; a length that fits, and one that does not. -/
theorem meets_CapabilitiesOnlyShrink : let s := with0 id; (s.rc 1).tag = true ∧ (s.rc 0).tag = false ∧ s.unmasked ∧
    okIs ((s.rc 1).setBounds (s.rx 3).toNat) { capAt 1 0x100 with len := 0x100, boff := 0 } = true ∧ errIs ((s.rc 1).setBounds (s.rx 2).toNat) 0x1C = true := by
  unfold State.unmasked; decide
theorem meets_TrapsAndFaults : (with0 id).unmasked ∧ sup0.unmasked ∧ let s := withP (fun p => { p with mode := true, mask := true })
    s.reg.pacer.mode = true ∧ s.reg.pacer.mask = true := by unfold State.unmasked; decide
theorem meets_ReturnsFromTrap : sup0.reg.pacer.mode = true ∧ sup0.reg.pacer.epcc.tag = true := by decide
theorem meets_PrivilegeHolds : privileged .tlbsync = true ∧ (with0 id).reg.pacer.mode = false := by decide
/-- The first and last listed registers and the numbers beside them, by the marks of R96: 4 is a task's own, 0 and 5 read-only to it, 0x1F a
supervisor's, 0x15 read-only to it too; 0x0A and 0x20 name none. -/
theorem meets_SystemRegisters : sysListed 4 = true ∧ sysSupOnly 4 = false ∧ sysRoTask 4 = false ∧ sysRoSup 4 = false ∧
    sysListed 0 = true ∧ sysRoTask 0 = true ∧ sysRoSup 0 = false ∧ sysListed 9 = true ∧ sysRoTask 9 = true ∧ sysListed 0x1F = true ∧ sysSupOnly 0x1F = true ∧
    sysRoSup 0x1F = false ∧ sysRoSup 0x15 = true ∧ sysListed 0x0A = false ∧ sysListed 0x20 = false ∧ (with0 id).reg.pacer.mode = false ∧
    sup0.reg.pacer.mode = true ∧ (with0 id).unmasked := by unfold State.unmasked; decide
/-- An event pending; at the limit of 5 fc; before it; no limit. -/
theorem meets_WaitHaltYield : let s := withP (fun p => { p with ev := 1 }); let u := with0 (fun g => { g with wait := .wfe 0 })
    s.reg.pacer.ev ≠ 0 ∧ (u.rx 1).toNat ≠ 0 ∧ (u.rx 1).toNat ≤ 5 - 0 ∧ u.reg.pacer.ev = 0 ∧ ¬((u.rx 1).toNat ≤ u.cyc - 0) ∧ (u.rx 0).toNat = 0 ∧
    ({ u with now := 5 } : State).cyc = 5 ∧ sup0.reg.pacer.mode = true ∧ sup0.reg.pacer.mask = false ∧ u.reg.pacer.mode = false := by decide

/-! ### A configuration: AG RD (engine 0, C1) → VX ABS → PT SINK (K0), over FP32 links of 2 slots -/

/-- Its block, word by word from the layouts of R106 and R107; BLKID 7, CRC-16 0x779D. -/
def words0 : List Nat := [0x31CF1B, 0x779D000070001000, 0x4000000210500000, 0x1010000000000000, 0x1060000410500000, 0xB010000000000000]
def bytes0 : List Byte := words0.flatMap (leBytes 8)
def block0 : Block :=
  { h0 := 0x31CF1B, h1 := 0x779D000070001000, elems := [elemOf 0x4000000210500000 (some 0x1010000000000000), elemOf 0x1060000410500000 none, elemOf 0xB010000000000000 none] }

/-- Slot 0 holds the block, which stands at SRAM 0x200. -/
def slot0 : Slot := { Slot.empty with stored := true, store := capAt 1 0x200, blkid := 7, crc := 0x779D, block := some block0 }
/-- The record g with slot 0, and the block's bytes in memory; f changes the record. -/
def withF (f : Region → Region) : State :=
  { with0 (fun g => f { g with pacer := { g.pacer with c := g.pacer.c.set 4 (capAt 1 0x200) }, slots := [(0, slot0)] }) with mem := Memory.setBytes [] 0x200 bytes0 }
/-- Slot 0 armed with 2 tiles. -/
def armed0 (f : Region → Region) : State := withF (fun g => f (g.armSlot 0 2 0 0 false 0))
def tok0 : Token := { vals := List.replicate 64 3, live := List.replicate 64 true, last := true, stamp := 0 }
/-- The configuration in the Field with the tokens q on link n. -/
def inst0 (n : Nat) (q : List Token) : Inst :=
  let i := mkInst 0 block0 [] true
  { i with links := i.links.map (fun l => if l.src = n then { l with q := q } else l) }
def loaded0 (n : Nat) (q : List Token) (f : Region → Region) : State := armed0 (fun g => f { g with insts := [inst0 n q] })

/-- The block passes the loader's checks, by itself and as a refetch (R108). -/
theorem test_block : (withF id).rd 0x200 48 = bytes0 ∧ blockFault block0 bytes0 none = none ∧ blockFault block0 bytes0 (some (7, 0x779D)) = none ∧
    blockFault block0 (bytes0.set 16 1) none ≠ none := by decide +kernel

/-- A running tree whose node arms slot 0 for 2 tiles. -/
def node0 : CtlNode := { id := 0, kind := .seq, depth := 1, iters := 2, kids := [.arm 0 2 0 0] }
def run0 : CtlRun := { id := 0, node := 0, parent := none, next := 0, flight := [] }
def tree0 : Ctl := { nodes := [node0], stack := [], nextId := 1, runs := [run0], nextRun := 1 }
/-- A block that reads and passes; a slot that is not armed and holds no token, one that is armed, one with a token; slots outside a tree and inside a running
one. -/
theorem meets_Configurations : let s := withF id; let u := armed0 id
    (∃ x, s.readBlock (s.rc 4) = .ok x ∧ (blockFault x.2.1 x.2.2 none == none) = true) ∧ (s.rc 4).cursor.toNat % 16 = 0 ∧ s.reg.armed 0 = false ∧
    s.reg.slotBusy 0 = false ∧ s.unmasked ∧ (u.rc 4).cursor.toNat % 16 = 0 ∧ u.reg.armed 0 = true ∧ (loaded0 0 [tok0] id).reg.slotBusy 0 = true ∧
    s.reg.inTree 0 = false ∧ s.reg.inTree 7 = false ∧ (7 : BitVec 5).toNat ≤ 7 ∧ (withF (fun g => { g with ctl := tree0 })).reg.inTree 0 = true :=
  ⟨ex_ok (by decide +kernel), by unfold State.unmasked; decide +kernel⟩

/-- A load of zeros, which no block begins with. -/
theorem meets_Configurations_refused : let s := withF (fun g => { g with pacer := { g.pacer with c := g.pacer.c.set 5 (capAt 1 0x4000) } })
    (∃ x, s.readBlock (s.rc 5) = .ok x ∧ ((blockFault x.2.1 x.2.2 none).isSome && decide (x.1.reg.pacer.mode = false)) = true) ∧ (s.rc 5).cursor.toNat % 16 = 0 ∧
    s.reg.armed 0 = false ∧ s.reg.slotBusy 0 = false :=
  ⟨ex_ok (by decide +kernel), by decide +kernel⟩

/-- A block whose header granule is uncorrectable. -/
theorem meets_Configurations_port : let s : State := { withF id with bad := [0x20] }; let c := s.rc 4; let l := s.onReg (·.loseSlot 0)
    (∃ x, l.access c c.cursor.toNat 16 (permLoad + permEngine) kindRead memSpaces .read = .ok x ∧ ((l.flushFor x.2).foundAt x.2 0x30).isSome = true) ∧
    errIs (s.readBlock c) (0x30, c.cursor.toNat) = true ∧ c.cursor.toNat % 16 = 0 ∧ s.reg.armed 0 = false ∧ s.reg.slotBusy 0 = false :=
  ⟨ex_ok (by decide +kernel), by decide +kernel⟩

/-- A controller node that is open. -/
def open0 : Ctl := { nodes := [{ id := 0, kind := .seq, depth := 1, iters := 2, kids := [] }], stack := [0], nextId := 1, runs := [], nextRun := 0 }
/-- The block with its first element an AG GATHER, whose extents 2 and 3 must be 1. -/
def gather0 : Block := { block0 with elems := block0.elems.set 0 (elemOf 0x4030000210500000 (some 0x1010000000000000)) }
/-- A slot that is not stored and one that is armed; a resident block whose arm is valid and one that P0 = 0x100 makes invalid, with no node open and with one;
no arm, and one. -/
theorem meets_Arms : let s := withF id; let u := armed0 id; let bad := fun (g : Region) => g.setSlot 0 { g.slot 0 with block := some gather0 }
    let node := fun (g : Region) => { g with ctl := open0 }
    (3 : XReg) ≠ 31 ∧ 1 ≤ (s.rx 1).toNat ∧ (s.rx 1).toNat < 2 ^ 32 ∧ s.unmasked ∧ (s.reg.slot 7).stored = false ∧ u.reg.armed 0 = true ∧
    (s.reg.slot 0).stored = true ∧ s.reg.armed 0 = false ∧ (s.reg.slot 0).block = some block0 ∧ s.reg.ctl.stack = [] ∧
    s.reg.armFault 0 (s.rxBlock 3 0) (s.rxBlock 3 1) = none ∧ (withF bad).reg.armFault 0 (s.rxBlock 3 0) (s.rxBlock 3 1) = some 0 ∧
    (withF node).reg.ctl.stack ≠ [] ∧ ((withF node).reg.ctl.addKid (.arm 0 5 (s.rxBlock 3 0) (s.rxBlock 3 1))).isSome = true ∧
    (withF node).reg.shapeFault 0 (s.rxBlock 3 0) (s.rxBlock 3 1) = none ∧
    (withF (fun g => bad (node g))).reg.shapeFault 0 (s.rxBlock 3 0) (s.rxBlock 3 1) = some 0 ∧ (withF (fun g => bad (node g))).reg.armed 0 = false ∧
    s.reg.inTree 0 = false ∧ (s.reg.slot 0).arm = none ∧ (u.reg.slot 0).arm.isSome = true ∧ u.reg.inTree 0 = false := by unfold State.unmasked; decide +kernel

def open8 : Ctl := { open0 with stack := List.replicate 8 0 }
/-- Room for a node, 8 open nodes, an open node with and without a parent, none open. -/
theorem meets_ControllerTree : let s := with0 id
    1 ≤ (s.rx 1).toNat ∧ (s.rx 1).toNat < 2 ^ 32 ∧ s.reg.ctl.stack.length < 8 ∧ open0.stack.length < 8 ∧ (open0.node 0).kids.length < 8 ∧
    1 ≤ (8 : BitVec 5).toNat ∧ (8 : BitVec 5).toNat ≤ 8 ∧ 8 ≤ open8.stack.length ∧ open0.stack = 0 :: [] ∧
    ({ open0 with stack := [1, 0] } : Ctl).stack = 1 :: 0 :: [] ∧ (({ open0 with stack := [0] } : Ctl).addKid (.node 1)).isSome = true ∧
    s.reg.ctl.stack = [] ∧ s.unmasked := by unfold State.unmasked; decide +kernel

/-- Engine 0 of the armed slot with room, and with 16 commands of other slots; parameter and control queues with 3 and 4 entries; a valid K register and
an invalid one; a slot that is over and one that is armed. -/
theorem meets_StreamsAndControl : let s := armed0 id
    let full := (armed0 (fun g => g.setEngine 0 { g.engine 0 with cmds := List.replicate 16 (1, 1) }))
    1 ≤ (s.rx 1).toNat ∧ s.reg.armed 0 = true ∧ (withF id).reg.armed 0 = false ∧ s.reg.backs 0 0 = true ∧ (s.reg.engSlot 0 0).reg.all (·.armOk) = true ∧
    ((s.reg.engine 0).command 0 (s.rx 1).toNat).isSome = true ∧ full.reg.armed 0 = true ∧ full.reg.backs 0 0 = true ∧
    (full.reg.engSlot 0 0).reg.all (·.armOk) = true ∧ (full.reg.engine 0).command 0 (full.rx 1).toNat = none ∧ s.unmasked ∧
    (let u := withP (fun p => { p with x := p.x.set 5 0x477 }); (u.rx 5).toNat = 7 + 7 * 2 ^ 4 + 4 * 2 ^ 8 ∧ (u.reg.engSlot 7 7).parms.length < 4) ∧
    4 ≤ ((with0 (fun g => g.setEngSlot 7 7 { EngSlot.empty with parms := List.replicate 4 { field := 0, value := 0, after := 0 } })).reg.engSlot 7 7).parms.length ∧
    (AMap.findD (s.reg.slot 7).ctl 3 []).length < 4 ∧ 4 ≤ (AMap.findD ({ Slot.empty with ctl := [(3, [1, 2, 3, 4])] } : Slot).ctl 3 []).length ∧
    (withP (fun p => { p with kValid := 0x80 })).reg.pacer.kValid.getLsbD 7 = true ∧ s.reg.pacer.kValid.getLsbD 0 = false ∧
    ((s.reg.slot 7).arm = none ∧ s.reg.slotBusy 7 = false ∧ s.reg.inTree 7 = false ∧ s.storesDone s.cur 7 = true) ∧ (s.reg.slot 0).arm ≠ none := by
  unfold State.unmasked; decide +kernel

/-- A buffer at SRAM 0x4000 for the armed slot; a snapshot done, one pending before and at its limit of 5 fc. -/
theorem meets_Snapshots : let s := armed0 (fun g => { g with pacer := { g.pacer with c := g.pacer.c.set 5 (capAt 1 0x4000) } })
    let u := with0 (fun g => { g with wait := .snap 0, snap := { Snap.empty with status := .pending } })
    let span := fun (n : Nat) => s.access (s.rc 5) (s.rc 5).cursor.toNat (4096 + n * 17 * 1024) (permStore + permEngine) kindWrite memSpaces .store
    (∃ x, span (((s.reg.slot 0).block.map (·.elemCount)).getD 0) = .ok x) ∧ (∃ y, span block0.elemCount = .ok y) ∧ (s.rc 5).cursor.toNat % 4096 = 0 ∧
    s.reg.armed 0 = true ∧ s.reg.snap.status ≠ .pending ∧ (s.refetch s.cur 0).2 = true ∧ ((s.refetch s.cur 0).1.reg.slot 0).block = some block0 ∧
    ¬(u.reg.snap.status ≠ .pending ∨ (u.rx 1).toNat = 0 ∨ (u.rx 1).toNat ≤ u.cyc - 0) ∧ (u.rx 1).toNat ≤ ({ u with now := 5 } : State).cyc - 0 :=
  ⟨ok_ex (by decide +kernel), ok_ex (by decide +kernel), by decide +kernel⟩

/-- A GT EXIT with a token and no open section of its ENTRY: it raises 0x5A (R335). -/
def instX : Inst :=
  let b : Block := { h0 := 0, h1 := 0, elems := [elemOf 0xA001000000000000 none, elemOf 0xA011000000000000 none] }
  { mkInst 3 b [] true with links := [{ src := 0, out := 0, dst := 1, port := 0, slots := 2, fmt := 1, from_ := 1, pc := false, q := [tok0], buf := [], part := none, pos := 0, scl := [], mark := none }] }
theorem meets_FieldFirings : let s := loaded0 1 [tok0] id; let u := with0 (fun g => { g with insts := [instX] }); let z := with0 (fun g => { g with frozen := true })
    (∃ x, s.firing s.cur (inst0 1 [tok0]) 2 none = .ok x ∧ x.isSome = true) ∧ u.firing u.cur instX 1 none = .error (1, 0x5A) ∧
    s.reg.frozen = false ∧ s.reg.snap.owed = [] ∧ s.reg.insts = [inst0 1 [tok0]] ∧ 2 < (inst0 1 [tok0]).block.elems.length ∧
    (((inst0 1 [tok0]).block.el 2).kind, ((inst0 1 [tok0]).block.el 2).op) = (11, 1) ∧
    u.reg.insts = [instX] ∧ ((instX.block.el 1).kind, (instX.block.el 1).op) = (10, 1) ∧
    z.reg.frozen = true ∧ z.reg.frozeAt ≠ some z.now ∧ z.reg.snap.owed = [] :=
  ⟨ex_ok (by decide +kernel), err_of_errIs (by decide +kernel), by decide +kernel⟩
theorem meets_FieldFirings_table : (Instr.ptSink, 11, 1) ∈ elemTable ∧ (Instr.gtExit, 10, 1) ∈ elemTable := by simp [elemTable]

def tok1 : Token := { vals := [2 ^ 32 - 1], live := [true], last := true, stamp := 0 }
theorem val_tok1 (i : Nat) : tok1.val i < 2 ^ 32 := by
  cases i with
  | zero => decide
  | succ n => simp [Token.val, tok1]
/-- The largest values, on an element of VX ADD in INT32; SEL's three ports; an empty DL. -/
theorem meets_TokenOperations : let w := elemOf 0x1000020000000000 none; let inp : Inputs := fun _ => some tok1
    (w.kind, w.op, w.ports, w.vtype, w.m 4 1) = (1, 0, [0, 1], 2, 0) ∧ inp 0 = some tok1 ∧ inp 1 = some tok1 ∧ inp 2 = some tok1 ∧
    tok1.live.length = tok1.vals.length ∧ (∀ i, tok1.val i < 2 ^ 32 ∧ tok1.val i < 2 ^ 32) ∧ (elemOf 0x6000000000000000 none).op = 0 ∧ ElemSt.empty.out0 = [] :=
  ⟨by decide +kernel, rfl, rfl, rfl, rfl, fun i => ⟨val_tok1 i, val_tok1 i⟩, by decide +kernel, rfl⟩

/-- Engine 0 in a round of slot 0. -/
def round0 (i : Nat) : Round :=
  { slot := 0, reg := (((armed0 id).reg.engSlot 0 0).reg.getD { op := 0, mode := 0, cap := Cap.null, mfmt := 0, base := 0, ext0 := 0, ext1 := 0, ext2 := 0, ext3 := 0, sd1 := 0, sd2 := 0, sd3 := 0, rot := 0 }), i := i, todo := [], look := none, stores := 0, ended := false }
def reading0 (i : Nat) : State := armed0 (fun g => g.setEngine 0 { g.engine 0 with round := some (round0 i) })
/-- A token in the entry queue of engine 0. -/
def entered0 (q : List Token) (f : Region → Region) : State := loaded0 0 [] (fun g => f (g.setEngSlot 0 0 { g.engSlot 0 0 with entry := q }))
/-- An AG RD of engine 0 with PRM (MODE bit 3) and a parameter token for field 4 on port 1. -/
def instP : Inst :=
  let b : Block := { h0 := 0, h1 := 0, elems := [elemOf 0x4000080000000000 (some 0x1010000000000000)] }
  { mkInst 0 b [] true with links := [{ src := 0, out := 0, dst := 0, port := 1, slots := 2, fmt := 1, from_ := 1, pc := false, q := [{ tok0 with vals := [9, 0, 4] }], buf := [], part := none, pos := 0, scl := [], mark := none }] }
def parm0 : State := armed0 (fun g => { g with insts := [instP] })
/-- A read that is due; a token that may pass into the Field; a parameter token with nothing to read. -/
theorem meets_AddressGenerators : let s := reading0 0; let u := entered0 [tok0] id; let p := parm0
    (∃ x, u.firing u.cur (inst0 0 []) 0 (some true) = .ok x ∧ x.isSome = true) ∧ (∃ x, p.firing p.cur instP 0 (some false) = .ok x ∧ x.isSome = true) ∧
    p.engineRead p.cur 0 0 = p ∧ s.engineRead s.cur 0 0 ≠ s ∧ s.reg.frozen = false ∧ s.reg.snap.owed = [] ∧ u.reg.frozen = false ∧ u.reg.snap.owed = [] ∧ (inst0 0 []).agOf 0 0 = some 0 ∧ u.reg.insts = [inst0 0 []] ∧
    (((inst0 0 []).block.el 0).kind, ((inst0 0 []).block.el 0).op) = (4, 0) ∧
    instP.agOf 0 0 = some 0 ∧ p.reg.insts = [instP] ∧ ((instP.block.el 0).kind, (instP.block.el 0).op) = (4, 0) :=
  ⟨ex_ok (by decide +kernel), ex_ok (by decide +kernel), rfl, fun h => absurd (congrArg (fun x : State => x.reqs.length) h) (by decide +kernel), by decide +kernel⟩
/-- The first token of a round, through C1 in SRAM. -/
theorem meets_AddressGeneratorReads : let s := reading0 0; let e := s.reg.engine 0
    (∃ ps, s.engPieces s.cur (round0 0).reg.cap ((round0 0).reg.addr (round0 0).i) 256 (permLoad + permEngine) kindRead engSpaces .read = .ok ps ∧ (!ps.isEmpty) = true) ∧
    s.reg.frozen = false ∧ s.reg.snap.owed = [] ∧ e.round = some (round0 0) ∧ (round0 0).look = none ∧ (round0 0).reg.op = 0 ∧ e.place (round0 0).slot = true ∧
    (round0 0).i + 1 ≠ (round0 0).reg.count :=
  ⟨ex_ok (by decide +kernel), by decide +kernel⟩

/-- A round of each operation, with the tokens that its rows still give. -/
def roundOf (op mode : Nat) (todo : List (Option (Word × Cap) × Bool)) : Round :=
  { round0 0 with reg := { (round0 0).reg with op := op, mode := BitVec.ofNat _ mode }, todo := todo }
def inRound (rd : Round) (f : Region → Region) : State := armed0 (fun g => f (g.setEngine 0 { g.engine 0 with round := some rd }))
/-- The first token of a round of RD, RDFE and RING; a row's token of GATHER and SURV. -/
theorem meets_EngineReads : (∀ op ∈ [0, 2, 4], let rd := roundOf op 0 []; let s := inRound rd id; let e := s.reg.engine 0
      s.reg.frozen = false ∧ s.reg.snap.owed = [] ∧ e.round = some rd ∧ rd.look = none ∧ e.place rd.slot = true ∧ rd.reg.writes = false ∧ rd.reg.op = op ∧
        rd.i + 1 ≠ rd.reg.count ∧ okSat (s.engPieces s.cur rd.reg.cap (rd.reg.addr rd.i) 256 (rd.reg.readPerms rd.i).1 kindRead engSpaces .read) (fun ps => !ps.isEmpty) = true) ∧
    (∀ op ∈ [3, 5], let rd := roundOf op 0 [(some (0x300, capAt 1 0), false)]; let s := inRound rd id; let e := s.reg.engine 0
      s.reg.frozen = false ∧ s.reg.snap.owed = [] ∧ e.round = some rd ∧ rd.look = none ∧ e.place rd.slot = true ∧ rd.reg.writes = false ∧ rd.reg.op = op ∧
        okSat (s.engPieces s.cur (capAt 1 0) 0x300 256 (if op = 3 then permLoad + permEngine else permLoad) kindRead engSpaces .read) (fun ps => !ps.isEmpty) = true) := by decide +kernel
/-- An AG that stores, with a token of element 1 at its data port. -/
def instS (op port : Nat) : Inst :=
  let b : Block := { h0 := 0, h1 := 0, elems := [elemOf (0x4000010000000000 + op * 2 ^ 52) (some 0x1010000000000000), elemOf 0x1060000410500000 none] }
  { mkInst 0 b [] true with links := [{ src := 1, out := 0, dst := 0, port := port, slots := 2, fmt := 1, from_ := 1, pc := false, q := [tok0], buf := [], part := none, pos := 0, scl := [], mark := none }] }
/-- A token to store for WR, RING and SURV. -/
theorem meets_EngineStores : ∀ p ∈ [(1, 0, 0, []), (4, 0, 1, []), (5, 2, 1, [(some (0x300, capAt 1 0), false)])],
    let i := instS p.1 p.2.1; let rd := roundOf p.1 p.2.2.1 p.2.2.2; let s := inRound rd (fun g => { g with insts := [i] })
    s.reg.frozen = false ∧ s.reg.snap.owed = [] ∧ s.reg.snap.status ≠ .pending ∧ s.reg.insts = [i] ∧ i.agOf 0 p.1 = some 0 ∧ (i.block.el 0).agWrite = true ∧
      (i.el 0).taken = true ∧ (i.el 0).out0 = [] ∧ (∀ m ∈ i.links, m.direct = false) ∧ ((i.inLink 0 p.2.1).bind (·.head)) = some tok0 ∧
      (s.reg.engine 0).round = some rd ∧ rd.slot = i.slot ∧ rd.reg.op = p.1 ∧ (p.1 = 5 ∨ rd.i + 1 ≠ rd.reg.count) ∧
      okSat (if p.1 = 5 then s.engPieces s.cur (capAt 1 0) 0x300 256 permStore kindWrite engSpaces .store
        else s.engPieces s.cur rd.reg.cap (rd.reg.addr rd.i) 256 (permStore + permEngine) kindWrite engSpaces .store) (fun ps => !ps.isEmpty) = true := by decide +kernel

/-- Link 0 with a finished token and room; the next round with a parameter that makes EXT0 64, and 65. -/
def routed0 : Inst := { inst0 0 [] with links := (inst0 0 []).links.map (fun l => if l.src = 0 then { l with buf := [tok0] } else l) }
def commanded0 (v : Word) : State :=
  armed0 (fun g => g.setEngine 0 { (g.engine 0).setSlot 0 { g.engSlot 0 0 with parms := [{ field := 1, value := v, after := 0 }] } with cmds := [(0, 1)] })
theorem meets_RoutersAndRounds : let s := armed0 (fun g => { g with insts := [routed0] })
    s.reg.frozen = false ∧ s.reg.insts = [routed0] ∧ (routed0.links[0]?).map (fun l => (l.buf, decide (l.q.length < l.slots))) = some ([tok0], true) ∧
    (with0 (fun g => { g with frozen := true })).reg.frozen = true ∧
    (let u := commanded0 64; let e := u.reg.engine 0; let es := e.slot 0; let due := es.parms.takeWhile (fun p => p.after ≤ es.started)
      u.reg.frozen = false ∧ e.round = none ∧ e.cmds = [(0, 1)] ∧ (u.reg.slot 0).arm.isSome = true ∧ (es.reg.map (fun r => (due.foldl RoundReg.take r).startOk)) = some true) ∧
    (let u := commanded0 65; let e := u.reg.engine 0; let es := e.slot 0; let due := es.parms.takeWhile (fun p => p.after ≤ es.started)
      (es.reg.map (fun r => (due.foldl RoundReg.take r).startOk)) = some false) :=
  by decide +kernel

/-- An idle Field with one candidate; a configuration whose element 1 waits for the wave behind element 0. -/
def waved0 : Inst := { inst0 0 [] with elems := (inst0 0 []).elems.set 1 { ElemSt.empty with taken := false } }
theorem meets_StarterAndWave : let s := armed0 (fun g => g.setEngSlot 0 0 { g.engSlot 0 0 with entry := [tok0] }); let g := s.reg.sweep
    s.reg.frozen = false ∧ g.moment = true ∧ g.choose g.candidates = some 0 ∧ (g.slot 0).block = some block0 ∧ (g.slot 0).arm.isSome = true ∧
    (let u := armed0 (fun g => { g with insts := [waved0] });
      u.reg.frozen = false ∧ u.reg.running = some waved0 ∧ (∀ o ∈ u.reg.insts, o.closed = false) ∧ 1 < waved0.elems.length ∧ (waved0.el 1).taken = false ∧
      (∃ l ∈ waved0.links, l.dst = 1 ∧ (waved0.el l.src).taken = true)) ∧
    (let i := inst0 1 [tok0]; let u := armed0 (fun g => { g.setSlot 0 { g.slot 0 with arm := (g.slot 0).arm.map (fun a => { a with done := 2, decided := true }) } with insts := [i] })
      u.reg.frozen = false ∧ u.reg.running = some i ∧ (∀ o ∈ u.reg.insts, o.closed = false) ∧ ((u.reg.slot i.slot).arm.map (fun a => (a.total, a.done, a.decided))) = some (2, 2, true) ∧
        i.busy = true) := by decide +kernel

/-- A slot with a waiting token whose block is not resident. -/
theorem meets_ConfigurationCache : let s := entered0 [tok0] (fun g => g.setSlot 0 { g.slot 0 with block := none })
    (∃ x, s.readBlock (s.reg.slot 0).store = .ok x ∧
      (blockFault x.2.1 x.2.2 (some ((s.reg.slot 0).blkid, (s.reg.slot 0).crc)) == none) = true) ∧
    (AMap.find s.reg.slots 0).isSome = true ∧ s.reg.frozen = false ∧ (∃ se < 8, (s.reg.engine se).waiting 0 = true) ∧ (s.reg.slot 0).block = none ∧
    (s.reg.slot 0).stored = true :=
  ⟨ex_ok (by decide +kernel), by decide +kernel⟩

/-- An arm that has passed both of its tiles. -/
theorem meets_ArmBoundary : let s := armed0 (fun g => g.setSlot 0 { g.slot 0 with arm := (g.slot 0).arm.map (fun a => { a with done := 2, ends := [(0, 2)] }) })
    s.reg.frozen = false ∧ s.armOver s.cur 0 = true ∧ s.cancelPending s.cur = false ∧ (s.reg.slot 0).arm.any (·.tree) = false := by decide +kernel
/-- A run before its first iteration, and after its last. -/
theorem meets_ControllerRuns : let s := withF (fun g => { g with ctl := tree0 }); let n := s.reg.ctl.node run0.node
    s.reg.frozen = false ∧ s.reg.ctl.runs = [run0] ∧ run0.flight = [] ∧ n.kids ≠ [] ∧ run0.next < n.iters ∧ n.kind ≠ .pipe ∧
    n.iters ≤ ({ run0 with next := 2 } : CtlRun).next ∧ run0.parent = none ∧ s.reg.ctl.stack = [] := by decide +kernel
/-- A marker at the head of link 0. -/
def marked0 : Inst := { inst0 0 [] with links := (inst0 0 []).links.map (fun l => if l.src = 0 then { l with mark := some 0 } else l) }
theorem meets_SplitMarkers : let s := armed0 (fun g => { g with insts := [marked0], snap := { Snap.empty with status := .pending, owed := [(1, 0), (2, 0)] } })
    s.reg.frozen = false ∧ (with0 (fun g => { g with frozen := true })).reg.frozen = true ∧ s.reg.snap.status = .pending ∧ (1, 0) ∈ s.reg.snap.owed ∧ (0 : Nat) ≠ 8 ∧ s.reg.insts.find? (fun i => i.slot == s.reg.snap.slot) = some marked0 ∧
    (marked0.inLink 1 0).map (·.mark) = some (some 0) := by decide +kernel

/-! ### Loads, atomics, sync objects, derived regions and triggers -/

def vd0 : Vd :=
  { stopped := false, groups := 1, ptRoot := 0x100000, slotSel := 0, hwBase := 0, hwLen := 0x100000, assigned := 0, ready := List.replicate 8 [],
    aging := List.replicate 8 0, hold := none, pre := [] }
/-- Region 0 belongs to virtual device 0; SRAM granule 0x100 is full; f changes the record. -/
def withV (f : Region → Region) : State := { with0 f with vds := [(0, vd0)], full := [0x10] }
def piece0 (n : Nat) : Piece := { key := 0x100, va := 0x100, size := n, cmpr := false }

theorem meets_LoadsComplete : let s := withV id; let u := withV (fun g => { g with pacer := { g.pacer with c := g.pacer.c.set 1 (capAt 1 0x100) } })
    quiet s ∧ (1 : Nat) ≠ 7 ∧ reachable s (piece0 8) ∧ reachable s (piece0 16) ∧ (piece0 16).size = 16 ∧
    s.access (s.rc 1) (s.memAddr 1 0 0 8).toNat 8 permLoad kindRead loadSpaces .read = .ok (1, [piece0 8]) ∧
    s.access (s.rc 1) (s.memAddr 1 0 0 16).toNat 16 permLoad kindRead loadSpaces .read = .ok (1, [piece0 16]) ∧ (30 : XReg).getLsbD 0 = false ∧
    (s.memAddr 1 0 0 8).toNat % 8 = 0 ∧ s.liveAt 0x100 = false ∧ s.fullAt 0x100 = true ∧
    s.access (s.rc 1) (s.memAddr 1 0 0 8).toNat 8 permLoad kindRead [1, 2] .read = .ok (1, [piece0 8]) ∧
    s.access (s.rc 1) (s.memAddr 1 0 0 8).toNat 8 (permLoad + permStore) kindAtomic [1, 2] .store = .ok (1, [piece0 8]) ∧
    u.access (u.rc 1) (u.memAddr 1 0 0 16).toNat 16 permLoad kindRead [1, 2, 3, 4, 5, 7] .read = .ok (1, [piece0 16]) ∧ (u.memAddr 1 0 0 16).toNat % 16 = 0 := by unfold quiet reachable; decide +kernel
theorem meets_AtomicsComplete : let s := withV id
    quiet s ∧ reachable s (piece0 8) ∧ (piece0 8).size = 8 ∧ qualOk 0 0 [0, 1, 2, 3] = true ∧ qualOk 4 3 [0, 1, 2, 3] = true ∧ (s.rc 1).cursor.toNat % 8 = 0 ∧
    s.access (s.rc 1) (s.rc 1).cursor.toNat 8 permAtomic kindAtomic (amoSpaces .add) .store = .ok (1, [piece0 8]) ∧
    s.access (s.rc 1) (s.rc 1).cursor.toNat 8 permAtomic kindAtomic (amoSpaces .cas) .store = .ok (1, [piece0 8]) ∧
    s.refuses 0x100 (plain (leBytes 8 5)) false 2 = none ∧ s.refuses 0x100 (plain (leBytes 8 0)) false 2 = none := by unfold quiet reachable; decide +kernel

/-- Reductions: .any; .ord as the last rank of 64; a window with one rank and element 0, of two. -/
def window0 : Window := { n := 1, ranks := [((0, 0), 0)], op := 0, fmt := 1, rmode := 0, elems := 2, home := 0x400, completion := 0x600 }
def withW : State :=
  { withV (fun g => { g with pacer := { g.pacer with c := g.pacer.c.set 6 (capAt 6 4) } }) with windows := [(0, window0)], comm := { Comm.reset with treeUp := true } }
theorem meets_ReductionAndSyncIssues : let s := withV (fun g => { g with pacer := { g.pacer with x := g.pacer.x.set 11 0x3F003F } }); let u := withW
    qualOk 0 0 [0, 2] = true ∧ qualOk 4 2 [0, 2] = true ∧ s.qualReleased 4 2 = true ∧ (0x18 : BitVec 5).setWidth 3 = 0#3 ∧ (8 : BitVec 5).getLsbD 3 = true ∧
    (10 : XReg) ≠ 31 ∧ ordOk (s.rx (10 + 1)).toNat = true ∧ (s.rc 1).cursor.toNat % redSize .fadd 0 = 0 ∧
    s.access (s.rc 1) (s.rc 1).cursor.toNat (redSize .fadd 0) permAtomic kindAtomic [1, 2, 3, 5] .store = .ok (1, [piece0 (redSize .fadd 0)]) ∧
    s.access (s.rc 1) (s.rc 1).cursor.toNat (redSize .fadd 8) permAtomic kindAtomic [1, 2, 3, 5] .redAny = .ok (1, [piece0 (redSize .fadd 8)]) ∧
    (u.rc 6).cursor.toNat % 4 = 0 ∧ (u.rc 6).check (u.rc 6).cursor.toNat 4 permAtomic kindAtomic = .ok (6, 4) ∧ u.windowAt 4 = some window0 ∧
    window0.ranks.find? (fun r => r.1 == (u.comm.rank, u.cur)) = some ((u.comm.rank, u.cur), 0) ∧ 4 % 2 ^ 24 / 4 < window0.elems ∧ u.rpFault = none ∧
    (s.rc 1).cursor.toNat % 16 = 0 ∧ s.access (s.rc 1) (s.rc 1).cursor.toNat 16 permAtomic kindAtomic memSpaces .store = .ok (1, [piece0 16]) ∧
    (BitVec.ofNat 64 (2 ^ 31 - 1)).toNat < 2 ^ 31 ∧ ¬(1 ≤ (BitVec.ofNat 64 (2 ^ 31)).toNat ∧ (BitVec.ofNat 64 (2 ^ 31)).toNat < 2 ^ 31) ∧ 4 < (5 : BitVec 3).toNat ∧ s.unmasked := by unfold State.unmasked; decide +kernel

/-- A live-sync granule at SRAM 0x100 with the two words. -/
def objAt (w0 w1 : Nat) : State := { withV id with mem := Memory.setBytes [] 0x100 (leBytes 8 w0 ++ leBytes 8 w1), live := [0x10] }
/-- A barrier of 3 with 1 arrived, and with 2; GEN 0 against 5; a free granule; a baton that no one holds and one that region 0's task holds; a word that
differs from X1 and one that is equal. -/
theorem meets_SyncObjects : let s := withV id; let b1 := objAt (2 ^ 32 + 3) (2 ^ 56); let b2 := objAt (2 * 2 ^ 32 + 3) (2 ^ 56); let n0 := objAt 0 (2 * 2 ^ 56)
    let n1 := objAt (batonWord0 0 0) (2 * 2 ^ 56)
    (quiet s ∧ quiet b1 ∧ quiet b2 ∧ quiet n0 ∧ quiet n1 ∧ reachable b1 (piece0 16) ∧ reachable s (piece0 8)) ∧ (piece0 16).key % 16 = 0 ∧ (b1.rc 1).cursor.toNat % 16 = 0 ∧
    b1.access (b1.rc 1) (b1.rc 1).cursor.toNat 16 permAtomic kindAtomic memSpaces .store = .ok (1, [piece0 16]) ∧
    (b1.merges 0x100 16 false && b1.blockBad 0x100) = false ∧ b1.isBarrier 0x100 = true ∧ barArrived (b1.w0 0x100) + 1 < barCount (b1.w0 0x100) ∧ barArrived (b2.w0 0x100) + 1 = barCount (b2.w0 0x100) ∧
    b1.w1 0x100 % 2 ^ 32 ≠ (b1.rx 1).toNat ∧ (4 : BitVec 3).toNat ≤ 4 ∧ s.liveAt 0x100 = false ∧
    n0.batonFault 0x100 = none ∧ batonHeld (n0.w0 0x100) = false ∧ n1.batonFault 0x100 = none ∧ n1.w0 0x100 = batonWord0 n1.cur n1.taskid ∧
    s.access (s.rc 1) (s.rc 1).cursor.toNat 8 permLoad kindRead memSpaces .read = .ok (1, [piece0 8]) ∧ s.rdWord 0x100 ≠ (s.rx 1).toNat ∧
    s.rdWord 0x100 = (s.rx 0).toNat ∧ s.anyBad 0x100 8 = false ∧ s.anyBadMeta 0x100 8 = false ∧ 0x10 ∈ granulesOf 0x10F 1 ∧
    ((with0 (fun g => { g with wait := .monitor 0x10 })).region 0).wait = .monitor 0x10 :=
  ⟨by unfold quiet reachable; decide +kernel, by decide +kernel⟩

/-- A port baton that region 5's task holds, with no one in its FIFO; one that region 0's task holds, with one acquirer behind it. -/
theorem meets_PortBatons : let b : Baton := { key := 0x10, slot := 0, fifo := [] }; let q := reqOf (.batonAcq 5 8)
    let h : State := { objAt (batonWord0 5 7) (2 * 2 ^ 56) with batons := [b] }; let m : State := { objAt (batonWord0 0 0) (2 * 2 ^ 56 + 1) with batons := [{ b with fifo := [q] }] }
    (∀ s ∈ [h, m], quiet { s with batons := [] } ∧ reachable s (piece0 16)) ∧ (piece0 16).size = 16 ∧ (piece0 16).key % 16 = 0 ∧
    (∀ s ∈ [h, m], (s.rc 1).cursor.toNat % 16 = 0 ∧ s.access (s.rc 1) (s.rc 1).cursor.toNat 16 permAtomic kindAtomic memSpaces .store = .ok (1, [piece0 16]) ∧
      (s.merges 0x100 16 false && s.blockBad 0x100) = false ∧ s.liveAt 0x100 = true ∧ s.batonFault 0x100 = none) ∧
    h.batons.find? (fun x => x.key == 0x100 / 16) = some b ∧ batonHeld (h.w0 0x100) = true ∧ (m.batons.find? (fun x => x.key == 0x100 / 16)).map (·.fifo) = some [q] ∧
    m.w0 0x100 = batonWord0 m.cur m.taskid := ⟨by unfold quiet reachable; decide +kernel, by decide +kernel⟩

/-- A shape record at SRAM 0x300: 2 rows of 4 columns of FP32, stride 16, row sums; its view's capability in space 7. -/
def shape0 : List Byte := leBytes 4 2 ++ leBytes 4 4 ++ leBytes 8 16 ++ [0, 1] ++ List.replicate 110 0
def decl0 : Decl := declOf shape0 0 0x100 true 0x5000 0x6000 [(0x100, 0x100, 16), (0x110, 0x110, 16)]
def withD (ds : AMap Decl) : State :=
  { withV (fun g => { g with pacer := { g.pacer with c := ((g.pacer.c.set 7 (capAt 1 0x300)).set 8 { capAt 7 0x5000 with perms := 1, boff := 0, len := 0x1000 }).set 9 { capAt 1 0x100 with boff := 0, len := 0x20 } } }) with
    mem := Memory.setBytes [] 0x300 shape0, decls := ds }
theorem meets_DerivedRegions : let s := withD []; let d := (s.scan decl0); let u := withD [(0, d)]; let rec_ := s.rc 7; let base := s.rc 1; let dv := s.rc 8
    (∃ x, s.fetchData rec_ rec_.cursor.toNat 128 permLoad recordSpaces = .ok x ∧ (x.2 == shape0 && x.1.decls.isEmpty) = true) ∧
    (∃ x, s.access base base.cursor.toNat decl0.baseLen permLoad kindRead memSpaces .read = .ok x ∧
      (x.2.length == 2 && x.2.all (fun p => (d.elemsIn p.key p.size).all (fun e => !s.badAt e.2.2))) = true) ∧
    (∃ x, u.access (u.rc 8) (u.rc 8).cursor.toNat 4 permLoad kindRead [7] .read = .ok x ∧ (x.1 == 7) = true) ∧
    (∃ x, u.viewRequests (inSpace (u.rc 8).cursor) 4 (u.rc 8).cursor = .ok x ∧ (x.2.1 == 0 && x.2.2.length == 1) = true) ∧
    rec_.cursor.toNat % 16 = 0 ∧ recExprBad shape0 = false ∧ declOk shape0 decl0 = true ∧ memSpaces.contains base.spaceAt = true ∧ base.cursor.toNat % 16 = 0 ∧
    dv.tag = true ∧ dv.spaceAt = 7 ∧ dv.perms.toNat = permLoad ∧ (decl0.viewSize : Int) ≤ dv.top - dv.base ∧
    d.parts.all (fun p => s.portHolds p.1 (d.stateBytes (p.2.filter (·.used)).length)) = true ∧ (u.rc 8).cursor.toNat % 4 = 0 ∧
    (u.rc 9).checkRaw (u.rc 9).base.toNat 0 permLoad kindRead = none ∧ u.overBase (u.rc 9) ≠ [] ∧ (∀ p ∈ u.overBase (u.rc 9), p.2.lost = false) ∧ u.released 3 = true ∧
    u.decls.find? (fun p => p.2.view == (u.rc 8).cursor.toNat % 2 ^ 56) = some (0, d) ∧ d.vd = u.vd.getD 0 ∧
    u.decls.find? (fun p => p.2.view == (u.rc 1).cursor.toNat % 2 ^ 56) = none ∧ u.unmasked :=
  ⟨ex_ok (by decide +kernel), ex_ok (by decide +kernel), ex_ok (by decide +kernel), ex_ok (by decide +kernel), by unfold State.unmasked; decide +kernel⟩
/-- A base whose first granule is uncorrectable. -/
theorem meets_DerivedRegions_bad : let s : State := { withD [] with bad := [0x10] }; let d := s.scan decl0; let rec_ := s.rc 7; let base := s.rc 1
    (∃ x, s.fetchData rec_ rec_.cursor.toNat 128 permLoad recordSpaces = .ok x ∧ (x.2 == shape0 && x.1.decls.isEmpty) = true) ∧
    (∃ x, s.access base base.cursor.toNat decl0.baseLen permLoad kindRead memSpaces .read = .ok x ∧
      (x.2.find? (fun p => (d.elemsIn p.key p.size).any (fun e => s.badAt e.2.2))).isSome = true) ∧
    d.parts.all (fun p => s.portHolds p.1 (d.stateBytes (p.2.filter (·.used)).length)) = true :=
  ⟨ex_ok (by decide +kernel), ex_ok (by decide +kernel), by decide +kernel⟩

theorem view_holds {s : State} {x n id : Nat} {e : Decl} {m : Nat} (h : s.reqs = [] ∧ s.resps = [] ∧ s.dropped = [] ∧ s.declAt x = some (id, e) ∧
    AMap.find s.decls id = some e ∧ x - e.view + n ≤ e.viewSize ∧ e.lost = false ∧ e.portsFor (e.viewIdxs (x - e.view) n) = [m] ∧
    s.cut (some (dieOf s.cur)) (portOfNum m) = false ∧ AMap.findD e.mq m [] = [] ∧ ∀ i ∈ e.viewIdxs (x - e.view) n, (e.part m i).spoilt = false)
    (h' : okSat (e.shape.viewResult (x - e.view) n [(e.viewIdxs (x - e.view) n).flatMap (fun i => (e.part m i).bytes)]) (fun _ => true) = true) :
    ∃ vs, viewHolds s x n id e m vs :=
  let ⟨h1, h2, h3, h4, h5, h6, h7, h8, h9, h10, h11⟩ := h
  (ok_ex h').imp fun _ hv => ⟨h1, h2, h3, h4, h5, h6, h7, h8, h9, h10, h11, hv⟩
/-- A base of 4 rows, of which one port holds all: 4 and 16 bytes of its view. -/
def decl4 : Decl :=
  declOf (leBytes 4 4 ++ shape0.drop 4) 0 0x100 true 0x5000 0x6000 [(0x100, 0x100, 16), (0x110, 0x110, 16), (0x120, 0x120, 16), (0x130, 0x130, 16)]
def withD4 : State := withD [(0, (withD []).scan decl4)]
theorem meets_DerivedRegions_loads : let u := withD4; let d := (withD []).scan decl4; let c := u.rc 8; let a := u.memAddr 8 0 0 4; let b := u.memAddr 8 0 0 16; let m := portNum (portOf 0x100)
    (∃ x, u.access c a.toNat (2 ^ (2 : BitVec 2).toNat) permLoad kindRead loadSpaces .read = .ok x ∧ (x.1 == 7) = true) ∧
    (∃ x, u.viewRequests (inSpace a) 4 a = .ok x) ∧ (∃ vs, viewHolds u (inSpace a) 4 0 d m vs) ∧
    (∃ x, u.access c b.toNat 16 permLoad kindRead loadSpaces .read = .ok x ∧ (x.1 == 7) = true) ∧
    (∃ x, u.access c b.toNat 16 permLoad kindRead [1, 2, 3, 4, 5, 7] .read = .ok x ∧ (x.1 == 7) = true) ∧
    (∃ x, u.viewRequests (inSpace b) 16 b = .ok x) ∧ (∃ vs, viewHolds u (inSpace b) 16 0 d m vs) ∧ (4 : XReg).getLsbD 0 = false ∧ b.toNat % 16 = 0 :=
  ⟨ex_ok (by decide +kernel), ok_ex (by decide +kernel), view_holds (by decide +kernel) (by decide +kernel), ex_ok (by decide +kernel), ex_ok (by decide +kernel),
    ok_ex (by decide +kernel), view_holds (by decide +kernel) (by decide +kernel), by decide +kernel⟩
/-- The one port of that base, whose queue is empty: DRGN.READ of the first word of the view, and DRGN.SYNC. -/
theorem meets_DerivedRegions_port : let d := ((withD []).scan decl0); let u := withD [(0, d)]; let n := portNum (portOf 0x100)
    (∃ x, d.shape.viewResult 0 4 [(d.viewIdxs 0 4).flatMap (fun i => (d.part n i).bytes)] = .ok x) ∧
    u.reqs = [] ∧ u.resps = [] ∧ u.dropped = [] ∧ u.declAt (inSpace (u.rc 8).cursor) = some (0, d) ∧ AMap.find u.decls 0 = some d ∧
    inSpace (u.rc 8).cursor - d.view + 4 ≤ d.viewSize ∧ inSpace (u.rc 8).cursor - d.view = 0 ∧ d.lost = false ∧ d.portsFor (d.viewIdxs 0 4) = [n] ∧
    u.cut (some (dieOf u.cur)) (portOfNum n) = false ∧ AMap.findD d.mq n [] = [] ∧ (∀ i ∈ d.viewIdxs 0 4, (d.part n i).spoilt = false) ∧
    u.overBase (u.rc 9) = [(0, d)] ∧ d.parts.map (·.1) = [n] :=
  ⟨ok_ex (by decide +kernel), by decide +kernel⟩

/-- A TCB at SRAM 0x800 with an executable, tagged ENTRY and every region allowed. -/
def tcb0 : List Byte := (capAt 2 0x1000).bytes ++ leBytes 16 0 ++ List.replicate 32 0xFF ++ List.replicate 64 0
def withT (f : Region → Region) (w0 w1 : Nat) : State :=
  { withV (fun g => f { g with pacer := { g.pacer with c := g.pacer.c.set 10 (capAt 2 0x800) } }) with
    mem := Memory.setBytes (if w1 = 0 then [] else Memory.setBytes [] 0x100 (leBytes 8 w0 ++ leBytes 8 w1)) 0x800 tcb0, tags := [0x80],
    live := if w1 = 0 then [] else [0x10] }
theorem meets_Triggers : let s := withT id 0 0; let u : State := { withT id (2 ^ 16) (3 * 2 ^ 56 + 9) with trigs := [{ key := 0x10, task := 9 }] }; let l := withT id 5 (3 * 2 ^ 56)
    (∃ x, (s.rc 10).checkHere 128 (permLoad + permStore) kindRead = .ok x) ∧ (∃ x, s.bindCheck (s.vd.getD 32) (s.rc 10) = .ok x ∧ (x.2 == none) = true) ∧
    (quiet s ∧ quiet u ∧ quiet l ∧ oneGranule s 1 1 (piece0 16) ∧ oneGranule u 1 1 (piece0 16)) ∧
    (s.blockBad 0x100 = false ∧ s.anyBad 0x100 16 = false ∧ s.anyBadMeta 0x100 16 = false ∧ (28 : XReg).toNat ≤ 28 ∧ s.liveAt 0x100 = false ∧
    (10 : CReg) ≠ 0 ∧ (s.rc 10).cursor.toNat % 128 = 0 ∧ s.tracked < taskLimit ∧ s.vd.getD 32 ≤ 32) ∧
    u.isTrigger 0x100 = true ∧ (1 : BitVec 5).toNat ≤ 1 ∧ (u.trigs.filter (fun x => x.key != 0x10)).length < u.trigs.length ∧ s.isTrigger 0x100 = false ∧
    l.isTrigger 0x100 = true ∧ (l.trigs.filter (fun x => x.key != 0x10)).length = l.trigs.length ∧ l.w0 0x100 % 2 ^ 16 = 5 ∧ s.unmasked :=
  ⟨ok_ex (by decide +kernel), ex_ok (by decide +kernel), by unfold quiet oneGranule; decide +kernel, by decide +kernel, by unfold State.unmasked; decide +kernel⟩

/-- A granule of another die whose bond has failed, and a barrier. -/
theorem meets_Triggers_late : let far := sramKey (32 * 2 ^ 24 + 0x100); let p : Piece := { key := far, va := BitVec.ofNat 64 (32 * 2 ^ 24 + 0x100), size := 16, cmpr := false }
    let s : State := { withT (fun g => { g with pacer := { g.pacer with c := g.pacer.c.set 1 (capAt 2 (32 * 2 ^ 24 + 0x100)) } }) 0 0 with deadDies := [1] }
    let b := objAt (2 ^ 32 + 3) (2 ^ 56)
    (quiet s ∧ oneGranule s 1 2 p ∧ quiet b ∧ oneGranule b 1 1 (piece0 16) ∧ reachable b (piece0 16)) ∧ s.portFault (some (dieOf s.cur)) (portOf far) = some 0xBD ∧
    b.blockBad 0x100 = false ∧ b.liveAt 0x100 = true ∧ b.isTrigger 0x100 = false :=
  ⟨by unfold quiet oneGranule reachable; decide +kernel, by decide +kernel⟩

/-! ### Tasks, heats, sequences, transfers -/

/-- A running task of virtual device 0 in region 0, with a gang of n. -/
def task0 (n : Nat) : Task :=
  { vd := 0, tcb := capAt 2 0x800, queue := some (5, 0), entry := capAt 2 0x1000, sched := BitVec.ofNat 64 (n * 256 + 9 * 2 ^ 32), affinity := BitVec.allOnes 256,
    args := [1, 2, 3, 4], c1 := Cap.null, c2 := Cap.null, st := .running, members := [0], retired := [], captured := [], saves := [], since := 0,
    halted := false, cancel := false, crossed := false, walked := false, fate := 0, fcause := 0, grace := none, runs := 0, unbind := false, ordinal := 0, tiles := 0, from_ := 0, left := [] }
def pacerK (p : Pacer) : Pacer :=
  { p with taskid := 9, x := p.x.set 9 9, c := ((p.c.set 10 (capAt 1 0xC00)).set 11 (capAt 3 0x8000)).set 12 (capAt 2 0xD00) }
/-- The machine with task 9 in region 0; HBM addresses of virtual device 0 are its own (one 16 GiB page). -/
def withK (t : Task) (f : Region → Region) : State :=
  let base := withV (fun g => f { g with task := some 9, pacer := pacerK g.pacer })
  { base with tasks := [(9, t)], mem := Memory.set (Memory.set [] 0xC00 1) (hbmKey 0x100000) 0x37 }
def queue0 (kind : Nat) (pend : List Pkt) : Queue :=
  { vd := 0, kind := kind, log2n := 0, bte := 0, desc := 0x8000, ring := 0x9000, capt := 0xA000, stall := 16, state := .run, seqAt := 0, r := 0, waitFrom := none,
    heldStall := false, used := false, destroying := [], pend := pend, seen := [] }
/-- Region 0 waits with k for one response of value v of queue 5's port, and TASK.SPAWN's queue is there. -/
def spawning0 (k : Cont) (v : Nat) : State :=
  { withK (task0 1) (fun g => { g with wait := .resp k [7] [] }) with
    queues := [(5, queue0 1 [])],
    resps := [{ stamp := 7, issuer := .pacer 0, va := 0, port := .chu 0, bytes := leBytes 8 v, flag := false, cause := none }] }
/-- TASK.SPAWN's packet, its queue and its claim; the claim's answers, a slot and none; the last write but one and the last. -/
theorem meets_Tasks_spawn : let s : State := { withK (task0 1) id with queues := [(5, queue0 1 [])] }; let pkt := List.replicate 64 (1 : Byte);
    (∃ x, s.access (s.rc 11) (s.rc 11).cursor.toNat 128 (permLoad + permStore + permAtomic) kindAtomic memSpaces .store = .ok x ∧
      ((s.queueAt ((x.2.head?.map (·.key)).getD 0)).map (·.1) == some 5) = true) ∧
    (∃ x, s.access (s.rc 10) (s.rc 10).cursor.toNat 64 permLoad kindRead recordSpaces .read = .ok x) ∧
    (∃ x, s.fetchData (s.rc 10) (s.rc 10).cursor.toNat 64 permLoad recordSpaces = .ok x ∧ (fieldLe x.2 0 1 == 1 && x.1.released 3) = true) ∧
    (s.rc 10).cursor.toNat % 64 = 0 ∧ (queue0 1 []).kind = 1 ∧ (queue0 1 []).state ≠ .dead ∧ s.vd = some 0 ∧
    (let r := spawning0 (.spawnClaim 4 5 pkt) 3;
      r.queue 5 = some (queue0 1 []) ∧ (r.region 0).wait = .resp (.spawnClaim 4 5 pkt) [7] [] ∧ (r.resps[0]?).map (fun q => (q.issuer, q.cause, q.stamp)) = some (.pacer 0, none, 7) ∧
      (r.resps[0]?).map (fun q => leNat (q.bytes.take 8)) = some 3 ∧ r.dropped.contains 7 = false ∧ (r.slotLoc (queue0 1 []) 3).isSome = true) ∧
    (let r := spawning0 (.spawnClaim 4 5 pkt) (2 ^ 64 - 1);
      (r.region 0).wait = .resp (.spawnClaim 4 5 pkt) [7] [] ∧ (r.resps[0]?).map (fun q => leNat (q.bytes.take 8)) = some (2 ^ 64 - 1)) ∧
    (let r := spawning0 (.spawnBody 4 3 5 pkt) 0; (r.region 0).wait = .resp (.spawnBody 4 3 5 pkt) [7] [] ∧ (r.slotLoc (queue0 1 []) (3 : Word).toNat).isSome = true) ∧
    ((spawning0 (.spawnLast 4 3) 0).region 0).wait = .resp (.spawnLast 4 3) [7] [] :=
  ⟨ex_ok (by decide +kernel), ok_ex (by decide +kernel), ex_ok (by decide +kernel), by decide +kernel⟩
/-- A running task after the fc of its dispatch and in it; tasks that are ready and frozen; one that cannot be cancelled; the last member of a gang and another. -/
theorem meets_Tasks : let s : State := withK (task0 1) id; let g2 := withK (task0 2) id
    s.vd = some 0 ∧ s.cancellable 0 (s.rx 9).toNat = true ∧ s.cancellable 0 (s.rx 1).toNat = false ∧ s.task 9 = some (task0 1) ∧ (task0 1).st = .running ∧
    (task0 1).fate = 0 ∧ (task0 1).cancel = false ∧ (task0 1).since < ({ s with now := 1 } : State).now ∧ s.now ≤ (task0 1).since ∧ (task0 1).queue ≠ none ∧
    (withK { task0 1 with st := .frozen, members := [] } id).cancellable 0 9 = true ∧ (withK { task0 1 with st := .ready, members := [] } id).cancellable 0 9 = true ∧
    s.reg.pacer.mode = false ∧ s.settled s.cur = true ∧ s.applied (task0 1) [s.cur] = true ∧ s.reg.pend = none ∧ s.cancelPending s.cur = false ∧ s.reg.task = some 9 ∧
    (task0 1).gang ≤ (task0 1).retired.length + 1 ∧ g2.task 9 = some (task0 2) ∧ (task0 2).retired.length + 1 < (task0 2).gang ∧
    ({ s with reqs := [reqOf (.write (plain [1]) .keep)] } : State).settled 0 = false ∧
    ({ s with reqs := [reqOf (.write (plain [1]) .waitEmpty)] } : State).applied (task0 1) [s.cur] = false ∧
    (let f := { task0 1 with st := .frozen, members := [], sched := 0x4100, left := [3] }; s.holdsBack f 7 = false ∧
      ({ s with reqs := [reqOf (.write (plain [1]) .waitEmpty)] } : State).holdsBack f 7 = true) ∧
    (withK (task0 1) (fun g => { g with pend := some { cause := 0x44, tval := 0, multi := false, elem := none } })).reg.pend ≠ none ∧
    sup0.reg.pacer.mode = true ∧ sup0.reg.pacer.mask = false := by decide +kernel

/-- An arm of the controller that has passed both of its tiles, with the task's cancel pending, and a store of the Pacer that has not reached its port. -/
theorem meets_ArmBoundary_cancel : let g0 := (armed0 (fun g => g.setSlot 0 { g.slot 0 with arm := (g.slot 0).arm.map (fun a => { a with done := 2, ends := [(0, 2)], tree := true }) })).region 0
    let s : State := { withK { task0 1 with cancel := true } (fun _ => { g0 with task := some 9 }) with reqs := [reqOf (.write (plain [1]) .keep)] }
    s.reg.frozen = false ∧ s.armOver s.cur 0 = true ∧ s.cancelPending s.cur = true ∧ (s.reg.slot 0).arm.any (·.tree) = true ∧ s.reg.task = some 9 ∧
    (s.task 9).map (fun w => (w.cancel, w.fate, w.members)) = some (true, 0, [0]) ∧ s.settled 0 = false := by decide +kernel

/-- Heat 0 of 2 siblings with quorum 1; sibling 0 is task 9; f changes the heat. -/
def heat0 (f : Heat → Heat) : Heat :=
  let x := mkHeat 0 0x102 (capAt 2 0xD00); f { x with sibs := [{ Sibling.empty with taskId := some 9 }, Sibling.empty] }
def withG (f : Heat → Heat) : State := { withK { task0 1 with sched := 0x901000000 } id with heats := [(0, heat0 f)] }
/-- A free heat id, no free one (a table of 256), bad operands; an open heat, a done one; each answer of a post; posts before and after a post; a release that
waits; a heat to account for. -/
theorem meets_HeatsAndBallots : let s := withG id; let full : State := { s with heats := (List.range 256).map (fun h => (h, heat0 id)) }
    heatOperandsOk 0x102 (capAt 2 0xD00) = true ∧ heatOperandsOk 0x4040 (capAt 2 0xD00) = true ∧ (s.heat 1 = none ∧ ∀ j < 1, s.heat j ≠ none) ∧
    full.heats.length = 256 ∧ (full.heat 255).isSome = true ∧ heatOperandsOk 0x101 (capAt 2 0xD00) = false ∧ s.unmasked ∧
    s.heatFor 0 = some (heat0 id) ∧ (withG (fun x => { x with done := true, st := .decided })).heatFor 0 = some (heat0 (fun x => { x with done := true, st := .decided })) ∧
    s.heatFor 256 = none ∧ s.reg.pacer.mode = false ∧ s.meSib = some (0, 0) ∧ s.heat 0 = some (heat0 id) ∧ ((heat0 id).sib 0).hash = none ∧ s.released 4 = true ∧ (heat0 id).postAt = none ∧
    (heat0 (fun x => { x with postAt := some (s.now, 1) })).postAt = some (s.now, 1) ∧
    ({ s with reqs := [reqOf (.write (plain [1]) .keep)] } : State).released 4 = false ∧
    ((heat0 (fun x => x.setSib 0 { x.sib 0 with hash := some 5 })).sib 0).hash ≠ none ∧ (heat0 (fun x => { x with table := List.replicate 16 (1, 1, 0) })).table.length = 16 ∧
    (4 : XReg).getLsbD 0 = false ∧ (5 : XReg).getLsbD 0 = true ∧ s.cancelPending s.cur = false ∧
    (heat0 (fun x => { x with st := .decided, sibs := [Sibling.empty, { Sibling.empty with taskId := some 9, final := true }] })).accountable = true ∧
    (heat0 id).accountable = false := by unfold State.unmasked; decide +kernel

/-- An empty SQD at SRAM 0x2000 (global space) with room for 4 blocks, its pool of 4 blocks at 0x2100, KVDT at 0x2200 and the free ring at 0x2300; 65 token ids at
0x3000. st: its STATE, NBLK and LEN. -/
def withS (st nblk len : Nat) (index : List IdxNode) : State :=
  let sqd := (capAt 2 0x2100).bytes ++ leBytes 4 len ++ leBytes 4 0 ++ leBytes 4 nblk ++ leBytes 4 4 ++ leBytes 4 st ++ leBytes 4 0 ++ leBytes 4 3 ++ List.replicate 20 0
  let pool := leBytes 4 4 ++ leBytes 4 2048 ++ leBytes 8 0x2200 ++ List.replicate 24 0 ++ leBytes 8 0x2300 ++ List.replicate 16 0
  { withK (task0 1) (fun g => { g with pacer := { g.pacer with c := (g.pacer.c.set 13 (capAt 2 0x2000)).set 14 { capAt 2 0x3000 with boff := 0, len := 260 }, x := g.pacer.x.set 7 0 } }) with
    mem := Memory.setBytes (Memory.setBytes (Memory.setBytes (Memory.setBytes [] 0x2000 sqd) 0x2100 pool) 0x2200 (leBytes 8 1 ++ List.replicate 8 0xFF)) 0x3000 (leBytes 4 1),
    tags := [0x200], index := index }
def path0 : List (BitVec 32) := 1 :: List.replicate 63 0
def node1 : IdxNode := { vd := 0, pool := capAt 2 0x2100, model := 3, path := path0, block := 0, used := 0 }
/-- An admission that matches one block; a release that publishes it, and one that publishes nothing; positions 0, beyond the end, and not kept. -/
theorem meets_Sequences : let s := withS 0 0 0 [node1]; let u := withS 1 1 64 []; let c := s.rc 13; let tc := s.rc 14
    (∃ x, s.access c c.cursor.toNat 64 (permLoad + permStore) kindRead memSpaces .read = .ok x) ∧
    (∃ q, s.readSqd 0 c = .ok q ∧ (!q.bad && q.st == 0 && (match s.readPool 0 q.pool with
      | .ok p => (let hit := s.matched 0 q path0 1 0; hit.length == 1 && match s.admitSeq 0 q p (hit.map (·.block)) none with | .ok _ => true | .error _ => false)
      | .error _ => false)) = true) ∧
    (∃ x, s.fetchData tc tc.cursor.toNat (4 * 65) permLoad recordSpaces = .ok x ∧ ((tokenIds x.2 65).take 64 == path0) = true) ∧
    (∃ q, u.readSqd 0 c = .ok q ∧ (!q.bad && q.st == 1 && q.nblk == 1 && (match u.readPool 0 q.pool with
      | .ok p => (let x := u.publish 0 q p path0 1 0 { count := 0, first := none }
        x.2.count == 1 && x.2.first == none && (x.1.walkBlocks 2 0 q p 1 0 { freed := 0, fault := false, first := none }).2.first == none &&
          (u.walkBlocks 2 0 q p 1 0 { freed := 0, fault := false, first := none }).2.first == none)
      | .error _ => false)) = true) ∧
    (∃ r, u.kvSlot 0 c 0 = .ok r) ∧ (∃ r, u.kvSlot 0 c 64 = .ok r) ∧
    s.reqs = [] ∧ c.cursor.toNat % 64 = 0 ∧ s.reg.pacer.mode = false ∧ s.meSib = none ∧ tc.top = tc.cursor.toNat + 4 * 65 ∧
    tc.checkRaw tc.cursor.toNat (4 * 65) permLoad kindRead = none ∧ (u.rx 7) = 0 :=
  ⟨ok_ex (by decide +kernel), ex_ok (by decide +kernel), ex_ok (by decide +kernel), ex_ok (by decide +kernel), ok_ex (by decide +kernel), ok_ex (by decide +kernel), by decide +kernel⟩

/-- Capability descriptors at SRAM 0x2000: a BTE copy (or fill) of 512 bytes from 0x4000 to 0x5000 with its object at 0, and a BANK.MV of one row of 16 BF16
weights. -/
def bteDesc (mode : Nat) : List Byte :=
  (capAt 2 0x4000).bytes ++ (capAt 2 0x5000).bytes ++ (capAt 2 0).bytes ++ leBytes 8 mode ++ leBytes 8 512 ++ List.replicate 64 0
def bankDesc : List Byte :=
  (capAt 3 0).bytes ++ (capAt 2 0x4000).bytes ++ (capAt 2 0x5000).bytes ++ (capAt 2 0).bytes ++ (capAt 2 0x6000).bytes ++ leBytes 8 0x20010 ++ leBytes 8 0x100000000 ++ List.replicate 32 0
def withB (bs : List Byte) (btes : AMap Bte) : State :=
  let base := withV (fun g => { g with pacer := { g.pacer with c := (g.pacer.c.set 10 (capAt 1 0x2000)).set 11 (capAt 2 0) } })
  { base with mem := Memory.setBytes [] 0x2000 bs, tags := [0x200, 0x201, 0x202, 0x203, 0x204], btes := btes }
def cmd0 (mode : Nat) : Bte :=
  match (withB (bteDesc mode) []).descriptor (capAt 1 0x2000) with
  | .ok (s1, bs, tags) => { directBte s1 0 bs tags none with started := true }
  | .error _ => directBte (withB [] []) 0 [] [] none
def bank0 : Bank := bankOf (withB bankDesc []) bankDesc [true, true, true, true, true, false, false, false] none
/-- Command 0, with its two chunks as given; chunk 0 in flight in a phase, with one read of stamp 3 and one write of stamp 4, and the response to one of them. -/
def moving0 (f : Bte → Bte) : State := withB (bteDesc 0) [(0, f (cmd0 0))]
def phase0 (p : ChunkPhase) (b : Bte) : Bte := { b with todo := [], flight := [(0, { phase := p, reads := [3], got := [], writes := [4], cause := none })] }
def answered0 (p : ChunkPhase) (stamp : Nat) : State :=
  { moving0 (phase0 p) with resps := [{ stamp := stamp, issuer := .bte 0 0, va := 0x4000, port := .bank 0 0, bytes := List.replicate 256 1, flag := true, cause := none }] }
/-- A valid descriptor of each kind, a queue with room and a full one; a mask whose bits are set and one whose bits are not; bit 4095. -/
theorem meets_EngineWork : let s := withB (bteDesc 0) []; let c := s.rc 10; let k := withB bankDesc []; let o := s.rc 11
    let full := withB (bteDesc 0) ((List.range 8).map (fun i => (i, cmd0 0)))
    (∃ x, s.descriptor c = .ok x ∧ (let cmd := directBte x.1 63 x.2.1 x.2.2 none; let cmpl := descCap x.2.1 x.2.2 2
      directOk x.2.1 cmd cmpl && spanFault (directSpans cmd cmpl) == none && !x.1.directFull 63) = true) ∧
    (∃ x, full.descriptor c = .ok x ∧ (directOk x.2.1 (directBte x.1 0 x.2.1 x.2.2 none) (descCap x.2.1 x.2.2 2) && x.1.directFull 0) = true) ∧
    (∃ x, k.descriptor c = .ok x ∧ (let m := bankOf x.1 x.2.1 x.2.2 none; let cmpl := descCap x.2.1 x.2.2 3
      bankZeros x.2.1 m cmpl && bankShape m && spanFault (bankSpans m cmpl) == none) = true) ∧
    (∃ x, s.fetchData o o.cursor.toNat 8 permLoad memSpaces = .ok x ∧
      ((BitVec.ofNat 64 (leNat x.2) &&& s.rx 0 == s.rx 0) && !(BitVec.ofNat 64 (leNat x.2) &&& s.rx 1 == s.rx 1) &&
        match x.1.fetchData o (o.base.toNat + 0x200) 8 permLoad memSpaces with | .ok y => leNat y.2 == 0 | .error _ => false) = true) ∧
    (∃ x, s.fetchData o (o.base.toNat + 4095 / 8) 1 permLoad memSpaces = .ok x) ∧
    qualOk 0 0 [0, 2] = true ∧ qualOk 4 2 [0, 2] = true ∧ c.cursor.toNat % 64 = 0 ∧ o.cursor.toNat % 8 = 0 ∧ objRead o = none ∧ o.base ≤ o.cursor.toNat ∧
    (o.cursor.toNat : Int) ≤ o.base + 0x1F8 :=
  ⟨ex_ok (by decide +kernel), ex_ok (by decide +kernel), ex_ok (by decide +kernel), ex_ok (by decide +kernel), ok_ex (by decide +kernel), by decide +kernel⟩
/-- An object whose first granule is uncorrectable. -/
theorem meets_EngineWork_late : let s : State := { withB (bteDesc 0) [] with bad := [0] }; let o := s.rc 11; let p := fun (n : Nat) => ({ key := 0, va := 0, size := n, cmpr := false } : Piece)
    objRead o = none ∧ o.cursor.toNat % 8 = 0 ∧ o.base ≤ o.cursor.toNat ∧ (o.cursor.toNat : Int) ≤ o.base + 0x1F8 ∧
    okIs (s.access o o.cursor.toNat 8 permLoad kindRead memSpaces .read) (2, [p 8]) = true ∧
    okIs (s.access o (o.base.toNat + (s.rx 1).toNat / 8) 1 permLoad kindRead memSpaces .read) (2, [p 1]) = true ∧
    (match s.fetchData o o.cursor.toNat 8 permLoad memSpaces with | .ok _ => false | .error f => f == 0x30) = true ∧
    (match s.fetchData o (o.base.toNat + (s.rx 1).toNat / 8) 1 permLoad memSpaces with | .ok _ => false | .error f => f == 0x30) = true := by decide +kernel
/-- A descriptor whose first granule is uncorrectable. -/
theorem meets_EngineWork_descriptor : let s : State := { withB (bteDesc 0) [] with bad := [0x200] }; let c := s.rc 10; let a := c.cursor.toNat
    (∃ x, s.access c a 128 permLoad kindRead memSpaces .read = .ok x ∧ ((s.flushFor x.2).foundAt x.2 0x30).isSome = true) ∧ a % 64 = 0 ∧
    (match s.descriptor c with | .ok _ => false | .error f => f == 0x30) = true :=
  ⟨ex_ok (by decide +kernel), by decide +kernel⟩
/-- Chunk 0 of a started copy, and of a started fill, in its queue's turn. -/
theorem meets_EngineWork_start : ∀ m ∈ [0, 2], let s := withB (bteDesc m) [(0, cmd0 m)]; let x := cmd0 m
    AMap.find s.btes 0 = some x ∧ x.mode = m ∧ x.started = true ∧ s.bteRuns x = true ∧ 0 ∈ x.todo ∧ s.bteTurn x.bte = some x.key ∧ s.objKey x 0 1 ≠ none ∧
      s.objKey x 0x200 16 ≠ none ∧ x.overlaps = false ∧
      okSat (s.btePieces x x.dst (x.row 0 * x.dstride + x.col 0) (x.len 0) permStore kindWrite x.spaces .store) (fun _ => true) = true ∧
      okSat (s.btePieces x x.src (x.row 0 * x.sstride + x.col 0) (x.len 0) permLoad kindRead x.spaces .read) (fun _ => true) = true := by decide +kernel
/-- The last response of a chunk that reads, writes and sets its bit; a command with no chunk left, of a region, of a queue's packet with no chunk failed, and
with two. -/
theorem meets_EngineWork_moves : let r := answered0 .reading 3; let w := answered0 .writing 4; let b := answered0 .bit 4; let x := phase0 .reading (cmd0 0)
    (∀ s ∈ [r, w, b], (s.resps[0]?).map (fun q => (q.issuer, q.cause)) = some (.bte 0 0, none) ∧ s.dropped.contains 3 = false ∧ s.dropped.contains 4 = false) ∧
    AMap.find r.btes 0 = some x ∧ AMap.find w.btes 0 = some (phase0 .writing (cmd0 0)) ∧ AMap.find b.btes 0 = some (phase0 .bit (cmd0 0)) ∧ x.started = true ∧ r.bteRuns x = true ∧
    (AMap.find x.flight 0).map (fun c => (c.reads.length, c.writes, c.cause)) = some (1, [4], none) ∧
    okSat (r.btePieces x x.dst (x.row 0 * x.dstride + x.col 0) (x.len 0) permStore kindWrite x.spaces .store) (fun _ => true) = true ∧
    (w.objKey (phase0 .writing (cmd0 0)) ((x.firstbit + 0) / 8) 1).isSome = true ∧ AMap.del x.flight 0 = [] ∧
    AMap.del (AMap.put x.flight 1 { phase := .reading, reads := [], got := [], writes := [], cause := none }) 0 ≠ [] ∧
    (let y := { cmd0 0 with todo := [], flight := [] }; let q := { cmd0 0 with todo := [], flight := [], queue := some (6, 2) }; let p := { seq := 2, bytes := [], caps := [], taskId := 0, started := true : Pkt }
      y.queue = none ∧ q.queue = some (6, 2) ∧ q.failed = [] ∧ (queue0 2 [p]).pend = [p] ∧ (queue0 2 [p]).destroying = [] ∧
      ({ q with failed := [(1, 0x68), (0, 0x69)] } : Bte).failed = [(1, 0x68), (0, 0x69)]) := by decide +kernel
def half0 (f : Bank → Bank) : State := { withB bankDesc [] with banks := [(3, f { bank0 with vals := [(0, 0)] })] }
/-- A half whose one row is done: it may write; its row has failed; its output's one granule; the end of its output, its bit and its barrier. -/
theorem meets_EngineWork_halves : let s := half0 id; let m := { bank0 with vals := [(0, 0)] }; let v : State := { s with cur := m.region }
    (∃ ws, v.bankWrites m = .ok ws ∧ (ws.length == 1 && !s.liveAt ((ws.getD 0 (0, false, [])).1) && s.queues.isEmpty) = true) ∧
    (∃ u, v.bankBit m = .ok u) ∧ okSat (({ v with bad := [0] } : State).bankBit m) (fun _ => true) = false ∧ errIs (v.bankWrites { bank0 with fails := [(0, 0x15)] }) 0x15 = true ∧
    s.banks.find? (fun p => p.2.vals.length + p.2.fails.length == p.2.count) = some (3, m) ∧ m.put = none ∧
    (let f := { bank0 with fails := [(0, 0x15)] }; (half0 (fun _ => f)).banks.find? (fun p => p.2.vals.length + p.2.fails.length == p.2.count) = some (3, f)) ∧
    ({ s with live := [0x10] } : State).liveAt 0x100 = true ∧
    Memory.wf s.mem = true ∧ s.queues = [] :=
  ⟨ex_ok (by decide +kernel), ok_ex (by decide +kernel), by decide +kernel⟩

/-! ### The privileged group, events of a region, the Marshal -/

/-- Supervisor mode in region 8, which no virtual device owns; X5 names region 0 (and virtual device 0), X6 SRAM 0x100000. Region 0 and its task are as given. -/
def sup8 (g0 : Region) (ts : AMap Task) (d : Vd) : State :=
  let p := { pacer0 with mode := true, x := ((pacer0.x.set 5 0).set 6 0x100000).set 7 8 }
  let s := State.reset.setRegion 8 { Region.reset with pacer := p, run := .on }
  { s.setRegion 0 g0 with mgc := { State.reset.mgc with boot := .ready }, cur := 8, vds := [(0, d)], tasks := ts }
def stopped0 : Region := { Region.reset with pacer := { pacer0 with taskid := 9 }, run := .stopped, task := some 9 }
def frozen0 : AMap Task := [(9, { task0 1 with st := .frozen, members := [] })]
/-- A TLBI of region 8 with a request from before it on its way. -/
def carried0 (s : State) : Bool :=
  let u := { s with stamp := 4, invals := [{ region := 8, vd := 0, range := none, stamp := some 4 }], reqs := [{ reqOf (.read 8) with port := .chu 0, key := hbmKey 0 }] }
  !u.storing && u.syncFrom.syncWaits
/-- Region 0 idle, with a save area at SRAM 0x100000 by the layout of R132: magic, version 1, task 9, virtual device 0, an empty image. -/
def saved0 : State :=
  { sup8 { Region.reset with run := .off } frozen0 vd0 with mem := Memory.setBytes [] 0x100000 (leBytes 4 0xC75A0E01 ++ leBytes 4 1 ++ leBytes 4 9) }
/-- A TLBI of a range and of everything; an operand with a bit that must be zero; VD.DIRTY of 8 pages into one byte; a request that may carry an invalidated
translation and none; virtual devices that run, are stopped, are stopping and do not exist; a region to save and an area to restore. -/
theorem meets_PrivilegedGroup : let s := sup8 stopped0 [(9, task0 1)] vd0; let p : Piece := { key := sramKey (8 * 2 ^ 24 + 0x100), va := 0x100, size := 1, cmpr := false }
    (∃ u, s.capture 0 0x100000 = .ok u) ∧ (∃ u, saved0.restore 0 0x100000 = .ok u) ∧ (quiet s ∧ reachable s p) ∧
    (s.reg.pacer.mode = true ∧ s.reg.pacer.mask = false ∧ vaOperand (s.rx 5) = some (0, 0) ∧ (vaOperand 0x20).isNone = true ∧ 1 ≤ (s.rx 7).toNat ∧ (s.rx 7).toNat ≤ 65536 ∧
      AMap.find s.vds 0 ≠ none ∧ s.access (s.rc 1) (s.rc 1).cursor.toNat (((s.rx 7).toNat + 7) / 8) permStore kindWrite [1, 2, 3, 4, 5] .store = .ok (1, [p]) ∧
      s.refuses p.key (plain (packBits (s.dirtyBits 0 8 0).1)) false 1 = none ∧
      carried0 s = true ∧ s.storing = false ∧ s.syncFrom.syncWaits = false ∧
      ({ s with reqs := [{ reqOf (.write (plain [1]) .keep) with issuer := .pacer 8 }] } : State).storing = true) ∧
    s.vd ≠ some 0 ∧ AMap.find s.vds 0 = some vd0 ∧ vd0.stopped = false ∧ (sup8 stopped0 [(9, task0 1)] { vd0 with stopped := true }).vdStopDone 0 = false ∧
    (sup8 stopped0 [] { vd0 with stopped := true }).vdStopDone 0 = true ∧ (sup8 stopped0 [] { vd0 with groups := 2 }).vd = some 0 ∧ AMap.find s.vds 8 = none ∧
    (s.rx 6).toNat % 2 ^ 20 = 0 ∧ s.stoppedAt 0 = true ∧ Memory.wf s.mem = true ∧ s.decls = [] ∧
    (0 : Nat) ≠ s.cur ∧ (s.rx 7).toNat % 256 = s.cur ∧ (s.rx 1).toNat % 2 ^ 20 ≠ 0 ∧ (saved0.region 0).idle = true :=
  ⟨ok_ex (by decide +kernel), ok_ex (by decide +kernel), by unfold quiet reachable; decide +kernel, by decide +kernel, by decide +kernel⟩

/-- A WFE of X1 = 5 at 0x1000 with its wait begun at 0 and 5 fc passed; SNAP.WAIT likewise; a pending fault; a fetch of zeros, and one from a misaligned PC. -/
def wait0 (word : Nat) (now : Nat) (f : Region → Region) : State :=
  { with0 f with mem := Memory.setBytes [] 0x1000 (leBytes 4 word), now := now }
theorem meets_RegionEvents : let s := wait0 0xF0810005 5 (fun g => { g with wait := .wfe 0 }); let u := wait0 0xC0810019 5 (fun g => { g with wait := .snap 0, snap := { Snap.empty with status := .pending } })
    let f : Pend := { cause := 0x44, tval := 0, multi := true, elem := none };
    (∃ x, s.fetch = .ok x ∧ (x.2 == .wfe 4 1) = true) ∧ (∃ x, u.fetch = .ok x ∧ (x.2 == .snapWait 4 1 0) = true) ∧
    (∃ e, (with0 id).fetch = .error e) ∧ (∃ x, (wait0 0xF0810005 5 id).fetch = .ok x) ∧ (with0 id).unmasked ∧
    s.reg.wait = .wfe 0 ∧ s.reg.pacer.ev = 0 ∧ s.rx 1 ≠ 0 ∧ (s.rx 1).toNat ≤ s.cyc - 0 ∧
    u.reg.wait = .snap 0 ∧ u.reg.snap.status = .pending ∧ (u.rx 1).toNat ≤ u.cyc - 0 ∧ (with0 id).reg.wait = .none ∧
    (loaded0 0 [] id).reg.insts.find? (fun i => 2 < i.elems.length) = some (inst0 0 []) ∧ (with0 id).reg.insts.find? (fun i => 0 < i.elems.length) = none ∧
    (with0 id).reg.run = .on ∧ (with0 (fun g => { g with run := .off })).reg.run ≠ .on ∧ (withP (fun p => { p with pcc := capAt 1 0x1002 })).pc.toNat % 4 ≠ 0 ∧
    (with0 (fun g => { g with pend := some f })).reg.pend = some f ∧ (with0 id).reg.pend = none :=
  ⟨ex_ok (by decide +kernel), ex_ok (by decide +kernel), ⟨_, rfl⟩, ok_ex (by decide +kernel), .inl (by decide +kernel), by decide +kernel⟩
theorem none_waits : (∀ start, (with0 id).reg.wait ≠ .wfe start) ∧ ∀ start, (with0 id).reg.wait ≠ .snap start :=
  ⟨fun _ => nofun, fun _ => nofun⟩

/-- A READY task with an idle region; one that waits behind a running task of lower priority; a stop before and at its boundary, and after it; a cancel that has
waited 2^14 fc, and one that its heat's grace ends. -/
def readyTask (p : Nat) : Task := { task0 1 with st := .ready, members := [], sched := BitVec.ofNat 64 (p + 256 + 10 * 2 ^ 32), affinity := BitVec.ofNat 256 (2 ^ 256 - 1) }
def vdReady (p : Nat) : Vd := { vd0 with ready := (List.replicate 8 []).set p [10] }
def ready0 (p : Nat) (f : Region → Region) : State := { with0 f with vds := [(0, vdReady p)], tasks := [(10, readyTask p)] }
def lowTask : Task := { task0 1 with sched := BitVec.ofNat 64 (7 + 256 + 9 * 2 ^ 32) }
def busy0 : State := { with0 (fun g => { g with task := some 9 }) with vds := [(0, vdReady 0)], tasks := [(9, lowTask), (10, { readyTask 0 with affinity := 1 })], now := 10000000 }
def stopping0 (run : Run) (c : Byte) : State :=
  withK (task0 1) (fun g => { g with run := run, stop := some c, pacer := { g.pacer with savebase := 0x100000 } })
theorem list_ready : ∀ j, j ≠ 7 → (vdReady 7).list j = [] := fun j h => by
  rcases Nat.lt_or_ge j 8 with hj | hj
  · revert h; exact (by decide +kernel : ∀ j < 8, j ≠ 7 → (vdReady 7).list j = []) j hj
  · simp [Vd.list, vdReady, hj]
theorem meets_MarshalDecides : let s := ready0 7 (fun g => { g with run := .off }); let u := readyTask 7; let d := vdReady 7; let b := busy0; let x := stopping0 .on 0xA0; let y := stopping0 .stopped 0xA0
    let c := withK { task0 1 with cancel := true } (fun g => { g with cancelAt := some 0 }); let z : State := { y with reqs := [reqOf (.write (plain [1]) .keep)] };
    (∀ j, j ≠ 7 → d.list j = []) ∧ (∃ v, y.capture 0 0x100000 = .ok v) ∧
    (s.vds = [(0, d)] ∧ d.stopped = false ∧ d.hold = none ∧ d.pre = [] ∧ d.ready.length = 8 ∧ d.list 7 = [10] ∧ s.task 10 = some u ∧ u.vd = 0 ∧
      u.st = .ready ∧ u.queue ≠ none ∧ u.cancel = false ∧ u.gang = 1 ∧ s.idleFor 10 u = [0] ∧ s.clearBad.contains 0 = false ∧ s.decidedAt ≠ some s.now ∧
      s.cancelledAt ≠ some s.now ∧ (with0 id).vds = [] ∧ ({ s with decidedAt := some 0 } : State).decidedAt = some s.now) ∧
    b.vds.findSome? (fun p => if p.2.stopped then none else (b.preemption p.2).map (fun x => (p.1, x))) = some (0, 10, 9) ∧ b.task 9 = some lowTask ∧
    (∀ p ∈ s.vds, p.2.stopped = true ∨ s.preemption p.2 = none) ∧ (with0 id).reg.stop = none ∧
    (x.reg.stop = some 0xA0 ∧ x.reg.task = some 9 ∧ x.task 9 = some (task0 1) ∧ (task0 1).fate = 0 ∧ x.faultDue = false ∧ x.reg.run = .on ∧ x.mayAbandon x.cur = true) ∧
    (let w := withK (task0 1) (fun g => { g with stop := some 0xA0, wait := .resp (.toX 4 8 false) [7] [], pend := some { cause := 0x44, tval := 0, multi := false, elem := none } });
      w.faultDue = false ∧ w.reg.run = .on ∧ w.reg.pend.isSome = true ∧ w.mayAbandon w.cur = true ∧ (w.abandon w.cur).faultDue = true) ∧
    y.reg.run = .stopped ∧ y.reg.wait = .none ∧ y.settled y.cur = true ∧ (task0 1).cancel = false ∧ (task0 1).members = [y.cur] ∧ (task0 1).captured = [] ∧ z.settled z.cur = false ∧
    c.reg.task = some 9 ∧ (c.task 9).map (·.cancel) = some true ∧ ({ c with now := 16384 } : State).cancelAged 16384 = true ∧ ({ c with now := 5 } : State).cancelAged 5 = true ∧
    (with0 id).reg.task = none :=
  ⟨list_ready, ok_ex (by decide +kernel), by decide +kernel, by decide +kernel⟩

/-! ### The ordering machine's own steps, the host, and the links -/

def reqAt (st : Stage) (p : Port) (act : Act) : Req := { reqOf act with stage := st, port := p }
def win0 : Window := { n := 1, ranks := [((0, 0), 0)], op := 0, fmt := 0, rmode := 0, elems := 4, home := 0x1000, completion := 0x2000 }
def declQ (m : List Maint) : Decl := { decl0 with mq := [(portNum (.bank 0 0), m)] }
/-- A request at each level; inbound ones with nothing and with something before them; a rescan and a read at a declaration; a window with and without its
contribution; a write at the host port. -/
theorem meets_OrderingMoves :
    (∀ p ∈ [(Level.cq, Stage.cq 0 0 0), (.cq, .cq 0 ((128 * 7 + 79) / 128) ((128 * 7 + 79) % 128)), (Level.rq, Stage.rq 0), (Level.dq, Stage.dq 0)], ({ with0 id with reqs := [reqAt p.2 (.bank 0 0) (.read 8)] } : State).reqs.find? (fun q => q.stage == p.2 && q.port == .bank 0 0) =
      some (reqAt p.2 (.bank 0 0) (.read 8))) ∧
    (∀ st ∈ [Stage.inPeer 1, .inHost 1], ({ with0 id with reqs := [reqAt st (.bank 0 0) (.read 8)] } : State).reqs.find? (fun q => q.stage == st) = some (reqAt st (.bank 0 0) (.read 8))) ∧
    (∃ e ∈ [{ reqOf (.read 8) with issuer := .peer 1 }], e.stage = .pq ∧ e.issuer = .peer 1) ∧
    (∃ e ∈ [{ reqOf (.read 8) with issuer := .host 1, posted := true }], e.stage = .pq ∧ e.issuer = .host 1 ∧ e.posted = true) ∧
    (AMap.findD (declQ [.rescan 0]).mq (portNum (.bank 0 0)) [] = [.rescan 0]) ∧
    (AMap.findD (declQ [.reply 3 (.pacer 0) 0 (.bank 0 0) [0]]).mq (portNum (.bank 0 0)) [] = [.reply 3 (.pacer 0) 0 (.bank 0 0) [0]]) ∧
    (((declQ []).part (portNum (.bank 0 0)) 0).spoilt = false) ∧ AMap.find ({ with0 id with windows := [(2, win0)] } : State).windows 2 = some win0 ∧ 0 < win0.n ∧
    (∀ c ∈ (List.range win0.n).map (fun r => ({ with0 id with reqs := [reqAt (.rp 2) (.rwin 2) (.wred 0 0 5)] } : State).contribution 2 0 r), c ≠ none) ∧
    (∃ c ∈ (List.range win0.n).map (fun r => (with0 id).contribution 2 0 r), c = none) ∧
    (let q := { reqAt .pq .host (.write (plain [1, 2]) .keep) with key := hostKey 0x100 }; let s : State := { with0 id with reqs := [q], isaudUp := true }
      s.hostWrite = none ∧ s.reqs.find? (fun q => q.stage == .pq && q.port == .host) = some q ∧ Memory.wf s.mem = true ∧ s.linkFault q = none ∧
      (s.dropReq q).refuses q.key (plain [1, 2]) q.cmpr 1 = none) ∧
    (with0 id).hostWrite = none ∧ (with0 id).reqs.find? (fun q => q.stage == .pq && q.port == .host) = none := by decide +kernel

/-- Aperture accesses that may be issued, one of 2 bytes across a boundary that may not, and addresses of a virtual device with and without a mapping. -/
theorem meets_HostRequests : let s : State := { withK (task0 1) id with isaudUp := true }; let u : State := { with0 id with isaudUp := true, vds := [(0, { vd0 with ptRoot := 0x200000 })] }
    s.hostWrite = none ∧ s.hostMay 0x40 8 = true ∧ s.hostMay 0xFF 2 = false ∧ s.hostMay 0x40 257 = false ∧ s.hostMay 0x40 256 = false ∧ s.hostMay 0 256 = true ∧ (with0 id).hostMay 0x40 8 = false ∧
    (s.hostPlaces .sup 0x40 8 .read).isSome = true ∧ (s.hostPlaces (.vd 0) 0x4000 8 .store).isSome = true ∧ (s.hostPlaces (.vd 0) 0x4000 8 .read).isSome = true ∧
    (u.hostPlaces (.vd 0) 0x4000 8 .read).isNone = true ∧ (u.hostPlaces (.vd 0) 0x4000 8 .store).isNone = true ∧ s.isaudUp = true ∧ (0x44 : Nat) % 8 ≠ 0 ∧
    (0x40 : Nat) % 8 = 0 ∧ (0x44 : Nat) % 4 = 0 ∧ (with0 id).isaudUp = false ∧
    (let h : HostOp := { thread := 1, ids := [3], got := [], ok := true }; h.complete = false ∧ ({ s with hostOps := [h] } : State).hostOps.find? (fun o => o.thread == 1) = some h ∧
      ∀ o ∈ s.hostOps, o.thread ≠ 1) := by decide +kernel

/-- A host link that is up and one that is down; both Celcen ports up, and one down; a peer with a path and one without; a request 2^22 fc old. -/
theorem meets_LinkEvents : let s := withK (task0 1) id; let u : State := { s with isaudUp := true, comm := { Comm.reset with paths := [(1, false)] } }
    let q := { reqAt .pq .host (.read 8) with key := hostKey 0x100 }; let t : State := { s with reqs := [q], now := 2 ^ 22 }
    u.isaudUp = true ∧ s.isaudUp = false ∧ s.mgc.boot ≠ .power ∧ State.reset.mgc.boot = .power ∧ s.celcen0Up = true ∧ s.celcen1Up = true ∧
    ({ s with celcen0Up := false } : State).celcen0Up = false ∧ u.peerPath 1 = some false ∧ s.peerPath 1 = none ∧
    t.reqs.find? (fun q => q.port == .host && q.issuer.here && t.now - q.born ≥ 2 ^ 22) = some q ∧ (q.issuer.here && decide (({ t with now := 2 ^ 22 - 1 } : State).now - q.born ≥ 2 ^ 22)) = false ∧
    u.formedPath (.peer 1) = some false ∧ u.drains false u.stamp = false ∧ ({ u with reqs := [reqAt .pq (.peer 1) (.read 8)] } : State).drains false 4 = true ∧
    ({ s with celcen0Up := false, celcen1Up := false } : State).celcen1Up = false ∧ ({ u with deadPeers := [1] } : State).deadPeers.contains 1 = true ∧
    s.deadDies.contains 1 = false ∧ ({ s with deadDies := [1] } : State).deadDies.contains 1 = true ∧ s.comm.treeUp = false ∧ withW.comm.treeUp = true ∧
    u.deadPeers.contains 1 = false ∧ pieces 0x4000 8 = [(0x4000, 8)] ∧ ([1, 2].map (fun (w : Nat) => w)).Nodup := by decide +kernel
/-- A peer's address that translates: the peer's virtual device has a page of 16 GiB. -/
theorem meets_LinkEvents_peer : ∃ s : State, ∃ x, s.translate (some (Config.peerVd 1)) 0x4000 .read 0x34 = .ok x :=
  ⟨{ withK (task0 1) id with vds := [(Config.peerVd 1, vd0)] }, by
    have : AMap.find [(Config.peerVd 1, vd0)] (Config.peerVd 1) = some vd0 := by simp [AMap.find]
    refine ⟨(0x4000, false), ?_⟩
    simp only [State.translate, this]
    rfl⟩

/-! ### Queues, packets and virtual devices -/

def pktOf (ws : List Nat) : List Byte := ws.flatMap (leBytes 8)
/-- The machine of withK with queue 5 at HBM 0x8000, WIDX 1, the given slot 0, and the journal on. -/
def withQ (kind : Nat) (pend : List Pkt) (slot : List Byte) : State :=
  { withK (task0 1) id with
    queues := [(5, queue0 kind pend)], jnl := { State.reset.jnl with en := true }, isaudUp := true,
    mem := Memory.setBytes (Memory.setBytes (Memory.set [] (hbmKey 0x100000) 0x37) (hbmKey 0x8000) (leBytes 8 1)) (hbmKey 0x9000) slot }
def slotOf (opc w1 : Nat) : List Byte := pktOf [opc, w1, 0, 0, 0, 0, 0, 2 ^ 63]
/-- The granules of a slot, in the order in which the consumer reads them. -/
def seen0 (bs : List Byte) (n : Nat) : List (List Byte) := ([bs.drop 48, bs.take 16, (bs.drop 16).take 16, (bs.drop 32).take 16]).take n
/-- A slot with a CANCEL, with its first granule still to read, some read, and all; a packet with an operation of another kind; no room in the journal; a
stopped queue; a slot whose PHASE is not current; a stall with room for its entry and without. -/
theorem meets_QueueConsumers : let s := withQ 1 [] (slotOf 2 9); let q := queue0 1 []; let u := withQ 1 [] (slotOf 0x10 9); let e := withQ 1 [] []
    let r := fun (n : Nat) => { q with seen := seen0 (slotOf 2 9) n }; let j : State := { s with jnl := { s.jnl with wr := 4096 } }
    (s.queue 5 = some q ∧ s.consuming q = true ∧ q.r < s.widx q ∧ q.seen = [] ∧ s.slotLast q = some ((slotOf 2 9).drop 48)) ∧
    (∀ n ∈ [1, 2], (s.putQueue 5 (r n)).consuming (r n) = true ∧ (r n).seen ≠ [] ∧ (r n).seen.length < 3 ∧
      (s.slotGranule (r n) ((r n).seen.length - 1)).isSome = true) ∧
    ((r 3).seen.length = 3 ∧ (s.putQueue 5 (r 3)).consuming (r 3) = true ∧ s.slotGranule (r 3) 2 = some (((slotOf 2 9).drop 32).take 16)) ∧
    (let v := s.putQueue 5 (r 4); v.mayAccept q (slotOf 2 9) = true ∧ v.refusal q (slotOf 2 9) = none ∧ (j.putQueue 5 (r 4)).mayAccept q (slotOf 2 9) = false) ∧
    u.mayAccept q (slotOf 0x10 9) = true ∧ (u.refusal q (slotOf 0x10 9)).isSome = true ∧ (∀ x ∈ q.pend, x.seq ≠ q.r) ∧
    s.consuming { q with state := .stopped } = false ∧ q.r < e.widx q ∧ e.slotLast q = none ∧ e.slotReady q = false ∧ q.waitFrom = none ∧
    (let w := { q with waitFrom := some 0 }; let x : State := { (e.putQueue 5 w) with now := 16 }; x.queue 5 = some w ∧ x.consuming w = true ∧ w.state = .run ∧ w.r < x.widx w ∧
      x.slotReady w = false ∧ x.timerOff w = false ∧ w.stall ≤ x.now - 0 ∧ 3 ≤ (x.queueState 5 .stalled w.r).room ∧
      (let y : State := { x with jnl := { x.jnl with wr := 4094 } }; y.timerOff w = false ∧ (y.queueState 5 .stalled w.r).room < 3) ∧
      (let y : State := { x with jnl := { x.jnl with wr := 4095 } }; y.room < 2)) ∧
    (let h := { q with heldStall := true, state := .stalled }; (e.putQueue 5 h).queue 5 = some h ∧ h.heldStall = true ∧ h.state = .stalled ∧ (e.putQueue 5 h).slotReady h = false ∧
      3 ≤ (e.putQueue 5 h).room ∧ (s.putQueue 5 h).slotReady h = true) ∧
    ¬(q.heldStall = true ∧ q.state = .stalled ∧ (e.slotReady q = true ∨ 3 ≤ e.room)) := by decide +kernel
theorem tracked_of_tasks (s : State) (n : Nat) (x : Nat × Task) : n ≤ ({ s with tasks := List.replicate n x } : State).tracked :=
  Nat.le_trans (Nat.le_of_eq List.length_replicate.symm) (Nat.le_add_right _ _)
/-- A Marshal with 2^20 tasks. -/
theorem meets_QueueConsumers_full : taskLimit ≤ ({ withQ 1 [] [] with tasks := List.replicate taskLimit (9, task0 1) } : State).tracked :=
  tracked_of_tasks _ _ _
/-- R41: a write that takes the queue's WIDX to 2^48 stops it for good. -/
theorem test_queue_dies : let q := { reqOf (.write (plain (leBytes 8 (2 ^ 48))) .keep) with port := portOf (hbmKey 0x8000), key := hbmKey 0x8000 }
    let t := after (.apply (portOf (hbmKey 0x8000))) { withQ 1 [] [] with reqs := [q] }
    (t.queue 5).map (·.state) = some .dead ∧ (({ withQ 1 [] [] with reqs := [q] } : State).refuses q.key (plain (leBytes 8 (2 ^ 48))) q.cmpr 1) = none := by decide +kernel

/-- A packet of queue 5 whose capabilities are a TCB, a word, or a copy's source, destination and object. -/
def pkt0 (opc w1 : Nat) (caps : List Cap) : Pkt := { seq := 0, bytes := slotOf opc w1, caps := caps, taskId := 20, started := false }
def withPkt (kind : Nat) (p : Pkt) : State := { withQ kind [p] [] with mem := Memory.setBytes (withQ kind [p] []).mem 0x800 tcb0, tags := [0x80] }
def startsIs (kind : Nat) (p : Pkt) (opc : Nat) : Prop := Claims.startsNext (withPkt kind p) 5 (queue0 kind [p]) p opc
/-- A packet of each kind that is the next to start; a task that runs, in the fc of its dispatch and after it, one that waits, and one that may not be
cancelled; a store that is made, and one that its capability does not allow; a queue that does not exist. -/
theorem meets_QueuePackets : let l := pkt0 1 0 [capAt 2 0x800, Cap.null, Cap.null]; let n := pkt0 3 0 [capAt 2 0x4000]; let m := pkt0 3 0 [Cap.null]; let c := capAt 2 0x800
    let u := (withPkt 1 l).markStarted 5 0; let x := withPkt 1 (pkt0 2 9 []); let w := (withPkt 1 n).markStarted 5 0; let v := (withPkt 1 m).markStarted 5 0;
    (∃ b, u.readTcb 0 c = .ok b ∧ (b.state == 0 && (let t0 := b.task 0 20 c (some (5, 0)) [0, 0, 0, 0] Cap.null Cap.null
      u.tcbFault b t0 == none && u.heatCheck t0 == some false)) = true) ∧
    (∃ ks, w.unitKeys 0 (capAt 2 0x4000) 0x4000 8 permStore kindWrite .store = .ok ks ∧ (ks.length == 1 && ks.all (fun k => k.2.1 == 8 && decide (k.1 + 8 ≤ apKey 0) &&
      w.refuses k.1 (plain (leBytes 8 0)) k.2.2 1 == none && (w.applyWrite k.1 (plain (leBytes 8 0)) k.2.2).queues.all (fun q => decide (w.widx q.2 < 2 ^ 48)))) = true) ∧
    (startsIs 1 l 1 ∧ startsIs 1 (pkt0 2 9 []) 2 ∧ startsIs 1 (pkt0 2 77 []) 2 ∧ startsIs 1 n 3 ∧ startsIs 1 m 3 ∧ startsIs 2 (pkt0 0x10 0 [c, c, c]) 0x10 ∧
      startsIs 2 (pkt0 0x11 0 [c, c, c]) 0x11 ∧ startsIs 2 (pkt0 0x12 0 [c, c, c]) 0x12) ∧
    x.task 9 = some (task0 1) ∧ (task0 1).vd = 0 ∧ (task0 1).st = .running ∧ (task0 1).fate = 0 ∧ (task0 1).cancel = false ∧ x.now ≤ (task0 1).since ∧
    (task0 1).since < ({ x with now := 1 } : State).now ∧ ({ x with tasks := [(9, { task0 1 with st := .waiting, members := [] })] } : State).cancellable 0 9 = true ∧
    (let f := { task0 1 with st := .frozen, members := [], sched := 0x4100, left := [3] }; let y : State := { x with tasks := [(9, f)] }
      f.fate = 0 ∧ f.cancel = false ∧ y.holdsBack f 7 = false ∧ ({ y with reqs := [reqOf (.write (plain [1]) .waitEmpty)] } : State).holdsBack f 7 = true) ∧
    (task0 1).queue ≠ none ∧ (withPkt 1 (pkt0 2 77 [])).cancellable 0 77 = false ∧
    w.unitLink (capAt 2 0x4000) 0x4000 = none ∧ Memory.wf (withPkt 1 n).mem = true ∧
    v.unitLink Cap.null 0 = none ∧ (match v.unitWrite 0 Cap.null 0 (leBytes 8 0) with | .ok _ => false | .error f => f == 0x11) = true ∧ (with0 id).queue 5 = none :=
  ⟨ex_ok (by decide +kernel), ex_ok (by decide +kernel), by unfold startsIs Claims.startsNext; decide +kernel, by decide +kernel⟩

/-- The control queue with one packet, beside queue 5 (changed by f) and virtual device 0 (d, where there is one). -/
def ctl (ws : List Nat) : Pkt := { seq := 0, bytes := pktOf ws, caps := [], taskId := 0, started := false }
def withC (p : Pkt) (f : Queue → Queue) (vds : AMap Vd) : State :=
  { withQ 1 [] [] with queues := [(0, queue0 3 [p]), (5, f (queue0 1 []))], vds := vds }
/-- The same with virtual device 0 stopped, and nothing of it left. -/
def withStop (p : Pkt) (f : Queue → Queue) : State := { withC p f [(0, { vd0 with stopped := true })] with tasks := [], regions := [] }
def nextIs (s : State) (p : Pkt) (opc : Nat) : Prop := Claims.startsNext s 0 (queue0 3 [p]) p opc
/-- Queues: one to create, one to destroy, one to skip at, an entry to set. -/
theorem meets_ControlPackets : let on : AMap Vd := [(0, vd0)]
    (let p := ctl [0x20, 6 * 2 ^ 16, 0x8000, 0x9000, 0xA000, 1, 1024, 0]; let s := withC p id on; let u := s.markStarted 0 0
      nextIs s p 0x20 ∧ p.qid = 6 ∧ s.queue p.qid = none ∧ AMap.find s.vds p.vd ≠ none ∧ p.vd ≤ 31 ∧ u.queueLoc (queue0 1 []) 0x8000 ≠ none ∧
      (u.createWrites { queue0 1 [] with stall := 1024 }).any (fun ws => (u.devWrites ws).2.isNone && (({ u with live := [hbmKey 0x9000 / 16] } : State).devWrites ws).2 == some 0x72) = true) ∧
    (let p := ctl [0x21, 5 * 2 ^ 16]; let s := withC p id on
      nextIs s p 0x21 ∧ p.qid ≠ 0 ∧ s.queue p.qid = some (queue0 1 []) ∧ (queue0 1 []).pend = [] ∧ (queue0 1 []).destroying = [] ∧ vd0.stopped = false) ∧
    (let p := ctl [0x22, 5 * 2 ^ 16, 3]; let f := fun q : Queue => { q with state := .stalled, r := 3 }; let s := withC p f on
      nextIs s p 0x22 ∧ p.qid ≠ 0 ∧ s.queue p.qid = some (f (queue0 1 [])) ∧ (f (queue0 1 [])).r = p.w 2) ∧
    (let p := ctl [0x23, 5 * 2 ^ 16 + 1, 0, 0x1000, 2 + 3 * 2 ^ 8]; let k := hbmKey (0xA000 + 16); let s := withC p id on
      nextIs s p 0x23 ∧ p.qid ≠ 0 ∧ (Cap.root 2 3 0 0x1000).isSome = true ∧ (Cap.root 2 3 0 0x1000).all (fun c => let u := s.markStarted 0 0
        u.refuses k (plain c.bytes) false 1 == none && ({ u with live := [k / 16] } : State).refuses k (plain c.bytes) false 1 == some 0x72) = true ∧
      vd0.root (p.w 4 % 8) 0 0x1000 (bitsOf (p.w 4) 8 7) = true ∧ isHbm k = true ∧ Memory.wf s.mem = true) := by
  unfold nextIs Claims.startsNext; decide +kernel
/-- Virtual devices: one to create, to destroy, to stop, that has stopped, to start. -/
theorem meets_ControlPackets_vds : let on : AMap Vd := [(0, vd0)]
    (let p := ctl [0x30, 1, 2, 0x100000, 0, 0, 0x1000]; let s := withC p id on
      nextIs s p 0x30 ∧ p.vd ≤ 31 ∧ p.w 2 % 2 ^ 32 ≠ 0 ∧ (∀ r ∈ s.clearBad, (p.w 2).testBit (r / 8) = false) ∧ AMap.find s.vds p.vd = none ∧
      (∀ d ∈ s.vds, d.2.groups &&& BitVec.ofNat 32 (p.w 2) = 0) ∧ p.w 5 % 4096 = 0 ∧ p.w 6 % 4096 = 0 ∧ p.w 5 + p.w 6 ≤ 2 ^ 48) ∧
    (let p := ctl [0x31, 0]; let s := withStop p (fun q => { q with vd := 1 })
      nextIs s p 0x31 ∧ (AMap.find s.vds p.vd).map (·.stopped) = some true ∧ s.vdStopDone p.vd = true ∧ ∀ x ∈ s.queues, x.2.kind = 3 ∨ x.2.vd ≠ p.vd) ∧
    (let p := ctl [0x32, 0]; let s := withC p id on; let y := { p with started := true }; let u := withStop y id
      nextIs s p 0x32 ∧ (∀ x ∈ (queue0 3 [p]).pend, x.started = false) ∧ AMap.find s.vds p.vd = some vd0 ∧
      u.queue 0 = some (queue0 3 [y]) ∧ (queue0 3 [y]).pend.find? (fun p => p.started && p.opc == 0x32 && u.vdStopDone p.vd) = some y) ∧
    (let p := ctl [0x33, 0]; let s := withStop p id; nextIs s p 0x33 ∧ (AMap.find s.vds p.vd).map (·.stopped) = some true ∧ s.vdStopDone p.vd = true) := by
  unfold nextIs Claims.startsNext; decide +kernel
/-- A virtual device whose one group cannot be scrubbed; a stopped one with a copy whose completion object is uncorrectable, and sound. -/
theorem meets_ControlPackets_fail : let on : AMap Vd := [(0, vd0)]
    (let p := ctl [0x30, 1, 2, 0x100000, 0, 0, 0x1000]; let s : State := { withC p id on with clearBad := [8], owners := [(1, 0)] }
      nextIs s p 0x30 ∧ p.vd ≤ 31 ∧ p.w 2 % 2 ^ 32 ≠ 0 ∧ (∀ g < 32, (p.w 2).testBit g = true → ∃ r ∈ s.clearBad, r / 8 = g ∧ AMap.find s.owners g = some 0) ∧ p.vd ≠ 0 ∧
        AMap.find s.vds p.vd = none ∧ p.w 2 < 2 ^ 32 ∧ (∀ d ∈ s.vds, d.2.groups &&& BitVec.ofNat 32 (p.w 2) = 0) ∧ p.w 5 % 4096 = 0 ∧ p.w 6 % 4096 = 0 ∧ p.w 5 + p.w 6 ≤ 2 ^ 48) ∧
    (let p := ctl [0x35, 0, 0x100, 0x1000]; let s := fun (bad : List Nat) => ({ withStop p id with btes := [(0, cmd0 0)], bad := bad } : State)
      (∀ b ∈ [[], [0]], nextIs (s b) p 0x35 ∧ (AMap.find (s b).vds p.vd).map (·.stopped) = some true ∧ (s b).vdStopDone p.vd = true ∧
        ((s b).markStarted 0 0 |>.exportRecord 0).length ≤ p.w 3 ∧ (s b).hostOk (p.w 2) ((s b).markStarted 0 0 |>.exportRecord 0).length = true) ∧
      (let u := (s []).markStarted 0 0; (u.stoppedCopies 0).findSome? u.bitmapBad = none) ∧
      (let u := (s [0]).markStarted 0 0; (u.stoppedCopies 0).findSome? u.bitmapBad = some 0x30)) := by
  unfold nextIs Claims.startsNext; decide +kernel
/-- Records: dirty bits, an export, an import of queue 5, and FW.INFO. -/
theorem meets_ControlPackets_records : let on : AMap Vd := [(0, vd0)]
    (let p := ctl [0x34, 0, 0, 1, 0x100]; let s := withC p id on; nextIs s p 0x34 ∧ AMap.find s.vds p.vd ≠ none ∧ s.hostOk (p.w 4) ((p.w 3 + 7) / 8) = true) ∧
    (let p := ctl [0x35, 0, 0x100, 0x1000]; let s := withStop p id; let r := (s.markStarted 0 0).exportRecord 0
      nextIs s p 0x35 ∧ (AMap.find s.vds p.vd).map (·.stopped) = some true ∧ s.vdStopDone p.vd = true ∧ r.length ≤ p.w 3 ∧ s.hostOk (p.w 2) r.length = true) ∧
    (let p := ctl [0x36, 0, 0x100]; let s0 := withStop p id
      let s : State := { s0 with mem := Memory.setBytes s0.mem (hostKey 0x100) (leBytes 4 0 ++ leBytes 4 1 ++ leBytes 8 0 ++ leBytes 8 5 ++ leBytes 24 0 ++ leBytes 8 1) }
      let u := s.markStarted 0 0; let h := u.rd (hostKey 0x100) 16; let es := (List.range 1).map (u.recordEntry 0x100)
      nextIs s p 0x36 ∧ AMap.find s.vds p.vd ≠ none ∧ fieldLe h 0 4 = p.vd ∧ fieldLe h 4 4 = 1 ∧ s.hostOk 0x100 16 = true ∧ s.hostOk 0x100 (16 + 128 * 1) = true ∧
      es.all (u.importable p.vd) = true ∧ (es.map (·.1)).Nodup ∧ (u.importAll es).2 = none ∧
      (({ u with bad := [hbmKey 0x8000 / 16] } : State).importAll es).2 = some 0x35) ∧
    (let p := ctl [0x40, 0x100]; let s := withC p id on; nextIs s p 0x40 ∧ s.hostOk (p.w 1) 256 = true) := by
  unfold nextIs Claims.startsNext; decide +kernel

/-! ### The management controller -/

def boot0 (b : Boot) : State := { State.reset with mgc := { State.reset.mgc with boot := b }, isaudUp := true }
/-- An image that the first check refuses, one in which no byte of memory stands; an image that would raise the fused number, and a sound window. -/
theorem meets_BootSequence : State.reset.mgc.boot = .power ∧ (boot0 .link).mgc.boot = .link ∧ (boot0 .ready).mgc.boot ≠ .power ∧ (boot0 .ready).mgc.boot ≠ .link ∧
    (boot0 .verify).mgc.boot = .verify ∧ (boot0 .verify).imageError = some 1 ∧ (boot0 .load).anyBad (sramKey 0) (boot0 .load).imageLength = false ∧ (boot0 .load).mgc.boot = .load ∧
    (boot0 .init).mgc.boot = .init ∧ (boot0 .ready).mgc.boot ≠ .init ∧ (boot0 .ready).mgc.boot ≠ .load ∧ thermalLimit ≤ (BitVec.ofNat 16 thermalLimit).toNat := by decide +kernel

/-- An image at INIT with flag 1 and SVN 3 over a fused number of 0. -/
theorem meets_BootSequence_advance : ({ boot0 .init with mgc := { (boot0 .init).mgc with svnFused := 0 }, mem := Memory.setBytes [] (sramKey 6) [1, 0, 3, 0, 0, 0] } : State).advances = true := by
  decide +kernel

/-- Lengths at both ends of their range; sensors 0, 80 and 81 and a number that names none; ring sizes at both ends; addresses of commands. -/
theorem meets_Management : (boot0 .waitImage).mgc.cmd = none ∧ (boot0 .waitImage).mgc.boot ≠ .power ∧ lengthOk 0x10000 = true ∧ lengthOk 0x4000000 = true ∧
    (boot0 .ready).bootIn 1 6 = true ∧ (boot0 .halted).bootIn 1 7 = true ∧ mbxAddr 0x1000 (32 * 64) = true ∧ (2 : Nat) ^ Nat.log2 64 = 64 ∧ (2 : Nat) ^ Nat.log2 65536 = 65536 ∧
    mbxAddr 0x1000 320 = true ∧ (boot0 .ready).isaudUp = true ∧ isSensor 0 = true ∧ isSensor 80 = true ∧ isSensor 81 = true ∧ isSensor 3 = false ∧
    (boot0 .ready).jnl.en = false ∧ ({ boot0 .ready with jnl := { State.reset.jnl with en := true, wr := 5, rd := 2 } } : State).jnl.en = true ∧
    (2 ≤ 5 ∧ (5 : Word).toNat ≤ 5) ∧ ¬(2 ≤ (1 : Word).toNat) ∧ (0x13FFFFF8 : Nat) % 8 = 0 ∧ 0x10000000 ≤ (0x13FFFFF8 : Nat) ∧ (0x13FFFFF8 : Nat) < 0x14000000 ∧
    (boot0 .ready).mgc.lowered = false ∧ (∀ x ∈ (boot0 .ready).queues, (boot0 .ready).widx x.2 < 2 ^ 48) ∧ State.reset.isaudUp = false ∧
    (boot0 .power).mgc.boot ≠ .halted ∧ (BitVec.ofNat 16 (thermalLimit - 1)).toNat < thermalLimit := by decide +kernel

/-! ### Memory, the decoder and the step -/

/-- A canonical memory, and a step from it. -/
theorem meets_MemoryStaysCanonical : Memory.wf State.reset.mem = true ∧ ∃ t, step State.reset = .next t :=
  ⟨by decide, _, rfl⟩
/-- A well-formed instruction with words. -/
theorem meets_DecodeEncode : (Instr.add 4 1 2).wf = true ∧ encodeWords (.add 4 1 2) ≠ [] := by decide
/-- Bytes that decode. -/
theorem meets_WordsAreUnambiguous : okIs (decode (encode (.add 4 1 2) ++ [0xFF])) (.add 4 1 2, [0xFF]) = true := by decide +kernel
/-- A turn of region 0's Pacer at a word that decodes, at LIMM's two words, and at zeros. -/
def turn0 : Turn := { fc := 1, region := 0, act := none }
def seen (ws : List Nat) : State :=
  { (((({ wait0 0 1 id with agenda := [], mem := Memory.setBytes [] 0x1000 (ws.flatMap (leBytes 4)) } : State).tick turn0.fc).commitCancels).events turn0.events) with
    cur := turn0.region }
theorem meets_StepRunsDecoded : let s := seen [0x00A63802 + 0x04000000]; let l := seen [0xFCA00000, 0xFFFFFFFF]; let c := s.reg.pacer.pcc
    (∃ x, s.fetch = .ok x ∧ (x.2 == .and 5 6 7) = true) ∧ (∃ x, l.fetch = .ok x ∧ (match x.2 with | .limm d n => d == 5 && n == 0xFFFFFFFF | _ => false) = true) ∧
    (∃ e, (seen [0]).fetch = .error e) ∧
    s.mgc.boot = .ready ∧ s.reg.run = .on ∧ s.reg.stop = none ∧ s.reg.pend = none ∧ s.reg.wait = .none ∧ s.debug = none ∧
    s.pc.toNat % 4 = 0 ∧ c.check s.pc.toNat 4 permExec kindExec = .ok (1, 0x1000) ∧ memSpaces.contains 1 = true ∧
    s.keyOf s.cur s.vd s.sup 1 0x1000 4 .exec 0x34 = .ok (0x1000, false) ∧ s.icacheOn = false ∧ s.anyBad 0x1000 4 = false :=
  ⟨ex_ok (by decide +kernel), ex_ok (by decide +kernel), ⟨_, rfl⟩, by decide +kernel⟩

end Sys2Proof.Tests
end

/-! # Proofs: the moves of the ordering machine's requests (O47) -/

namespace Sys2Proof.Machine

open Sys2Proof Sys2Proof.Claims

/-! ### PASS and ADMIT (R167) -/

/-- A request at the head of a FIFO stands in its stage, for its port. -/
theorem State.stage_of_headOf {s : State} {st : Stage} {p : Port} {q : Req} (h : s.headOf st p = some q) : q.stage = st ∧ q.port = p := by
  simpa using List.find?_some h

theorem State.pass_of_head {s : State} {l : Level} {unit : Nat} {p : Port} {q : Req} {st : Stage}
    (h : s.headOf (levelStage s.cur l unit) p = some q) (hst : nextStage (levelStage s.cur l unit) = some st) :
    s.pass l unit p = s.moveReq q st := by
  simp [State.pass, h, (State.stage_of_headOf h).1, hst]

theorem State.pass_of_empty {s : State} {l : Level} {unit : Nat} {p : Port} (h : s.headOf (levelStage s.cur l unit) p = none) :
    s.pass l unit p = s := by simp [State.pass, h]

/-- A request at the head of an inbound FIFO is held by what its issuer still has in the port queue: a host thread's posted writes, and
every request of a peer (R16, R21). -/
theorem State.admissible_iff {s : State} {peer : Bool} {n : Nat} {q : Req} (h : q.stage = inStage peer n) :
    s.admissible q = true ↔
      ¬∃ e ∈ s.reqs, e.stage = .pq ∧ (if peer then e.issuer = .peer n else e.issuer = .host n ∧ e.posted = true) := by
  cases peer <;> simp [State.admissible, h, inStage]

theorem State.admitReq_of_head {s : State} {peer : Bool} {n : Nat} {q : Req} (h : s.reqs.find? (fun q => q.stage == inStage peer n) = some q) :
    s.admitReq peer n = if s.admissible q then s.moveReq q .pq else s := by simp [State.admitReq, h]

theorem State.admitReq_of_empty {s : State} {peer : Bool} {n : Nat} (h : s.reqs.find? (fun q => q.stage == inStage peer n) = none) :
    s.admitReq peer n = s := by simp [State.admitReq, h]

/-! ### SERVE (R157, R158, R174) -/

/-- Serving a declaration's queue changes that declaration and the responses on their way alone. -/
theorem State.serve_frame (s : State) (p g : Nat) :
    (s.serve p g).mem = s.mem ∧ (s.serve p g).regions = s.regions ∧ (s.serve p g).reqs = s.reqs ∧
      ∀ j, j ≠ g → AMap.find (s.serve p g).decls j = AMap.find s.decls j := by
  unfold State.serve
  split
  · exact ⟨rfl, rfl, rfl, fun _ _ => rfl⟩
  split
  · exact ⟨rfl, rfl, rfl, fun _ _ => rfl⟩
  · dsimp only
    split <;> exact ⟨rfl, rfl, rfl, fun j hj => AMap.find_put_other _ _ hj⟩

/-- The declaration is still there after its queue is served. -/
theorem State.serve_keeps {s : State} {p g : Nat} {d : Decl} {m : Maint} {rest : List Maint} (hd : AMap.find s.decls g = some d)
    (hm : AMap.findD d.mq p [] = m :: rest) : ∃ e, AMap.find (s.serve p g).decls g = some e := by
  simp only [State.serve, hd, hm]
  split <;> exact ⟨_, AMap.find_put_same _ _ _⟩

@[simp] theorem State.rescan_mq (s : State) (d : Decl) (p i : Nat) : (s.rescan d p i).mq = d.mq := by
  simp only [State.rescan]; split <;> rfl

theorem State.serve_rescan {s : State} {p g i : Nat} {d : Decl} {rest : List Maint} (hd : AMap.find s.decls g = some d)
    (hm : AMap.findD d.mq p [] = .rescan i :: rest) :
    s.serve p g = { s with decls := AMap.put s.decls g (s.rescan { d with mq := AMap.put d.mq p rest } p i) } := by
  simp [State.serve, hd, hm]

/-- A read that has been accepted is answered, with 0x8B where the declaration is lost or an accumulator that it reads is spoilt (R161). -/
theorem State.serve_reply {s : State} {p g st : Nat} {iss : Issuer} {va : Word} {port : Port} {idxs : List Nat} {d : Decl}
    {rest : List Maint} (hd : AMap.find s.decls g = some d) (hm : AMap.findD d.mq p [] = .reply st iss va port idxs :: rest) :
    ∃ e r, (s.serve p g) = { s with decls := AMap.put s.decls g e, resps := s.resps ++ [r] } ∧ e.mq = AMap.put d.mq p rest ∧
      e.parts = d.parts ∧ r.stamp = st ∧ r.issuer = iss ∧ r.bytes = idxs.flatMap (fun i => (d.part p i).bytes) ∧
      r.cause = if d.lost ∨ ∃ i ∈ idxs, (d.part p i).spoilt = true then some 0x8B else none := by
  simp only [State.serve, hd, hm]
  refine ⟨_, _, rfl, ?_⟩
  by_cases h : ∃ i ∈ idxs, (d.part p i).spoilt = true
  · have hb : (idxs.any fun i => (({ d with mq := AMap.put d.mq p rest } : Decl).part p i).spoilt) = true := List.any_eq_true.2 h
    rw [hb, if_pos (Or.inr h)]
    exact ⟨rfl, rfl, rfl, rfl, rfl, rfl⟩
  · have hb : (idxs.any fun i => (({ d with mq := AMap.put d.mq p rest } : Decl).part p i).spoilt) = false :=
      Bool.eq_false_iff.2 (fun hx => h (List.any_eq_true.1 hx))
    rw [hb]
    exact ⟨rfl, rfl, rfl, rfl, rfl, by simp only [h, or_false]; rfl⟩

theorem State.serve_of_no_decl {s : State} {p g : Nat} (h : AMap.find s.decls g = none) : s.serve p g = s := by simp [State.serve, h]

/-! ### COMBINE (R180, R201, R277) -/

/-- Where a rank's contribution is missing, or a window has no rank, nothing is merged. -/
theorem State.combineWin_waits {s : State} {w e : Nat} {x : Window} (hx : AMap.find s.windows w = some x)
    (h : x.n = 0 ∨ ∃ c ∈ (List.range x.n).map (fun r => s.contribution w e r), c = none) : s.combineWin w e = s := by
  have hc : ¬(((List.range x.n).map (fun r => s.contribution w e r)).all Option.isSome && decide (x.n > 0)) = true := by
    rw [Bool.and_eq_true, List.all_eq_true]
    rintro ⟨hall, hn⟩
    rcases h with h | ⟨c, hmem, rfl⟩
    · simp [h] at hn
    · exact absurd (hall _ hmem) (by simp)
  simp only [State.combineWin, hx, hc]
  rfl

/-- With a contribution of every rank, those contributions leave and one request of the window takes their place in PQ. -/
theorem State.combineWin_merges {s : State} {w e : Nat} {x : Window} (hx : AMap.find s.windows w = some x) (hn : 0 < x.n)
    (h : ∀ c ∈ (List.range x.n).map (fun r => s.contribution w e r), c ≠ none) :
    let ps := ((List.range x.n).map (fun r => s.contribution w e r)).filterMap id
    let size := if x.fmt = 2 then 2 else 4
    ∃ q, (s.combineWin w e).mem = s.mem ∧
      (s.combineWin w e).reqs = s.reqs.filter (fun q => !ps.any (fun p => p.1.stamp == q.stamp)) ++ [q] ∧ q.issuer = .window w ∧
      q.stage = .pq ∧ q.key = x.home + size * e ∧ q.port = portOf q.key ∧
      q.act = .combined e (BitVec.ofNat 64 (reduceTree x.step 64 (ps.map (fun p => p.2.toNat % 256 ^ size)))) size
        (ps.filterMap (fun p => if p.1.issuer.here then some (p.1.issuer, p.1.va, p.1.stamp) else none)) := by
  have hc : (((List.range x.n).map (fun r => s.contribution w e r)).all Option.isSome && decide (x.n > 0)) = true := by
    rw [Bool.and_eq_true, List.all_eq_true]
    exact ⟨fun c hmem => Option.isSome_iff_ne_none.2 (h c hmem), decide_eq_true hn⟩
  simp only [State.combineWin, hx, hc, beq_iff_eq]
  exact ⟨_, rfl, rfl, rfl, rfl, rfl, rfl, rfl⟩

/-! ### A write's effect at its port (R52, R140, R157, R177) -/

/-- A write whose every bit is written leaves its own bytes. -/
theorem State.merged_plain (s : State) (k : Nat) (bs : List Byte) : s.merged k (plain bs) = bs := by
  have hkeep : ~~~(0xFF : Byte) = 0 := by decide
  have hnew : ∀ b : Byte, b &&& 0xFF = b := fun b => BitVec.and_allOnes
  apply List.ext_getElem
  · simp [State.merged, plain]
  · intro i h1 h2
    have hp : (plain bs).getD i (0, 0) = (bs[i], 0xFF) := by simp [plain, List.getD, h2]
    simp only [State.merged, List.getElem_map, List.getElem_range, hp, hkeep, hnew]
    simp

@[simp] theorem State.dropReq_mem (s : State) (q : Req) : (s.dropReq q).mem = s.mem := rfl
@[simp] theorem State.dropReq_resps (s : State) (q : Req) : (s.dropReq q).resps = s.resps := rfl
@[simp] theorem State.wake_resps (s : State) (g : Nat) : (s.wake g).resps = s.resps := rfl
@[simp] theorem State.noteMerge_resps (s : State) (k : Nat) (c : Bool) : (s.noteMerge k c).resps = s.resps := by
  unfold State.noteMerge; split <;> rfl
@[simp] theorem State.touch_resps (s : State) (k n : Nat) : (s.touch k n).resps = s.resps := by unfold State.touch; split <;> rfl
@[simp] theorem State.maintain_resps (s : State) (k : Nat) (new : List Byte) : (s.maintain k new).resps = s.resps := by
  unfold State.maintain; split <;> rfl

theorem State.foldl_wake_resps (gs : List Nat) : ∀ s : State, (gs.foldl State.wake s).resps = s.resps := by
  induction gs with
  | nil => exact fun _ => rfl
  | cons g gs ih => exact fun s => ih (s.wake g)

/-- A write sends no response of its own. -/
@[simp] theorem State.applyWrite_resps (s : State) (k : Nat) (bs : List (Byte × Byte)) (c : Bool) : (s.applyWrite k bs c).resps = s.resps := by
  simp [State.applyWrite, State.foldl_wake_resps]

/-- What a byte reads as after a plain write was applied. -/
theorem State.get_applyWrite_plain (s : State) (k : Nat) (bs : List Byte) (c : Bool) (h : Memory.wf s.mem = true) (j : Nat) :
    Memory.get (s.applyWrite k (plain bs) c).mem j = if k ≤ j ∧ j < k + bs.length then bs.getD (j - k) 0 else Memory.get s.mem j := by
  rw [(s.applyWrite_mem k (plain bs) c).1, State.merged_plain, Memory.get_setBytes _ _ _ _ h]

/-! ### The device's write with completion (R15) -/

@[simp] theorem State.feAfter_keep (s : State) (k n : Nat) : s.feAfter k n .keep = s := by
  unfold State.feAfter; split <;> rfl

/-- A plain store that its port does not refuse takes effect, and completes where its issuer waits for that. -/
theorem State.applyStore_plain {s : State} {q : Req} {bs : List Byte} (h : s.refuses q.key (plain bs) q.cmpr 1 = none) :
    s.applyStore q (plain bs) .keep = (s.applyWrite q.key (plain bs) q.cmpr).finish q := by
  simp [State.applyStore, h]

/-- A Pacer's write over the Isaud link returns a completion. -/
theorem needsDone_pacer_host {q : Req} {r : Nat} (hi : q.issuer = .pacer r) (hp : q.port = .host) : needsDone q = true := by
  simp [needsDone, hi, hp]

/-- The store at the head of the host port's queue, which its link and its port take: what it makes of the device, before a queue's end that
its write may bring. -/
theorem State.deviceWriteDone_store {s : State} {q : Req} {bs : List Byte} {r : Nat} (hq : s.headOf .pq .host = some q)
    (ha : q.act = .write (plain bs) .keep) (hi : q.issuer = .pacer r) (hl : s.linkFault q = none)
    (hr : (s.dropReq q).refuses q.key (plain bs) q.cmpr 1 = none) :
    let u := ((s.dropReq q).applyWrite q.key (plain bs) q.cmpr).respond q [] true
    s.deviceWriteDone = if q.mayClaim then u.deadQueues q.key else u := by
  have hp := (State.stage_of_headOf hq).2
  have hact : (s.dropReq q).applyAct q = some (((s.dropReq q).applyWrite q.key (plain bs) q.cmpr).respond q [] true) := by
    simp [State.applyAct, ha, State.applyStore_plain hr, State.finish, needsDone_pacer_host hi hp]
  have hw : q.act.writes = true := by rw [ha]; rfl
  simp [State.deviceWriteDone, hq, hw, State.applyReq, hl, hact]

theorem State.deviceWriteDone_empty {s : State} (h : s.headOf .pq .host = none) : s.deviceWriteDone = s := by
  simp [State.deviceWriteDone, h]

theorem State.completes_deviceWriteDone {s : State} (h : s.hostWrite = none) : Completes .writeWithCompletion s s.deviceWriteDone := by
  simp [Completes, exec, execWriteWithCompletion, h]

/-! ### The obligation -/

/-- What PASS does with a level's FIFO for a port. -/
theorem State.completes_pass (s : State) (l : Level) (unit : Nat) (p : Port) :
    (∀ q, s.headOf (levelStage s.cur l unit) p = some q → Completes (.pass l unit p) s
      (s.moveReq q (match l with | .cq => .rq s.cur | .rq => .dq (s.cur / 32) | .dq => .pq))) ∧
    (s.headOf (levelStage s.cur l unit) p = none → Completes (.pass l unit p) s s) := by
  refine ⟨fun q hq => congrArg Host.Outcome.next (State.pass_of_head hq ?_), fun h => congrArg Host.Outcome.next (State.pass_of_empty h)⟩
  cases l <;> rfl

/-- Settles O47: PASS and ADMIT by what stands at the head of a FIFO, SERVE by the entry at the head of a declaration's queue, COMBINE by whether
every rank has contributed, and the device's write by what its port makes of a store. -/
theorem orderingMoves : Obligations.OrderingMoves := by
  intro s
  refine ⟨?_, ?_, ?_, ?_, ?_, ?_, ?_⟩
  · intro l unit p
    cases l with
    | cq => exact s.completes_pass .cq unit p
    | rq => exact s.completes_pass .rq unit p
    | dq => exact s.completes_pass .dq unit p
  · intro peer n
    refine ⟨fun q hq => ?_, fun h => congrArg Host.Outcome.next (State.admitReq_of_empty h)⟩
    have hst : q.stage = inStage peer n := eq_of_beq (List.find?_some (p := fun q : Req => q.stage == inStage peer n) hq)
    have hadm := State.admissible_iff (s := s) hst
    refine ⟨fun hfree => ?_, fun hheld => ?_⟩
    · exact congrArg Host.Outcome.next ((State.admitReq_of_head hq).trans (if_pos (hadm.2 hfree)))
    · exact congrArg Host.Outcome.next ((State.admitReq_of_head hq).trans (if_neg (fun ha => hadm.1 ha hheld)))
  · intro p g d m rest hd hm
    obtain ⟨hmem, hregs, hreqs, hoth⟩ := s.serve_frame (portNum p) g
    obtain ⟨e, he⟩ := State.serve_keeps hd hm
    refine ⟨_, e, rfl, he, hmem, hregs, hreqs, hoth, ?_, ?_⟩
    · rintro i rfl
      rw [State.serve_rescan hd hm, AMap.find_put_same, Option.some.injEq] at he
      simp [← he]
    · rintro st iss va port idxs rfl
      obtain ⟨e', r, heq, hmq, hparts, hr⟩ := State.serve_reply hd hm
      rw [heq, AMap.find_put_same, Option.some.injEq] at he
      subst he
      exact ⟨by simp [hmq], hparts, r, by rw [heq], hr⟩
  · exact fun p g h => congrArg Host.Outcome.next (State.serve_of_no_decl h)
  · intro w e x hx
    refine ⟨fun hn hall => ?_, fun h => congrArg Host.Outcome.next (State.combineWin_waits hx h)⟩
    obtain ⟨q, hq⟩ := State.combineWin_merges hx hn hall
    exact ⟨_, q, rfl, hq⟩
  · intro q bs r hw hq ha hi hwf hl hr
    have hc := State.completes_deviceWriteDone hw
    rw [State.deviceWriteDone_store hq ha hi hl hr] at hc
    refine ⟨_, hc, fun k => State.get_applyWrite_plain (s.dropReq q) q.key bs q.cmpr hwf k, ?_⟩
    have hp := (State.stage_of_headOf hq).2
    simp [State.respond, hp]
  · intro hw h
    have hc := State.completes_deviceWriteDone hw
    rwa [State.deviceWriteDone_empty h] at hc

end Sys2Proof.Machine

/-! # Proofs: requests of the host (O48) -/

namespace Sys2Proof.Machine

open Sys2Proof Sys2Proof.Claims

/-! ### What a thread consumes (R16) -/

theorem consumeOps_of_none {thread : Nat} {os : List HostOp} (h : ∀ o ∈ os, o.thread ≠ thread) (tail : List HostOp) :
    consumeOps thread (os ++ tail) = (os ++ (consumeOps thread tail).1, (consumeOps thread tail).2) := by
  induction os with
  | nil => rfl
  | cons o os ih =>
    have ho : (o.thread != thread) = true := by simpa using h o (by simp)
    simp [consumeOps, ho, ih (fun x hx => h x (by simp [hx]))]

/-- A thread's first request that has not come back keeps every later one. -/
theorem consumeOps_of_waiting {thread : Nat} {o : HostOp} {os : List HostOp} (h : os.find? (fun o => o.thread == thread) = some o)
    (hc : o.complete = false) (tail : List HostOp) : consumeOps thread (os ++ tail) = (os ++ tail, []) := by
  induction os with
  | nil => simp at h
  | cons x os ih =>
    by_cases hx : x.thread = thread
    · have hxo : x = o := by simpa [List.find?_cons, hx] using h
      subst hxo
      simp [consumeOps, hx, hc]
    · have h' : os.find? (fun o => o.thread == thread) = some o := by simpa [List.find?_cons, beq_false_of_ne hx] using h
      simp [consumeOps, hx, ih h']

/-- What a request that is turned away leaves: nothing but the thread's completions differ, and the answer UNSUPPORTED comes in the thread's turn
(R16, R17). -/
def State.turnedAway (s t : State) (thread : Nat) : Prop :=
  t.reqs = s.reqs ∧ t.mem = s.mem ∧ t.regions = s.regions ∧
    ((∀ o ∈ s.hostOps, o.thread ≠ thread) → t = { s with hostResps := s.hostResps ++ [{ thread := thread, ok := false, bytes := [] }] }) ∧
    (∀ o, s.hostOps.find? (fun o => o.thread == thread) = some o → o.complete = false →
      t = { s with hostOps := s.hostOps ++ [{ thread := thread, ids := [], got := [], ok := false }] })

theorem State.unsupported_turnedAway (s : State) (thread : Nat) : s.turnedAway (s.unsupported thread) thread := by
  refine ⟨rfl, rfl, rfl, fun hnone => ?_, fun o ho hc => ?_⟩
  · have hnew : consumeOps thread [({ thread := thread, ids := [], got := [], ok := false } : HostOp)] =
        ([], [{ thread := thread, ok := false, bytes := [] }]) := by simp [consumeOps, HostOp.complete, HostOp.result]
    simp [State.unsupported, State.hostConsume, consumeOps_of_none hnone, hnew]
  · simp [State.unsupported, State.hostConsume, consumeOps_of_waiting ho hc]

/-! ### Requests that enter their thread's queue (R14, R16) -/

/-- Requests made for the places of an access, each with its act, enter the queue of a host thread. -/
theorem State.hostIssue_sends (s : State) (thread : Nat) (posted : Bool) (ps : List (Nat × Nat × Port × Bool)) (acts : List Act)
    (rs : List NewReq) (hr : rs.map (fun r => (r.key, r.port, r.act)) = (ps.zip acts).map (fun p => (p.1.1, p.1.2.2.1, p.2))) :
    hostSends s (s.hostIssue thread posted rs) thread posted ps acts := by
  have hmap : (ps.zip acts).map (fun p => (Issuer.host thread, Stage.inHost thread, p.1.1, p.1.2.2.1, posted, p.2)) =
      rs.map (fun r => (Issuer.host thread, Stage.inHost thread, r.key, r.port, posted, r.act)) := by
    have := congrArg (List.map (fun x : Nat × Port × Act => (Issuer.host thread, Stage.inHost thread, x.1, x.2.1, posted, x.2.2))) hr
    simpa [Function.comp_def] using this.symm
  refine ⟨_, rfl, ?_, ?_, rfl, rfl, rfl⟩
  · rw [hmap]
    apply List.ext_getElem
    · simp
    · intro i h1 h2
      simp
  · simp [State.hostIssue, State.enter]

/-- One place of a host write takes its bytes from those that are left. -/
def dealBytes (acc : List NewReq × List Byte) (p : Nat × Nat × Port × Bool) : List NewReq × List Byte :=
  (acc.1 ++ [{ key := p.1, va := 0, port := p.2.2.1, cmpr := p.2.2.2, act := .write (plain (acc.2.take p.2.1)) .keep }], acc.2.drop p.2.1)

theorem hostWrites_eq (ps : List (Nat × Nat × Port × Bool)) (bytes : List Byte) : hostWrites ps bytes = (ps.foldl dealBytes ([], bytes)).1 := rfl

theorem dealBytes_acts (ps : List (Nat × Nat × Port × Bool)) : ∀ (rs : List NewReq) (bytes : List Byte),
    ((ps.foldl dealBytes (rs, bytes)).1).map (fun r => (r.key, r.port, r.act)) =
      rs.map (fun r => (r.key, r.port, r.act)) ++ (ps.zip (hostActs ps bytes)).map (fun p => (p.1.1, p.1.2.2.1, p.2)) := by
  induction ps with
  | nil => simp
  | cons p ps ih => intro rs bytes; rw [List.foldl_cons, dealBytes, ih]; simp [hostActs]

/-- The requests of a host write carry its bytes, dealt out to the write's places. -/
theorem hostWrites_acts (ps : List (Nat × Nat × Port × Bool)) (bytes : List Byte) :
    (hostWrites ps bytes).map (fun r => (r.key, r.port, r.act)) = (ps.zip (hostActs ps bytes)).map (fun p => (p.1.1, p.1.2.2.1, p.2)) := by
  rw [hostWrites_eq, dealBytes_acts]; rfl

/-- What a host access becomes once it may go: turned away where it has no place, in its thread's queue where it has. -/
theorem State.turnedAway_or_sends {s o : State} {thread : Nat} {places : Option (List (Nat × Nat × Port × Bool))} {i : Instr}
    {acts : List (Nat × Nat × Port × Bool) → List Act} {rs : List (Nat × Nat × Port × Bool) → List NewReq}
    (hr : ∀ ps, (rs ps).map (fun r => (r.key, r.port, r.act)) = (ps.zip (acts ps)).map (fun p => (p.1.1, p.1.2.2.1, p.2)))
    (hno : places = none → exec i o = .next (s.unsupported thread))
    (hps : ∀ ps, places = some ps → exec i o = .next (s.hostIssue thread false (rs ps))) :
    (places = none → ∃ t, Completes i o t ∧ s.turnedAway t thread) ∧
      (∀ ps, places = some ps → ∃ t, Completes i o t ∧ hostSends s t thread false ps (acts ps)) :=
  ⟨fun h => ⟨_, hno h, s.unsupported_turnedAway thread⟩,
    fun ps h => ⟨_, hps ps h, s.hostIssue_sends thread false ps (acts ps) (rs ps) (hr ps)⟩⟩

/-- Requests of one act each carry that act. -/
theorem eachReq_acts (ps : List (Nat × Nat × Port × Bool)) (act : Nat × Nat × Port × Bool → Act) :
    (ps.map (fun p => ({ key := p.1, va := 0, port := p.2.2.1, cmpr := p.2.2.2, act := act p } : NewReq))).map (fun r => (r.key, r.port, r.act)) =
      (ps.zip (ps.map act)).map (fun p => (p.1.1, p.1.2.2.1, p.2)) := by
  induction ps with
  | nil => rfl
  | cons p ps ih => simpa using ih

/-! ### The host's instructions (R14, R17) -/

theorem State.completes_hostRead (s : State) (thread : Nat) (ap : Aperture) (addr n : Nat) :
    (s.hostMay addr n = true →
      (s.hostPlaces ap addr n .read = none → ∃ t, Completes (.hostRead thread ap addr n) s t ∧ s.turnedAway t thread) ∧
      (∀ ps, s.hostPlaces ap addr n .read = some ps → ∃ t, Completes (.hostRead thread ap addr n) s t ∧
        hostSends s t thread false ps (ps.map (fun p => .read p.2.1)))) ∧
    (s.hostMay addr n = false → Completes (.hostRead thread ap addr n) s s) := by
  refine ⟨fun hmay => State.turnedAway_or_sends (fun ps => eachReq_acts ps (fun p => .read p.2.1)) (fun hno => ?_) (fun ps hps => ?_), fun hnot => ?_⟩
  · simp [exec, execHostRead, hmay, hno]
  · simp [exec, execHostRead, hmay, hps]
  · simp [Completes, exec, execHostRead, hnot]

theorem State.completes_postedWrite (s : State) (thread : Nat) (ap : Aperture) (addr : Nat) (bytes : List Byte)
    (hmay : s.hostMay addr bytes.length = true) :
    (s.hostPlaces ap addr bytes.length .store = none → Completes (.postedWrite thread ap addr bytes) s s) ∧
      (∀ ps, s.hostPlaces ap addr bytes.length .store = some ps → ∃ t, Completes (.postedWrite thread ap addr bytes) s t ∧
        hostSends s t thread true ps (hostActs ps bytes)) := by
  refine ⟨fun hno => ?_, fun ps hps => ⟨_, ?_, s.hostIssue_sends thread true ps _ _ (hostWrites_acts ps bytes)⟩⟩
  · simp [Completes, exec, execPostedWrite, hmay, hno]
  · simp [Completes, exec, execPostedWrite, hmay, hps]

/-- The write with completion that the host offers is issued by the next step of its row, and is offered no more. -/
theorem exec_writeWithCompletion_offered {s : State} (w : HostWrite) (h : s.hostWrite = none) :
    exec .writeWithCompletion { s with hostWrite := some w } = .next (s.hostWriteDone w) := by
  have hs : ({ s with hostWrite := none } : State) = s := by rw [← h]
  exact congrArg (fun t : State => Host.Outcome.next (t.hostWriteDone w)) hs

theorem State.completes_hostWrite {s : State} (w : HostWrite) (h : s.hostWrite = none) :
    (s.hostMay w.addr w.bytes.length = true →
      (s.hostPlaces w.ap w.addr w.bytes.length .store = none →
        ∃ t, Completes .writeWithCompletion { s with hostWrite := some w } t ∧ s.turnedAway t w.thread) ∧
      (∀ ps, s.hostPlaces w.ap w.addr w.bytes.length .store = some ps →
        ∃ t, Completes .writeWithCompletion { s with hostWrite := some w } t ∧ hostSends s t w.thread false ps (hostActs ps w.bytes))) ∧
    (s.hostMay w.addr w.bytes.length = false → Completes .writeWithCompletion { s with hostWrite := some w } s) := by
  have he := exec_writeWithCompletion_offered w h
  refine ⟨fun hmay => State.turnedAway_or_sends (fun ps => hostWrites_acts ps w.bytes) (fun hno => ?_) (fun ps hps => ?_), fun hnot => ?_⟩
  · simp [he, State.hostWriteDone, hmay, hno]
  · simp [he, State.hostWriteDone, hmay, hps]
  · simp [Completes, he, State.hostWriteDone, hnot]

/-- A host atomic: turned away where it is not aligned or has no place, in its thread's queue where it has, and nothing with the link down. -/
theorem State.completes_hostAtomic {s : State} {i : Instr} {thread : Nat} {ap : Aperture} {addr m : Nat} {op : AmoOp} {a c : Word}
    (hi : exec i s = s.hostAtomic thread ap addr m op a c) :
    (s.isaudUp = true → addr % m ≠ 0 → ∃ t, Completes i s t ∧ s.turnedAway t thread) ∧
      (s.isaudUp = true → addr % m = 0 →
        (s.hostPlaces ap addr m .store = none → ∃ t, Completes i s t ∧ s.turnedAway t thread) ∧
        (∀ ps, s.hostPlaces ap addr m .store = some ps → ∃ t, Completes i s t ∧
          hostSends s t thread false ps (ps.map (fun _ => .amo op m a c)))) ∧
      (s.isaudUp = false → Completes i s s) := by
  refine ⟨fun hup hun => ⟨_, ?_, s.unsupported_turnedAway thread⟩,
    fun hup hal => State.turnedAway_or_sends (fun ps => eachReq_acts ps (fun _ => .amo op m a c)) (fun hno => ?_) (fun ps hps => ?_), fun hdown => ?_⟩
  · simp [Completes, hi, State.hostAtomic, hup, hun]
  · simp [hi, State.hostAtomic, hup, hal, hno]
  · simp [hi, State.hostAtomic, hup, hal, hps]
  · simp [Completes, hi, State.hostAtomic, hdown]

/-- Settles O48: each host instruction by whether it may go and where its bytes lie; the four atomics share one lemma. -/
theorem hostRequests : Obligations.HostRequests := by
  intro s thread ap addr n bytes v w x
  obtain ⟨hread, hreadNot⟩ := s.completes_hostRead thread ap addr n
  refine ⟨hread, hreadNot, s.completes_postedWrite thread ap addr bytes, ?_, ?_, ?_, ?_, ?_⟩
  · rintro o hw rfl
    exact State.completes_hostWrite { thread := thread, ap := ap, addr := addr, bytes := bytes } hw
  · exact State.completes_hostAtomic (i := .fadd64 thread ap addr v) rfl
  · exact State.completes_hostAtomic (i := .swap64 thread ap addr v) rfl
  · exact State.completes_hostAtomic (i := .fadd32 thread ap addr x) rfl
  · exact State.completes_hostAtomic (i := .cas64 thread ap addr v w) rfl

end Sys2Proof.Machine

/-! # Proofs: what the links do to outstanding requests (O49) -/

namespace Sys2Proof.Machine

open Sys2Proof Sys2Proof.Claims

/-! ### A log record (R31, R32) -/

/-- A write of bytes changes memory with its metadata alone. -/
theorem State.put_frame (s : State) (k : Nat) (bs : List Byte) :
    ∃ m tg b bm d, s.put k bs = { s with mem := m, tags := tg, bad := b, badMeta := bm, dirty := d } := by
  unfold State.put State.touch
  split <;> exact ⟨_, _, _, _, _, rfl⟩

/-- A log record takes the next number, and changes nothing but the MGC's record of it and, where LOG_RING has named a ring, the ring's bytes. -/
theorem State.log_frame (s : State) (kind unit code : Nat) (v : Word) :
    ∃ m tg b bm d old, s.log kind unit code v = { s with
      mem := m, tags := tg, bad := b, badMeta := bm, dirty := d, mgc := { s.mgc with logSeq := s.mgc.logSeq + 1, logOld := old } } := by
  simp only [State.log]
  split
  · next a _ =>
    obtain ⟨m, tg, b, bm, d, h⟩ := State.put_frame _ _ _
    exact ⟨m, tg, b, bm, d, _, h⟩
  · exact ⟨_, _, _, _, _, _, rfl⟩

section
variable (s : State) (kind unit code : Nat) (v : Word)

@[simp] theorem State.log_logSeq : (s.log kind unit code v).mgc.logSeq = s.mgc.logSeq + 1 := by
  obtain ⟨_, _, _, _, _, _, h⟩ := s.log_frame kind unit code v; rw [h]
@[simp] theorem State.log_reqs : (s.log kind unit code v).reqs = s.reqs := by
  obtain ⟨_, _, _, _, _, _, h⟩ := s.log_frame kind unit code v; rw [h]
@[simp] theorem State.log_resps : (s.log kind unit code v).resps = s.resps := by
  obtain ⟨_, _, _, _, _, _, h⟩ := s.log_frame kind unit code v; rw [h]
@[simp] theorem State.log_stamp : (s.log kind unit code v).stamp = s.stamp := by
  obtain ⟨_, _, _, _, _, _, h⟩ := s.log_frame kind unit code v; rw [h]
@[simp] theorem State.log_comm : (s.log kind unit code v).comm = s.comm := by
  obtain ⟨_, _, _, _, _, _, h⟩ := s.log_frame kind unit code v; rw [h]
@[simp] theorem State.log_btes : (s.log kind unit code v).btes = s.btes := by
  obtain ⟨_, _, _, _, _, _, h⟩ := s.log_frame kind unit code v; rw [h]
@[simp] theorem State.log_celcen0Up : (s.log kind unit code v).celcen0Up = s.celcen0Up := by
  obtain ⟨_, _, _, _, _, _, h⟩ := s.log_frame kind unit code v; rw [h]
@[simp] theorem State.log_celcen1Up : (s.log kind unit code v).celcen1Up = s.celcen1Up := by
  obtain ⟨_, _, _, _, _, _, h⟩ := s.log_frame kind unit code v; rw [h]
@[simp] theorem State.log_deadDies : (s.log kind unit code v).deadDies = s.deadDies := by
  obtain ⟨_, _, _, _, _, _, h⟩ := s.log_frame kind unit code v; rw [h]

end

/-! ### Requests that a link faults (R18, R22, R122) -/

/-- The report of a request's fault with a link's cause. -/
def faultReport (q : Req) (c : Byte) : Resp :=
  { stamp := q.stamp, issuer := q.issuer, va := q.va, port := q.port, bytes := [], flag := false, cause := some (causeFor q.issuer c) }

theorem State.report_eq (s : State) (q : Req) (c : Byte) : s.report q c = { s with resps := s.resps ++ [faultReport q c] } := rfl

theorem State.foldl_faults (c : Byte) (qs : List Req) : ∀ s : State, qs.foldl (fun t q => (t.dropReq q).report q c) s =
    { s with reqs := s.reqs.filter (fun r => qs.all (fun q => r.stamp != q.stamp)), resps := s.resps ++ qs.map (faultReport · c) } := by
  induction qs with
  | nil => intro s; simp
  | cons q qs ih =>
    intro s
    rw [List.foldl_cons, ih]
    simp [State.report_eq, State.dropReq, List.filter_filter, Bool.and_comm]

/-- Each request that a link event faults leaves with a report, and nothing else changes. -/
theorem State.failReqs_eq (s : State) (p : Req → Bool) (c : Byte) : s.failReqs p c =
    { s with reqs := s.reqs.filter (fun r => (s.reqs.filter p).all (fun q => r.stamp != q.stamp)),
             resps := s.resps ++ (s.reqs.filter p).map (faultReport · c) } := s.foldl_faults c _

/-- None of the requests that fault is left. -/
theorem State.not_of_mem_failReqs {s : State} {p : Req → Bool} {c : Byte} {q : Req} (h : q ∈ (s.failReqs p c).reqs) : p q = false := by
  rw [State.failReqs_eq] at h
  obtain ⟨hq, hall⟩ := List.mem_filter.1 h
  by_contra hp
  have := List.all_eq_true.1 hall q (List.mem_filter.2 ⟨hq, by simpa using hp⟩)
  simp at this

/-- Each of them is reported. -/
theorem State.report_of_failReqs {s : State} {p : Req → Bool} {c : Byte} {q : Req} (h : q ∈ s.reqs) (hp : p q = true) :
    faultReport q c ∈ (s.failReqs p c).resps := by
  rw [State.failReqs_eq]
  exact List.mem_append_right _ (List.mem_map.2 ⟨q, List.mem_filter.2 ⟨h, hp⟩, rfl⟩)

/-- A failed link changes requests and responses alone. -/
theorem State.linkDown_frame (s : State) (ports : Port → Bool) (c : Byte) :
    ∃ qs rs, s.linkDown ports c = { s with reqs := qs, resps := rs } := by
  rw [State.linkDown, State.failReqs_eq]; exact ⟨_, _, rfl⟩

theorem State.not_of_mem_linkDown {s : State} {ports : Port → Bool} {c : Byte} {q : Req} (h : q ∈ (s.linkDown ports c).reqs) :
    ¬(q.issuer.here = true ∧ ports q.port = true) := by
  have := State.not_of_mem_failReqs (s := s) (p := fun q => q.issuer.here && ports q.port) (c := c) h
  simpa using this

/-- A report that is there already is no completion on its way, so that a failed link leaves it as it is. -/
theorem State.report_of_linkDown {s : State} {ports : Port → Bool} {c : Byte} {q : Req} (h : q ∈ s.reqs) (hi : q.issuer.here = true)
    (hp : ports q.port = true) : faultReport q c ∈ (s.linkDown ports c).resps := by
  have hr := State.report_of_failReqs (p := fun q => q.issuer.here && ports q.port) (c := c) h (by simp [hi, hp])
  exact List.mem_map.2 ⟨_, hr, by simp [faultReport]⟩

@[simp] theorem State.linkEvent_logSeq (s : State) (link : Nat) (c : Byte) (ports : Port → Bool) :
    (s.linkEvent link c ports).mgc.logSeq = s.mgc.logSeq + 1 := by
  obtain ⟨qs, rs, h⟩ := (s.log 4 link c.toNat (BitVec.ofNat 64 (s.outstanding ports))).linkDown_frame ports c
  rw [State.linkEvent, h]; exact s.log_logSeq 4 link c.toNat _

@[simp] theorem State.linkDown_logSeq (s : State) (ports : Port → Bool) (c : Byte) : (s.linkDown ports c).mgc.logSeq = s.mgc.logSeq := by
  obtain ⟨qs, rs, h⟩ := s.linkDown_frame ports c; rw [h]

/-- A link event: a record, and the requests to its ports fault. -/
theorem State.linkLost_linkEvent (s : State) (link : Nat) (c : Byte) (ports : Port → Bool) : linkLost s (s.linkEvent link c ports) ports c := by
  refine ⟨by simp, fun q hq => State.not_of_mem_linkDown hq, fun q hq hi hp => ⟨faultReport q c, ?_, rfl, rfl, rfl⟩⟩
  exact State.report_of_linkDown (by simpa using hq) hi hp

/-! ### The Isaud link (R18) -/

theorem State.completes_isaudLinkDown {s : State} (h : s.isaudUp = true) :
    ∃ t, Completes .isaudLinkDown s t ∧ t.isaudUp = false ∧ t.hostOps = [] ∧ linkLost s t (· == .host) 0xB0 ∧
      ∀ q ∈ t.reqs, ∀ n, q.stage ≠ .inHost n := by
  obtain ⟨hlog, hgone, hreport⟩ := s.linkLost_linkEvent 0 0xB0 (· == .host)
  have hup : ¬(!s.isaudUp) = true := by simp [h]
  refine ⟨_, congrArg Host.Outcome.next (if_neg hup), rfl, rfl,
    ⟨hlog, fun q hq => hgone q (List.mem_of_mem_filter hq), hreport⟩, fun q hq n hn => ?_⟩
  have := (List.mem_filter.1 hq).2
  simp [hn] at this

/-! ### The Celcen ports (R22) -/

theorem State.completes_bothDown {s : State} (h : s.celcen0Up = true ∨ s.celcen1Up = true) :
    ∃ t, Completes .celcenBothPortsDown s t ∧ t.celcen0Up = false ∧ t.celcen1Up = false ∧
      t.mgc.logSeq = s.mgc.logSeq + (if s.celcen0Up then 1 else 0) + (if s.celcen1Up then 1 else 0) ∧
      ∀ q ∈ t.reqs, ¬(q.issuer.here = true ∧ Port.isPeer q.port = true) := by
  have hup : (s.celcen0Up || s.celcen1Up) = true := by simpa using h
  refine ⟨s.bothDown, rfl, ?_⟩
  rw [State.bothDown, if_pos hup]
  refine ⟨rfl, rfl, ?_, fun q hq => State.not_of_mem_linkDown hq⟩
  rw [State.linkDown_logSeq]
  cases s.celcen0Up <;> cases s.celcen1Up <;> simp

theorem State.bothDown_of_down {s : State} (h0 : s.celcen0Up = false) (h1 : s.celcen1Up = false) : s.bothDown = s := by
  simp [State.bothDown, h0, h1]

theorem State.formedPath_congr {s t : State} (h : t.comm.paths = s.comm.paths) (p : Port) : t.formedPath p = s.formedPath p := by
  cases p <;> simp [State.formedPath, h]

theorem State.drains_congr {s t : State} (hr : t.reqs = s.reqs) (hp : t.comm.paths = s.comm.paths) (b : Bool) (n : Nat) :
    t.drains b n = s.drains b n := by
  simp [State.drains, hr, State.formedPath_congr hp]

/-- A path that the communicator set on the failed port uses the other one, once no request is in flight on it. -/
theorem State.pathOf_moved {t : State} {p : Port} {failed : Bool} {n : Nat} (hm : t.comm.moved = some (failed, n))
    (hf : t.formedPath p = some failed) : t.pathOf p = some (if t.drains failed n then failed else !failed) := by
  cases hd : t.drains failed n <;> simp [State.pathOf, hm, hf, hd]

theorem State.completes_celcenPortFail {s : State} {second : Bool} (hup : (if second then s.celcen1Up else s.celcen0Up) = true)
    (hother : (if second then s.celcen0Up else s.celcen1Up) = true) :
    ∃ t, Completes (.celcenPortFail second) s t ∧ t.reqs = s.reqs ∧ t.comm = { s.comm with moved := some (second, s.stamp) } ∧
      (∀ r, s.formedPath (.peer r) = some second → t.peerPath r = some (if s.drains second s.stamp then second else !second)) ∧
      (if second then t.celcen1Up else t.celcen0Up) = false ∧ (if second then t.celcen0Up else t.celcen1Up) = true ∧
      t.mgc.logSeq = s.mgc.logSeq + 1 := by
  set u := s.log 4 (if second then 2 else 1) (if second then 0xB8 else 0xB4) 0 with hu
  set t : State := { u with celcen0Up := u.celcen0Up && second, celcen1Up := u.celcen1Up && !second,
                            comm := { u.comm with moved := some (second, u.stamp) } } with ht
  have hreqs : t.reqs = s.reqs := by simp [ht, hu]
  have hcomm : t.comm = { s.comm with moved := some (second, s.stamp) } := by simp [ht, hu]
  have hpaths : t.comm.paths = s.comm.paths := by rw [hcomm]
  refine ⟨t, ?_, hreqs, hcomm, fun r hr => ?_, ?_, ?_, by simp [ht, hu]⟩
  · cases second <;> simp_all [Completes, exec, execCelcenPortFail]
  · rw [State.peerPath, State.pathOf_moved (by rw [hcomm]) (by rw [State.formedPath_congr hpaths, hr]), State.drains_congr hreqs hpaths]
  · cases second <;> simp [ht]
  · cases second <;> simp_all

theorem State.completes_celcenPortFail_again {s : State} {second : Bool} (h : (if second then s.celcen1Up else s.celcen0Up) = false) :
    Completes (.celcenPortFail second) s s := by
  cases second <;> simp_all [Completes, exec, execCelcenPortFail]


/-! ### Peers, dies and completions that do not come (R22, R122) -/

theorem NSet.mem_ins (l : List Nat) (k : Nat) : k ∈ NSet.ins l k := by
  induction l with
  | nil => simp [NSet.ins]
  | cons j l ih =>
    simp only [NSet.ins]
    split_ifs with h1 h2
    · simp
    · simp [h2]
    · exact List.mem_cons_of_mem _ ih

theorem State.completes_peerDeviceReset {s : State} {r : Nat} {b : Bool} (hb : s.peerPath r = some b) (hr : s.deadPeers.contains r = false) :
    ∃ t, Completes (.peerDeviceReset r) s t ∧ t.deadPeers.contains r = true ∧ linkLost s t (· == .peer r) 0xBF := by
  set u := s.linkEvent (if b then 2 else 1) 0xBF (· == .peer r) with hu
  refine ⟨{ u with deadPeers := NSet.ins u.deadPeers r }, ?_, List.contains_iff_mem.2 (NSet.mem_ins _ _), hu ▸ s.linkLost_linkEvent _ 0xBF _⟩
  simp only [Completes, exec, execPeerDeviceReset, hb, hr]
  rfl

theorem State.completes_peerDeviceReset_again {s : State} {r : Nat} (h : s.peerPath r = none ∨ s.deadPeers.contains r = true) :
    Completes (.peerDeviceReset r) s s := by
  rcases h with h | h
  · simp [Completes, exec, execPeerDeviceReset, h]
  · cases hb : s.peerPath r with
    | none => simp [Completes, exec, execPeerDeviceReset, hb]
    | some b => simp only [Completes, exec, execPeerDeviceReset, hb, h, if_true]

@[simp] theorem State.failReqs_logSeq (s : State) (p : Req → Bool) (c : Byte) : (s.failReqs p c).mgc.logSeq = s.mgc.logSeq := by
  rw [State.failReqs_eq]
@[simp] theorem State.failReqs_deadDies (s : State) (p : Req → Bool) (c : Byte) : (s.failReqs p c).deadDies = s.deadDies := by
  rw [State.failReqs_eq]
@[simp] theorem State.failReqs_btes (s : State) (p : Req → Bool) (c : Byte) : (s.failReqs p c).btes = s.btes := by rw [State.failReqs_eq]
@[simp] theorem State.failReqs_comm (s : State) (p : Req → Bool) (c : Byte) : (s.failReqs p c).comm = s.comm := by rw [State.failReqs_eq]

theorem State.cut_congr {s t : State} (hd : t.deadDies = s.deadDies) (hb : t.btes = s.btes) (i : Issuer) (p : Port) :
    t.cut (t.issuerDie i) p = s.cut (s.issuerDie i) p := by
  have hi : t.issuerDie i = s.issuerDie i := by cases i <;> simp [State.issuerDie, hb]
  simp [State.cut, hi, hd]

theorem State.completes_dieLinkFailure {s : State} {d : Nat} (h : s.deadDies.contains d = false) :
    ∃ t, Completes (.dieLinkFailure d) s t ∧ t.deadDies.contains d = true ∧ t.mgc.logSeq = s.mgc.logSeq + 1 ∧
      ∀ q ∈ t.reqs, q.issuer.here = true → (∀ i, q.issuer ≠ .bank i) → t.cut (t.issuerDie q.issuer) q.port = false := by
  refine ⟨_, congrArg Host.Outcome.next (if_neg (Bool.eq_false_iff.1 h)), ?_, ?_, fun q hq hi hb => ?_⟩
  · simpa using NSet.mem_ins s.deadDies d
  · simp
  · have hmiss := State.not_of_mem_failReqs hq
    rw [State.cut_congr (s := { s with deadDies := NSet.ins s.deadDies d }) (by simp) (by simp)]
    revert hmiss hb hi
    cases q.issuer <;> simp [Issuer.here]

/-- The oldest request to the host that has been out for 2^22 fc leaves with a record of link 0 and a report (log 63). -/
theorem State.completes_completionTimeout {s : State} {q : Req}
    (h : s.reqs.find? (fun q => q.port == .host && q.issuer.here && s.now - q.born ≥ 2 ^ 22) = some q) :
    ∃ t, Completes (.completionTimeout .host) s t ∧ t.reqs = s.reqs.filter (fun r => r.stamp != q.stamp) ∧
      t.mgc.logSeq = s.mgc.logSeq + 1 ∧
      ∃ r, t.resps = s.resps ++ [r] ∧ r.stamp = q.stamp ∧ r.issuer = q.issuer ∧ r.cause = some (causeFor q.issuer 0xB2) := by
  have hport : q.port = .host := by
    have := List.find?_some h
    simp only [Bool.and_eq_true, beq_iff_eq] at this
    exact this.1.1
  have hlink : s.linkOf q.port = some 0 := by rw [hport]; rfl
  have hstep : exec (.completionTimeout .host) s = .next (((s.log 4 0 0xB2 1).dropReq q).report q 0xB2) := by
    simp only [exec, execCompletionTimeout, h, State.failLink, hlink]
    rfl
  exact ⟨_, hstep, by simp [State.dropReq, State.report], by simp [State.dropReq, State.report], faultReport q 0xB2,
    by simp [State.report_eq], rfl, rfl, rfl⟩

theorem State.completes_completionTimeout_none {s : State} {p : Port}
    (h : s.reqs.find? (fun q => q.port == p && q.issuer.here && s.now - q.born ≥ 2 ^ 22) = none) : Completes (.completionTimeout p) s s := by
  simp only [Completes, exec, execCompletionTimeout, h]

/-! ### Requests of peers (R20, R21) -/

theorem State.completes_peerRead {s : State} {peer addr n pa : Nat} {b cm : Bool} (hb : s.peerPath peer = some b)
    (hlive : s.deadPeers.contains peer = false) (hup : s.celcen0Up = true) (hp : pieces addr n = [(addr, n)])
    (ht : s.translate (some (Config.peerVd peer)) addr .read 0x34 = .ok (pa, cm)) :
    ∃ t q, Completes (.peerRequestArrival peer addr (.read n)) s t ∧ t.reqs = s.reqs ++ [q] ∧ q.issuer = .peer peer ∧
      q.stage = .inPeer peer ∧ q.key = hbmKey pa ∧ q.act = .read n ∧ t.mem = s.mem := by
  have hstep : exec (.peerRequestArrival peer addr (.read n)) s = .next (s.enter (.peer peer) (.inPeer peer)
      [{ key := hbmKey pa, va := 0, port := portOf (hbmKey pa), cmpr := cm, act := .read n }]).1 := by
    simp only [exec, execPeerRequestArrival, hb, hlive, hup, peerSize, hp, List.foldl_cons, List.foldl_nil, ht]
    rfl
  exact ⟨_, _, hstep, rfl, rfl, rfl, rfl, rfl, rfl⟩

theorem State.completes_peerRequest_unknown {s : State} {peer addr : Nat} {op : PeerOp} (h : s.peerPath peer = none) :
    Completes (.peerRequestArrival peer addr op) s s := by
  simp [Completes, exec, execPeerRequestArrival, h]

/-! ### Communicators (R21, R277) -/

/-- The record of a window that a communicator brings. -/
def windowOf (w : WindowSpec) : Window :=
  { n := w.n, ranks := w.ranks, op := w.op, fmt := w.fmt, rmode := w.rmode, elems := w.elems, home := hbmKey w.home,
    completion := hbmKey w.completion }

/-- A communicator's window joins those that are there. -/
def putWindow (m : AMap Window) (w : WindowSpec) : AMap Window := AMap.put m w.window (windowOf w)

theorem exec_communicatorFormation (rank n : Nat) (paths : List (Nat × Bool)) (ws : List WindowSpec) (s : State) :
    exec (.communicatorFormation rank n paths ws) s = .next { s with
      comm := { rank := rank, size := n, paths := paths, treeUp := true, moved := if s.celcen0Up == s.celcen1Up then none else some (s.celcen0Up, 0) },
      deadPeers := [], windows := ws.foldl putWindow [] } := rfl

/-- Windows of other numbers leave a window as it is. -/
theorem find_putWindows_other {k : Nat} (ws : List WindowSpec) : ∀ m : AMap Window, (∀ w ∈ ws, w.window ≠ k) →
    AMap.find (ws.foldl putWindow m) k = AMap.find m k := by
  induction ws with
  | nil => exact fun _ _ => rfl
  | cons w ws ih =>
    intro m h
    rw [List.foldl_cons, ih _ (fun v hv => h v (List.mem_cons_of_mem _ hv)), putWindow, AMap.find_put_other _ _ (h w (by simp)).symm]

/-- Of windows with different numbers each is found as it was put. -/
theorem find_putWindows (ws : List WindowSpec) : ∀ m : AMap Window, (ws.map (·.window)).Nodup → ∀ w ∈ ws,
    AMap.find (ws.foldl putWindow m) w.window = some (windowOf w) := by
  induction ws with
  | nil => simp
  | cons v ws ih =>
    intro m hnd w hw
    obtain ⟨hv, hnd⟩ := List.nodup_cons.1 hnd
    rcases List.mem_cons.1 hw with rfl | hw
    · rw [List.foldl_cons, find_putWindows_other ws _ (fun u hu he => hv (List.mem_map.2 ⟨u, hu, he⟩)), putWindow, AMap.find_put_same]
    · exact ih _ hnd w hw

theorem State.completes_reductionTreeDissolved {s : State} (h : s.comm.treeUp = true) :
    ∃ t, Completes .reductionTreeDissolved s t ∧ t.comm = { s.comm with treeUp := false } ∧ t.mgc.logSeq = s.mgc.logSeq + 1 ∧
      (∀ q ∈ t.reqs, ∀ w, q.stage ≠ .rp w) ∧
      ∀ q ∈ s.reqs, ∀ w, q.stage = .rp w → ∃ r ∈ t.resps, r.stamp = q.stamp ∧ r.cause = some (causeFor q.issuer 0xBE) := by
  have hup : ¬(!s.comm.treeUp) = true := by simp [h]
  refine ⟨_, congrArg Host.Outcome.next (if_neg hup), by simp, by simp, fun q hq w hw => ?_, fun q hq w hw => ?_⟩
  · have := State.not_of_mem_failReqs hq
    simp [inRp, hw] at this
  · exact ⟨faultReport q 0xBE, State.report_of_failReqs (by simpa using hq) (by simp [inRp, hw]), rfl, rfl⟩

/-! ### The obligation -/

/-- Settles O49: each event by the requests that it faults and by what it leaves of the paths; an event that has happened changes nothing. -/
theorem linkEvents : Obligations.LinkEvents := by
  intro s
  refine ⟨State.completes_isaudLinkDown, fun h => ?_, fun h => ?_, fun h => ?_, State.completes_bothDown,
    fun h0 h1 => congrArg Host.Outcome.next (State.bothDown_of_down h0 h1), fun _ => State.completes_celcenPortFail,
    fun _ => State.completes_celcenPortFail_again, fun _ _ => State.completes_peerDeviceReset, fun _ => State.completes_peerDeviceReset_again,
    fun d h => ?_, fun _ => State.completes_dieLinkFailure, fun _ => State.completes_completionTimeout,
    fun _ => State.completes_completionTimeout_none, fun _ _ _ _ _ _ => State.completes_peerRead, fun _ _ _ => State.completes_peerRequest_unknown,
    fun rank n paths ws hws => ?_, fun h => ?_, State.completes_reductionTreeDissolved⟩
  · simp [Completes, exec, execIsaudLinkDown, h]
  · simp [Completes, exec, execIsaudLinkReconnect, h]
  · simp [Completes, exec, execIsaudLinkReconnect, h]
  · exact congrArg Host.Outcome.next (if_pos h)
  · refine ⟨_, exec_communicatorFormation rank n paths ws s, by simp, rfl, rfl, fun w hw => ?_⟩
    exact ⟨(windowOf w), find_putWindows ws [] hws w hw, rfl, rfl, rfl, rfl, rfl⟩
  · simp [Completes, exec, execReductionTreeDissolved, h]

end Sys2Proof.Machine

/-! # Proofs: the management controller (O54) -/

namespace Sys2Proof.Machine

open Sys2Proof Sys2Proof.Claims

/-- A module in WAIT_IMAGE, its link up and its staging window open, with one control queue whose descriptor stands at the window's first offset
and whose WIDX is 2^48. -/
def endedQueueInWindow : State :=
  { State.reset with
    mgc := { State.reset.mgc with boot := .waitImage }, isaudUp := true, mem := [(apKey 0x10000006, 1)],
    queues := [(0, { controlQueue with desc := 0x10000000 })] }

theorem endedQueueInWindow_open : endedQueueInWindow.isaudUp = true ∧ endedQueueInWindow.mgc.windowOpen = true := ⟨rfl, rfl⟩

/-- The write of a zero to the window's first word, which brings QUEUE_DEAD (R41). -/
def zeroWordWritten : State := (endedQueueInWindow.apWrite 0x10000000 (leBytes 8 0)).deadQueues (apKey 0x10000000)

theorem exec_zeroWordWritten : exec (.registerWrite 0x10000000 0) endedQueueInWindow = .next zeroWordWritten := rfl

/-- The queue's STAT has taken STATE DEAD (R36, R41). -/
theorem stat_zeroWordWritten : Memory.get zeroWordWritten.mem (apKey 0x10000060) = 3 := by decide +kernel

/-- The window's own bytes are all that the write itself sets. -/
theorem stat_before : Memory.get (Memory.setBytes endedQueueInWindow.mem (sramKey 0) (leBytes 8 0)) (apKey 0x10000060) = 0 := by decide +kernel

/-- Refutes O54: a register write is followed by QUEUE_DEAD (R41) at any offset. Where a queue's descriptor lies in the granule of the aperture that
is written and its WIDX has reached 2^48, the queue's STAT is written as well, so that a write of the open staging window sets more than its own
bytes. The statement keeps such queues away for the offsets 0x08 and 0x30, and not for the window. In the counterexample the control queue's descriptor
stands at the window's first offset; no run from reset brings one there (the control queue's stands at 0x200), so that what is wrong is the
clause, which lacks that hypothesis, and not the write. -/
theorem not_management : ¬ Obligations.Management := by
  intro h
  obtain ⟨_, _, _, _, hregs, _⟩ := h endedQueueInWindow 0
  obtain ⟨hup, hopen⟩ := endedQueueInWindow_open
  obtain ⟨_, _, _, _, _, hwindow⟩ := hregs 0 hup
  obtain ⟨t, hstep, hmem⟩ := (hwindow 0x10000000 (by decide) (by decide) (by decide)).1 hopen
  obtain rfl : zeroWordWritten = t := Host.Outcome.next.inj (exec_zeroWordWritten.symm.trans hstep)
  have hstat := stat_zeroWordWritten
  rw [hmem] at hstat
  exact absurd (stat_before.symm.trans hstat) (by decide)

end Sys2Proof.Machine

/-! # Proofs: reset (O55) -/

namespace Sys2Proof.Machine

open Sys2Proof

@[simp] theorem State.region_reset (r : Nat) : State.reset.region r = Region.reset := rfl

@[simp] theorem Pacer.rx_reset (i : XReg) : Pacer.reset.rx i = 0 := by
  unfold Pacer.rx
  split
  · rfl
  · exact Vector.getElem_replicate _

@[simp] theorem Pacer.rc_reset (i : CReg) : Pacer.reset.rc i = Cap.null := by
  unfold Pacer.rc
  split
  · rfl
  · exact Vector.getElem_replicate _

/-- Settles O55: the module's fields are those of the reset record, and every region's Pacer is that of a region that nothing has touched. -/
theorem resetState : Obligations.ResetState := by
  refine ⟨rfl, rfl, rfl, rfl, rfl, rfl, rfl, rfl, rfl, rfl, rfl, rfl, State.reset_wf, fun r => ?_⟩
  rw [State.region_reset]
  exact ⟨rfl, rfl, Pacer.rx_reset, Pacer.rc_reset⟩

end Sys2Proof.Machine

/-! # Proofs: the boot states (O53) -/

namespace Sys2Proof.Machine

open Sys2Proof Sys2Proof.Claims

/-! ### The keys that a write lists -/

theorem Memory.get_of_unlisted {m : List Host.Cell} {k : Nat} (h : ∀ p ∈ m, p.1 ≠ k) : Memory.get m k = 0 := by
  induction m with
  | nil => rfl
  | cons p m ih =>
    obtain ⟨hp, hm⟩ := List.forall_mem_cons.1 h
    rw [Memory.get, if_neg (Ne.symm hp), ih hm]

theorem Memory.key_of_mem_setBytes {p : Host.Cell} (bs : List Byte) : ∀ {m : List Host.Cell} {k : Nat},
    p ∈ Memory.setBytes m k bs → p ∈ m ∨ (k ≤ p.1 ∧ p.1 < k + bs.length) := by
  induction bs with
  | nil => exact fun h => .inl h
  | cons b bs ih =>
    intro m k h
    rw [Memory.setBytes_cons] at h
    rw [List.length_cons]
    rcases ih h with hset | hlater
    · exact (Memory.mem_set hset).imp_right fun ⟨hp, _⟩ => by rw [hp]; omega
    · right; omega

theorem Memory.mem_clear {m : List Host.Cell} {lo hi : Nat} {p : Host.Cell} (h : p ∈ Memory.clear m lo hi) :
    p ∈ m ∧ ¬(lo ≤ p.1 ∧ p.1 < hi) := by
  simpa [Memory.clear, imp_iff_not_or] using h

theorem State.key_of_mem_put {s : State} {k : Nat} {bs : List Byte} {p : Host.Cell} (h : p ∈ (s.put k bs).mem) :
    p ∈ s.mem ∨ (k ≤ p.1 ∧ p.1 < k + bs.length) := Memory.key_of_mem_setBytes bs h

/-! ### Where the log ring lies (R28, R31) -/

/-- The log ring, where one is named, lies in HOST space, as LOG_RING has it. -/
def State.ringInHost (s : State) : Prop :=
  ∀ a, s.mgc.ringAddr = some a → 0 < s.mgc.ringCount ∧ a + 32 * s.mgc.ringCount ≤ 2 ^ 48

@[simp] theorem logBytes_length (seq cyc : Nat) (e : LogRec) : (logBytes seq cyc e).length = 32 := by simp [logBytes, leBytes]

/-- A log record lists keys of HOST space alone. -/
theorem State.key_of_mem_log {s : State} {kind unit code : Nat} {v : Word} (hring : s.ringInHost) {p : Host.Cell}
    (hp : p ∈ (s.log kind unit code v).mem) : p ∈ s.mem ∨ (hostKey 0 ≤ p.1 ∧ p.1 < peerKey 0) := by
  unfold State.log at hp
  cases ha : s.mgc.ringAddr with
  | none => rw [ha] at hp; exact .inl hp
  | some a =>
    rw [ha] at hp
    obtain ⟨hcount, hend⟩ := hring a ha
    have hslot := Nat.mod_lt s.mgc.logSeq hcount
    refine (State.key_of_mem_put hp).imp_right fun ⟨hlo, hhi⟩ => ?_
    rw [logBytes_length] at hhi
    unfold hostKey at hlo hhi ⊢
    unfold peerKey
    omega

theorem State.key_of_mem_enterBoot {s : State} {b : Boot} (hring : s.ringInHost) {p : Host.Cell} (hp : p ∈ (s.enterBoot b).mem) :
    p ∈ s.mem ∨ (hostKey 0 ≤ p.1 ∧ p.1 < peerKey 0) :=
  State.key_of_mem_log (s := s.onMgc fun m => { m with boot := b }) hring hp

/-- At READY, SRAM, HBM and the control queue's ring read 0 where the log ring lies in HOST space (R23, R36). -/
theorem State.get_enterReady {s : State} (hring : s.ringInHost) {k : Nat}
    (hk : isSram k = true ∨ isHbm k = true ∨ (apKey 0x10000 ≤ k ∧ k < apKey 0x14000)) : Memory.get s.enterReady.mem k = 0 := by
  refine Memory.get_of_unlisted fun p hp hpk => ?_
  subst hpk
  rcases State.key_of_mem_enterBoot (s := { s.scrubAll.zeroControl with queues := _, slotTables := _, regions := _ }) hring hp with hp | hp
  · obtain ⟨hp, hoff⟩ := Memory.mem_clear hp
    obtain ⟨hp, -⟩ := Memory.mem_clear hp
    have hkept := (List.mem_filter.1 hp).2
    rcases hk with hk | hk | hk
    · simp [hk] at hkept
    · simp [hk] at hkept
    · exact hoff hk
  · simp only [isSram, isHbm, Bool.and_eq_true, decide_eq_true_eq] at hk
    unfold hostKey peerKey at hp
    unfold apKey at hk
    omega

/-- The clause of O53 that fails, with the hypothesis that it lacks: an INIT that succeeds leaves these bytes 0 where the log ring lies in HOST space. -/
theorem State.completes_mgcInit_zeroes {s : State} (hb : s.mgc.boot = .init) (hring : s.ringInHost) : ∃ t, Completes (.mgcInit .ok) s t ∧
    ∀ k, isSram k = true ∨ isHbm k = true ∨ (apKey 0x10000 ≤ k ∧ k < apKey 0x14000) → Memory.get t.mem k = 0 := by
  have hinit : ¬(s.mgc.boot != .init) = true := by simp [hb]
  refine ⟨_, congrArg Host.Outcome.next (if_neg hinit), fun k hk => State.get_enterReady ?_ hk⟩
  split
  · exact hring
  · exact hring

/-- The module at INIT with a log ring of 64 records at host address 0x1000. -/
theorem meets_completes_mgcInit_zeroes :
    let s : State := { State.reset with mgc := { State.reset.mgc with boot := .init, ringAddr := some 0x1000, ringCount := 64 } }
    ∃ t, Completes (.mgcInit .ok) s t ∧ Memory.get t.mem (apKey 0x10000) = 0 := by
  intro s
  have hring : s.ringInHost := by
    rintro a ⟨⟩
    decide
  obtain ⟨t, hstep, hzero⟩ := State.completes_mgcInit_zeroes (s := s) rfl hring
  exact ⟨t, hstep, hzero _ (.inr (.inr (by decide)))⟩

/-! ### The obligation -/

/-- A module at INIT whose log ring, of one record, lies not in HOST space but in the aperture's memory, where the control queue's ring begins. -/
def logRingAtControlRing : State :=
  { State.reset with
    mgc := { State.reset.mgc with boot := .init, ringAddr := some (apKey 0x10000 - hostKey 0), ringCount := 1 } }

theorem advances_logRingAtControlRing : logRingAtControlRing.advances = false := by decide +kernel

theorem exec_logRingAtControlRing : exec (.mgcInit .ok) logRingAtControlRing = .next logRingAtControlRing.enterReady := by
  have hfuses : ¬logRingAtControlRing.advances = true := by simp [advances_logRingAtControlRing]
  exact congrArg (fun u : State => Host.Outcome.next u.enterReady) (if_neg hfuses)

/-- The first byte of the control queue's ring is that of the SEQ of the record of the entry to READY. -/
theorem get_logRingAtControlRing : Memory.get logRingAtControlRing.enterReady.mem (apKey 0x10000) = 1 := by decide +kernel

/-- Refutes O53: the statement is for every state, and one of its clauses has the control queue's ring read 0 at READY. The record of the entry to READY
is written after the ring has been zeroed, so that the clause fails where the log ring lies over the control queue's. LOG_RING alone names a
log ring, and it takes none outside HOST space, so that no run from reset leads there: what is wrong is the clause, which lacks that hypothesis, and not
the order of the boot states. With the hypothesis the clause holds (`State.completes_mgcInit_zeroes`). -/
theorem not_bootSequence : ¬ Obligations.BootSequence := by
  intro h
  obtain ⟨_, _, _, _, _, _, _, hinit, _⟩ := h logRingAtControlRing
  obtain ⟨⟨t, hstep, _, _, _, _, hzero, _⟩, _⟩ := hinit rfl
  obtain rfl : logRingAtControlRing.enterReady = t := Host.Outcome.next.inj (exec_logRingAtControlRing.symm.trans hstep)
  have hring := hzero (apKey 0x10000) (.inr (.inr (by decide)))
  exact absurd (get_logRingAtControlRing.symm.trans hring) (by decide)

end Sys2Proof.Machine

/-! # Proofs: writes by the units of the device, queues and outcome entries -/

namespace Sys2Proof.Machine

open Sys2Proof Sys2Proof.Claims

/-! ### Finite maps -/

theorem AMap.find_mapV {α : Type} (m : AMap α) (f : α → α) (k : Nat) : AMap.find (AMap.mapV m f) k = (AMap.find m k).map f := by
  induction m with
  | nil => rfl
  | cons p m ih =>
    simp only [AMap.mapV, List.map_cons, AMap.find] at ih ⊢
    split
    · rfl
    · exact ih

theorem AMap.find_del_other {α : Type} (m : AMap α) {k j : Nat} (h : j ≠ k) : AMap.find (AMap.del m k) j = AMap.find m j := by
  induction m with
  | nil => rfl
  | cons p m ih =>
    simp only [AMap.del, List.filter_cons, bne_iff_ne] at ih ⊢
    split
    · simp only [AMap.find, ih]
    · next hp =>
      obtain rfl : p.1 = k := not_not.1 hp
      simp only [AMap.find, if_neg h, ih]

theorem AMap.mem_of_find {α : Type} {m : AMap α} {k : Nat} {v : α} (h : AMap.find m k = some v) : (k, v) ∈ m := by
  induction m with
  | nil => cases h
  | cons p m ih =>
    obtain ⟨j, w⟩ := p
    simp only [AMap.find] at h
    split at h
    · next hk =>
      cases h
      exact hk ▸ List.mem_cons_self
    · exact List.mem_cons_of_mem _ (ih h)

/-! ### Queues -/

@[simp] theorem State.putQueue_queue (s : State) (id : Nat) (q : Queue) : (s.putQueue id q).queue id = some q := AMap.find_put_same _ _ _

theorem State.putQueue_queue_other (s : State) {id j : Nat} (q : Queue) (h : j ≠ id) : (s.putQueue id q).queue j = s.queue j :=
  AMap.find_put_other _ _ h

/-! ### What a write by a unit of the device leaves (R52, R140, R177, R374) -/

/-- A region whose Pacer has been woken, if it was waiting at a monitor: nothing but that wait differs. -/
def Region.Woken (g h : Region) : Prop := h = g ∨ (∃ m, g.wait = .monitor m) ∧ h = { g with wait := .none }

/-- A queue after it has been found to have reached its end, or not: nothing but STATE and its SEQ differs. -/
def Queue.Restated (q r : Queue) : Prop := ∃ st n, r = { q with state := st, seqAt := n }

/-- t is s after writes by units of the device: memory and its metadata may differ, derived regions have taken note of it, Pacers that monitor a
granule may have woken, the MGC may have logged failed accesses, and queues may have changed their STATE; nothing else has changed. -/
structure State.Wrote (s t : State) : Prop where
  rest : ({ t with
    mem := s.mem, tags := s.tags, bad := s.bad, badMeta := s.badMeta, merge := s.merge, dirty := s.dirty, decls := s.decls, mgc := s.mgc,
    queues := s.queues, regions := s.regions } : State) = s
  wf : Memory.wf s.mem = true → Memory.wf t.mem = true
  woken : ∀ r, (s.region r).Woken (t.region r)
  queue : ∀ id q, s.queue id = some q → ∃ r, t.queue id = some r ∧ q.Restated r
  noQueue : ∀ id, s.queue id = none → t.queue id = none

theorem Region.Woken.refl (g : Region) : g.Woken g := .inl rfl

theorem Region.Woken.trans {g h k : Region} (h1 : g.Woken h) (h2 : h.Woken k) : g.Woken k := by
  rcases h1 with rfl | ⟨hm, rfl⟩
  · exact h2
  · rcases h2 with rfl | ⟨⟨m, hm'⟩, rfl⟩
    · exact .inr ⟨hm, rfl⟩
    · cases hm'

theorem Region.Woken.pacer {g h : Region} (w : g.Woken h) : h.pacer = g.pacer := by
  rcases w with rfl | ⟨_, rfl⟩ <;> rfl

theorem Queue.Restated.refl (q : Queue) : q.Restated q := ⟨q.state, q.seqAt, rfl⟩

theorem Queue.Restated.trans {q r x : Queue} (h1 : q.Restated r) (h2 : r.Restated x) : q.Restated x := by
  obtain ⟨_, _, rfl⟩ := h1
  obtain ⟨st, n, rfl⟩ := h2
  exact ⟨st, n, rfl⟩

theorem State.Wrote.refl (s : State) : s.Wrote s :=
  ⟨rfl, id, fun _ => .refl _, fun _ q h => ⟨q, h, .refl q⟩, fun _ => id⟩

theorem State.Wrote.trans {s t u : State} (h1 : s.Wrote t) (h2 : t.Wrote u) : s.Wrote u := by
  refine ⟨?_, h2.wf ∘ h1.wf, fun r => (h1.woken r).trans (h2.woken r), fun id q hq => ?_, fun id => h2.noQueue id ∘ h1.noQueue id⟩
  · have h := congrArg (fun x : State => ({ x with
      mem := s.mem, tags := s.tags, bad := s.bad, badMeta := s.badMeta, merge := s.merge, dirty := s.dirty, decls := s.decls, mgc := s.mgc,
      queues := s.queues, regions := s.regions } : State)) h2.rest
    exact h.trans h1.rest
  · obtain ⟨r, hr, hqr⟩ := h1.queue id q hq
    obtain ⟨x, hx, hrx⟩ := h2.queue id r hr
    exact ⟨x, hx, hqr.trans hrx⟩

/-- A change of memory with its metadata, of derived regions and of the log alone. -/
theorem State.Wrote.of_fields {s t : State}
    (rest : ({ t with
      mem := s.mem, tags := s.tags, bad := s.bad, badMeta := s.badMeta, merge := s.merge, dirty := s.dirty, decls := s.decls, mgc := s.mgc } :
      State) = s) (wf : Memory.wf s.mem = true → Memory.wf t.mem = true) : s.Wrote t := by
  have hregs : t.regions = s.regions := by have e := congrArg State.regions rest; exact e
  have hqs : t.queues = s.queues := by have e := congrArg State.queues rest; exact e
  refine ⟨by rw [← hregs, ← hqs]; exact rest, wf, fun r => ?_, fun id q hq => ⟨q, ?_, .refl q⟩, fun id hq => ?_⟩
  · have hr : t.region r = s.region r := by simp only [State.region, hregs]
    exact .inl hr
  · simp only [State.queue, hqs]; exact hq
  · simp only [State.queue, hqs]; exact hq

section
variable {s t : State} (h : s.Wrote t)
include h

theorem State.Wrote.cur : t.cur = s.cur := by have e := congrArg State.cur h.rest; exact e
theorem State.Wrote.now : t.now = s.now := by have e := congrArg State.now h.rest; exact e
theorem State.Wrote.jnl : t.jnl = s.jnl := by have e := congrArg State.jnl h.rest; exact e
theorem State.Wrote.vds : t.vds = s.vds := by have e := congrArg State.vds h.rest; exact e
theorem State.Wrote.tasks : t.tasks = s.tasks := by have e := congrArg State.tasks h.rest; exact e
theorem State.Wrote.cancels : t.cancels = s.cancels := by have e := congrArg State.cancels h.rest; exact e
theorem State.Wrote.heats : t.heats = s.heats := by have e := congrArg State.heats h.rest; exact e
theorem State.Wrote.btes : t.btes = s.btes := by have e := congrArg State.btes h.rest; exact e
theorem State.Wrote.reqs : t.reqs = s.reqs := by have e := congrArg State.reqs h.rest; exact e
theorem State.Wrote.resps : t.resps = s.resps := by have e := congrArg State.resps h.rest; exact e
theorem State.Wrote.task (i : Nat) : t.task i = s.task i := by rw [State.task, h.tasks, State.task]
theorem State.Wrote.pacer (r : Nat) : (t.region r).pacer = (s.region r).pacer := (h.woken r).pacer

end

/-! ### The operations that write -/

theorem State.wrote_put (s : State) (k : Nat) (bs : List Byte) : s.Wrote (s.put k bs) := by
  refine .of_fields ?_ (s.put_wf k bs)
  obtain ⟨m, tg, b, bm, d, h⟩ := s.put_frame k bs
  rw [h]

theorem State.wrote_log (s : State) (kind unit code : Nat) (v : Word) : s.Wrote (s.log kind unit code v) := by
  refine .of_fields ?_ (s.log_wf kind unit code v)
  obtain ⟨m, tg, b, bm, d, old, h⟩ := s.log_frame kind unit code v
  rw [h]

theorem State.wrote_wake (s : State) (g : Nat) : s.Wrote (s.wake g) := by
  refine ⟨rfl, id, fun r => ?_, fun _ q h => ⟨q, h, .refl q⟩, fun _ => id⟩
  simp only [State.region, State.wake, AMap.findD, AMap.find_mapV]
  cases AMap.find s.regions r with
  | none => exact .refl _
  | some x =>
    simp only [Option.map_some, Option.getD_some]
    split
    · next hw => exact .inr ⟨⟨g, eq_of_beq hw⟩, rfl⟩
    · exact .refl _

theorem State.wrote_foldl {α : Type} {f : State → α → State} (hf : ∀ (s : State) (a : α), s.Wrote (f s a)) (l : List α) :
    ∀ s : State, s.Wrote (l.foldl f s) := by
  induction l with
  | nil => exact .refl
  | cons a l ih => exact fun s => (hf s a).trans (ih (f s a))

/-- The marks that a write leaves besides its bytes: derived regions, dirty bits and merge flags alone. -/
theorem State.marks_frame (s : State) (k n : Nat) (new : List Byte) (c : Bool) :
    ∃ d di m, ((s.maintain k new).touch k n).noteMerge k c = { s with decls := d, dirty := di, merge := m } := by
  unfold State.noteMerge State.touch State.maintain
  split <;> split <;> split <;> exact ⟨_, _, _, rfl⟩

theorem State.wrote_applyWrite (s : State) (k : Nat) (bs : List (Byte × Byte)) (c : Bool) : s.Wrote (s.applyWrite k bs c) := by
  refine State.Wrote.trans ?_ (State.wrote_foldl State.wrote_wake (granulesOf k bs.length) _)
  obtain ⟨d, di, m, h⟩ := s.marks_frame k bs.length (s.merged k bs) c
  rw [h]
  exact .of_fields rfl (Memory.setBytes_wf _ _ _)

@[simp] theorem State.applyWrite_queues (s : State) (k : Nat) (bs : List (Byte × Byte)) (c : Bool) : (s.applyWrite k bs c).queues = s.queues := by
  have hwake : ∀ (gs : List Nat) (t : State), (gs.foldl State.wake t).queues = t.queues := by
    intro gs
    induction gs with
    | nil => exact fun _ => rfl
    | cons g gs ih => exact fun t => ih (t.wake g)
  obtain ⟨d, di, m, h⟩ := s.marks_frame k bs.length (s.merged k bs) c
  simp only [State.applyWrite, hwake, h]

theorem State.devWrite_ok {s t : State} {l : Nat × Bool} {bs : List Byte} (h : s.devWrite l bs = .ok t) : t = s.applyWrite l.1 (plain bs) l.2 := by
  unfold State.devWrite at h
  split at h
  · cases h
  · exact (Except.ok.inj h).symm

theorem State.wrote_devWrites (ws : List ((Nat × Bool) × List Byte)) :
    ∀ s : State, s.Wrote (s.devWrites ws).1 ∧ (s.devWrites ws).1.queues = s.queues := by
  induction ws with
  | nil => exact fun s => ⟨.refl s, rfl⟩
  | cons w ws ih =>
    intro s
    simp only [State.devWrites]
    split
    · exact ⟨.refl s, rfl⟩
    · next t ht =>
      rw [State.devWrite_ok ht]
      obtain ⟨hw, hq⟩ := ih (s.applyWrite w.1.1 (plain w.2) w.1.2)
      exact ⟨(s.wrote_applyWrite _ _ _).trans hw, hq.trans (s.applyWrite_queues _ _ _)⟩

@[simp] theorem State.log_queues (s : State) (kind unit code : Nat) (v : Word) : (s.log kind unit code v).queues = s.queues := by
  obtain ⟨_, _, _, _, _, _, h⟩ := s.log_frame kind unit code v
  rw [h]

/-- A word of a descriptor that the device writes, or whose write fails. -/
theorem State.wrote_putDesc (s : State) (q : Queue) (o v : Nat) : s.Wrote (s.putDesc q o v) ∧ (s.putDesc q o v).queues = s.queues := by
  obtain ⟨hw, hq⟩ := State.wrote_devWrites (s.descWords q [(o, v)]) s
  unfold State.putDesc
  split
  · next he => rw [he] at hw hq; exact ⟨hw, hq⟩
  · next he =>
    rw [he] at hw hq
    split
    · exact ⟨hw.trans (State.wrote_log _ _ _ _ _), (State.log_queues _ _ _ _ _).trans hq⟩
    · exact ⟨hw, hq⟩

@[simp] theorem State.putDesc_queue (s : State) (q : Queue) (o v id : Nat) : (s.putDesc q o v).queue id = s.queue id := by
  rw [State.queue, (s.wrote_putDesc q o v).2, State.queue]

/-- The queues after one of them has taken a state. -/
theorem State.queueState_queue (s : State) (id : Nat) (st : QState) (n j : Nat) :
    (s.queueState id st n).queue j = if j = id then (s.queue id).map (fun q => { q with state := st, seqAt := n }) else s.queue j := by
  cases hq : s.queue id with
  | none =>
    simp only [State.queueState, hq]
    split
    · next h => exact h ▸ hq
    · rfl
  | some q =>
    simp only [State.queueState, hq, State.putDesc_queue]
    split
    · next h => exact h ▸ State.putQueue_queue _ _ _
    · next h => exact s.putQueue_queue_other _ h

theorem State.queueState_self {s : State} {id : Nat} {q : Queue} (hq : s.queue id = some q) (st : QState) (n : Nat) :
    (s.queueState id st n).queue id = some { q with state := st, seqAt := n } := by
  rw [State.queueState_queue, if_pos rfl, hq]
  rfl

theorem State.wrote_queueState (s : State) (id : Nat) (st : QState) (n : Nat) : s.Wrote (s.queueState id st n) := by
  cases hq : s.queue id with
  | none => simp only [State.queueState, hq]; exact .refl s
  | some q =>
    have hd := ((s.putQueue id { q with state := st, seqAt := n }).wrote_putDesc q 0x60 (statWord st n)).1
    have he : s.queueState id st n = (s.putQueue id { q with state := st, seqAt := n }).putDesc q 0x60 (statWord st n) := by
      simp only [State.queueState, hq]
    rw [← he] at hd
    refine ⟨?_, hd.wf, hd.woken, fun j x hx => ?_, fun j hj => ?_⟩
    · exact congrArg (fun x : State => { x with queues := s.queues }) hd.rest
    · rw [State.queueState_queue]
      split
      · next h =>
        subst h
        rw [hx]
        exact ⟨_, rfl, st, n, rfl⟩
      · exact ⟨x, hx, .refl x⟩
    · rw [State.queueState_queue]
      split
      · next h => rw [h, hq] at hj; cases hj
      · exact hj

/-! ### QUEUE_DEAD (R41) -/

/-- A queue is at its end where the granule of a key holds its WIDX. -/
def State.endsAt (s : State) (k : Nat) (q : Queue) : Bool :=
  q.state != .dead && (s.queueKey q q.desc).any (fun d => d / 16 == k / 16) && s.widx q ≥ 2 ^ 48

/-- What a write that touches key k of a state s makes of one of the queues of s, in t. -/
def State.deadStep (s : State) (k : Nat) (t : State) (p : Nat × Queue) : State := if s.endsAt k p.2 then t.queueState p.1 .dead p.2.r else t

theorem State.deadQueues_eq (s : State) (k : Nat) : s.deadQueues k = s.queues.foldl (s.deadStep k) s := rfl

theorem State.wrote_deadStep (s : State) (k : Nat) (t : State) (p : Nat × Queue) : t.Wrote (s.deadStep k t p) := by
  unfold State.deadStep
  split
  · exact t.wrote_queueState _ _ _
  · exact .refl t

theorem State.wrote_deadQueues (s : State) (k : Nat) : s.Wrote (s.deadQueues k) := State.wrote_foldl (s.wrote_deadStep k) _ s

theorem foldl_of_fixed {α β : Type} {f : β → α → β} {b : β} {l : List α} (h : ∀ a ∈ l, f b a = b) : l.foldl f b = b := by
  induction l with
  | nil => rfl
  | cons a l ih =>
    rw [List.foldl_cons, h a List.mem_cons_self]
    exact ih fun x hx => h x (List.mem_cons_of_mem _ hx)

theorem State.deadQueues_of_none {s : State} {k : Nat} (h : ∀ p ∈ s.queues, s.endsAt k p.2 = false) : s.deadQueues k = s := by
  rw [State.deadQueues_eq]
  exact foldl_of_fixed fun p hp => by simp [State.deadStep, h p hp]

theorem State.wrote_written (s : State) (k : Nat) : s.Wrote (s.written k) := by
  unfold State.written
  split
  · exact s.wrote_deadQueues k
  · exact .refl s

theorem State.written_of_none {s : State} {k : Nat} (h : ∀ p ∈ s.queues, s.endsAt k p.2 = false) : s.written k = s := by
  unfold State.written
  split
  · exact State.deadQueues_of_none h
  · rfl

/-! ### The accesses of the units of IOD-A (R374) -/

theorem State.wrote_unitFail (s : State) (unit : Nat) (c : Byte) (a : Nat) : s.Wrote (s.unitFail unit c a) := s.wrote_log _ _ _ _

/-- A unit's write goes granule by granule, up to the first that a port refuses. -/
def unitStep (acc : Except Byte (State × List Byte)) (p : Nat × Nat × Bool) : Except Byte (State × List Byte) :=
  match acc with
  | .error f => .error f
  | .ok (t, rest) =>
    match t.refuses p.1 (plain (rest.take p.2.1)) p.2.2 1 with
    | some f => .error f
    | none => .ok ((t.applyWrite p.1 (plain (rest.take p.2.1)) p.2.2).written p.1, rest.drop p.2.1)

theorem State.unitWrite_eq (s : State) (vd : Nat) (c : Cap) (a : Nat) (bs : List Byte) :
    s.unitWrite vd c a bs = match s.unitKeys vd c a bs.length permStore kindWrite Use.store with
      | .error f => .error f
      | .ok ks => (ks.foldl unitStep (.ok (s, bs))).map (·.1) := by
  unfold State.unitWrite
  cases s.unitKeys vd c a bs.length permStore kindWrite Use.store with
  | error f => rfl
  | ok ks =>
    show (match ks.foldl unitStep (.ok (s, bs)) with | .error f => Except.error f | .ok (t, _) => .ok t) = (ks.foldl unitStep (.ok (s, bs))).map (·.1)
    cases ks.foldl unitStep (.ok (s, bs)) <;> rfl

theorem unitStep_error (ks : List (Nat × Nat × Bool)) (f : Byte) : ks.foldl unitStep (.error f) = .error f :=
  foldl_of_fixed fun _ _ => rfl

theorem State.wrote_unitSteps (ks : List (Nat × Nat × Bool)) : ∀ {s t : State} {bs rest : List Byte},
    ks.foldl unitStep (.ok (s, bs)) = .ok (t, rest) → s.Wrote t := by
  induction ks with
  | nil =>
    intro s t bs rest h
    cases h
    exact .refl s
  | cons k ks ih =>
    intro s t bs rest h
    rw [List.foldl_cons] at h
    cases hr : s.refuses k.1 (plain (bs.take k.2.1)) k.2.2 1 with
    | some f =>
      have he : unitStep (.ok (s, bs)) k = .error f := by simp only [unitStep, hr]
      rw [he, unitStep_error] at h
      cases h
    | none =>
      have he : unitStep (.ok (s, bs)) k = .ok ((s.applyWrite k.1 (plain (bs.take k.2.1)) k.2.2).written k.1, bs.drop k.2.1) := by
        simp only [unitStep, hr]
      rw [he] at h
      exact ((s.wrote_applyWrite _ _ _).trans (State.wrote_written _ _)).trans (ih h)

theorem State.wrote_unitWrite {s t : State} {vd : Nat} {c : Cap} {a : Nat} {bs : List Byte} (h : s.unitWrite vd c a bs = .ok t) : s.Wrote t := by
  rw [State.unitWrite_eq] at h
  split at h
  · cases h
  · next ks _ =>
    cases hf : ks.foldl unitStep (.ok (s, bs)) with
    | error f => rw [hf] at h; cases h
    | ok r =>
      rw [hf] at h
      cases h
      exact State.wrote_unitSteps ks hf

theorem State.wrote_unitTry (s : State) (unit vd : Nat) (c : Cap) (a : Nat) (bs : List Byte) : s.Wrote (s.unitTry unit vd c a bs) := by
  unfold State.unitTry
  split
  · next t ht => exact State.wrote_unitWrite ht
  · exact s.wrote_unitFail _ _ _

theorem State.wrote_unitAtomic {s t : State} {vd : Nat} {c : Cap} {a n old : Nat} {f : Nat → Nat} (h : s.unitAtomic vd c a n f = .ok (old, t)) :
    s.Wrote t := by
  unfold State.unitAtomic at h
  split at h
  · cases h
  · split at h
    · dsimp only at h
      split at h
      · cases h
      · split at h
        · cases h
        · cases h
          exact (s.wrote_applyWrite _ _ _).trans (State.wrote_written _ _)
    · cases h

theorem State.wrote_writeState (s : State) (t : Task) (st : TaskState) : s.Wrote (s.writeState t st) := by
  unfold State.writeState
  split
  · exact .refl s
  · split
    · next h => exact State.wrote_unitAtomic h
    · exact s.wrote_unitFail _ _ _

theorem State.wrote_onOutc (s : State) (t : Task) (f : Nat → Nat) : s.Wrote (s.onOutc t f) := by
  unfold State.onOutc
  split
  · exact .refl s
  · split
    · next h => exact State.wrote_unitAtomic h
    · exact s.wrote_unitFail _ _ _

/-! ### Entries of the journal (R57, R58) -/

@[simp] theorem State.put_queues (s : State) (k : Nat) (bs : List Byte) : (s.put k bs).queues = s.queues := by
  obtain ⟨_, _, _, _, _, h⟩ := s.put_frame k bs
  rw [h]

section
variable (s : State) (qid seq kind slot res opc id digest vd cause : Nat)

/-- An entry lies in memory; nothing but that and JNL_WR differs. -/
theorem State.journalRaw_put : ∃ k bs, s.journalRaw qid seq kind slot res opc id digest vd cause =
    { s.put k bs with jnl := { s.jnl with wr := s.jnl.wr + 1 } } := by
  refine ⟨apKey (0x01000000 + 32 * (s.jnl.wr % 2 ^ s.jnl.log2j)), entryBytes s.jnl.wr seq qid kind slot res opc id digest vd cause, ?_⟩
  simp only [State.journalRaw, (s.wrote_put _ _).jnl]

@[simp] theorem State.journalRaw_jnl :
    (s.journalRaw qid seq kind slot res opc id digest vd cause).jnl = { s.jnl with wr := s.jnl.wr + 1 } := by
  obtain ⟨k, bs, h⟩ := s.journalRaw_put qid seq kind slot res opc id digest vd cause
  rw [h]

@[simp] theorem State.journalRaw_queue (j : Nat) : (s.journalRaw qid seq kind slot res opc id digest vd cause).queue j = s.queue j := by
  obtain ⟨k, bs, h⟩ := s.journalRaw_put qid seq kind slot res opc id digest vd cause
  rw [h, State.queue, State.queue, State.put_queues]

@[simp] theorem State.journalRaw_tasks : (s.journalRaw qid seq kind slot res opc id digest vd cause).tasks = s.tasks := by
  obtain ⟨k, bs, h⟩ := s.journalRaw_put qid seq kind slot res opc id digest vd cause
  rw [h]
  exact (s.wrote_put k bs).tasks

@[simp] theorem State.journalRaw_vds : (s.journalRaw qid seq kind slot res opc id digest vd cause).vds = s.vds := by
  obtain ⟨k, bs, h⟩ := s.journalRaw_put qid seq kind slot res opc id digest vd cause
  rw [h]
  exact (s.wrote_put k bs).vds

end

/-- The entry of a packet of a queue that is there. -/
theorem State.journal_eq {s : State} {qid : Nat} {q : Queue} (hq : s.queue qid = some q) (seq kind res cause id : Nat) (pkt : List Byte) :
    s.journal qid seq kind res cause id pkt =
      s.journalRaw qid seq kind (seq % q.slots) res (fieldLe pkt 0 1) id (crc32 (noPhase pkt)) q.jvd cause := by
  simp only [State.journal, hq]

/-- The outcome entry of a packet of a queue that is there: the packet leaves the queue, and its reservation is used. -/
theorem State.outcomeOf_eq {s : State} {qid : Nat} {q : Queue} (hq : s.queue qid = some q) (p : Pkt) (res cause : Nat) :
    let e := s.journalRaw qid p.seq 1 (p.seq % q.slots) res (fieldLe p.bytes 0 1) p.id (crc32 (noPhase p.bytes)) q.jvd cause
    s.outcomeOf qid p res cause =
      ({ e with jnl := { s.jnl with wr := s.jnl.wr + 1, resv := s.jnl.resv - 1 } } : State).putQueue qid
        { q with pend := q.pend.filter (fun x => x.seq != p.seq) } := by
  have he := State.journalRaw_queue s qid p.seq 1 (p.seq % q.slots) res (fieldLe p.bytes 0 1) p.id (crc32 (noPhase p.bytes)) q.jvd cause qid
  rw [hq] at he
  simp only [State.outcomeOf, State.journal_eq hq, State.journalRaw_jnl]
  simp only [State.queue] at he ⊢
  simp only [he]

/-- Only a queue that Q.DESTROY has closed goes with its last outcome. -/
theorem State.closeQueue_of_open {s : State} {qid : Nat} {q : Queue} (hq : s.queue qid = some q) (hd : q.destroying = []) :
    s.closeQueue qid = s := by
  simp [State.closeQueue, hq, hd]

/-- The outcome of a packet that waits for one in a queue that Q.DESTROY has not closed. -/
theorem State.outcome_eq {s : State} {qid seq : Nat} {q : Queue} {p : Pkt} (hq : s.queue qid = some q) (hd : q.destroying = [])
    (hp : q.pend.find? (fun x => x.seq == seq) = some p) (res cause : Nat) : s.outcome qid seq res cause = s.outcomeOf qid p res cause := by
  simp only [State.outcome, hq, Option.bind_some, hp]
  have hafter : (s.outcomeOf qid p res cause).queue qid = some { q with pend := q.pend.filter (fun x => x.seq != p.seq) } := by
    rw [State.outcomeOf_eq hq]
    exact State.putQueue_queue _ _ _
  exact State.closeQueue_of_open hafter hd

end Sys2Proof.Machine

/-! # Proofs: bytes of numbers, and the outcomes of packets -/

namespace Sys2Proof.Machine

open Sys2Proof Sys2Proof.Claims

/-! ### Bytes of numbers (R3) -/

@[simp] theorem leBytes_length (n : Nat) : ∀ v, (leBytes n v).length = n := by
  induction n with
  | zero => exact fun _ => rfl
  | succ n ih => exact fun v => by rw [leBytes, List.length_cons, ih]

theorem leNat_leBytes (n : Nat) : ∀ v, leNat (leBytes n v) = v % 256 ^ n := by
  induction n with
  | zero => exact fun v => by rw [Nat.pow_zero, Nat.mod_one]; rfl
  | succ n ih =>
    intro v
    have hb : (BitVec.ofNat 8 v).toNat = v % 256 := BitVec.toNat_ofNat _ _
    rw [leBytes, leNat, ih, hb, Nat.pow_succ', Nat.mod_mul]

theorem leNat_lt (bs : List Byte) : leNat bs < 256 ^ bs.length := by
  induction bs with
  | nil => exact Nat.one_pos
  | cons b bs ih =>
    have hb : b.toNat < 256 := b.isLt
    rw [leNat, List.length_cons, Nat.pow_succ']
    omega

@[simp] theorem sliceOf_length (bs : List Byte) (i n : Nat) : (sliceOf bs i n).length = n := by
  simp [sliceOf]

theorem fieldLe_lt (bs : List Byte) (i n : Nat) : fieldLe bs i n < 256 ^ n := by
  have h := leNat_lt (sliceOf bs i n)
  rwa [sliceOf_length] at h

/-- What stands where bytes have been written. -/
theorem Memory.read_setBytes {m : List Host.Cell} (h : Memory.wf m = true) (k : Nat) (bs : List Byte) :
    (List.range bs.length).map (fun i => Memory.get (Memory.setBytes m k bs) (k + i)) = bs := by
  apply List.ext_getElem
  · simp
  · intro i h1 h2
    simp [Memory.get_setBytes _ _ _ _ h, h2]

theorem State.rd_setBytes {s : State} {m : List Host.Cell} (h : Memory.wf m = true) {k n : Nat} {bs : List Byte} (hn : bs.length = n)
    (hs : s.mem = Memory.setBytes m k bs) : s.rd k n = bs := by
  subst hn
  rw [State.rd, hs]
  exact Memory.read_setBytes h k bs

/-- A read of bytes that another memory has as well. -/
theorem State.rd_congr {s t : State} {k n : Nat} (h : ∀ j, k ≤ j → j < k + n → Memory.get t.mem j = Memory.get s.mem j) : t.rd k n = s.rd k n := by
  unfold State.rd
  exact List.map_congr_left fun i hi => h _ (Nat.le_add_right _ _) (Nat.add_lt_add_left (List.mem_range.1 hi) _)

/-! ### What a packet's effect leaves for its outcome -/

/-- The journal is the same, and so are the queues but for their STATE; memory stays canonical. -/
structure State.SameQueues (s t : State) : Prop where
  jnl : t.jnl = s.jnl
  wf : Memory.wf s.mem = true → Memory.wf t.mem = true
  queue : ∀ id q, s.queue id = some q → ∃ r, t.queue id = some r ∧ q.Restated r

theorem State.SameQueues.of_eq {s t : State} (hj : t.jnl = s.jnl) (hm : t.mem = s.mem) (hq : t.queues = s.queues) : s.SameQueues t := by
  refine ⟨hj, fun h => hm ▸ h, fun id q h => ⟨q, ?_, .refl q⟩⟩
  rwa [State.queue, hq]

theorem State.SameQueues.refl (s : State) : s.SameQueues s := .of_eq rfl rfl rfl

theorem State.SameQueues.trans {s t u : State} (h1 : s.SameQueues t) (h2 : t.SameQueues u) : s.SameQueues u := by
  refine ⟨h2.jnl.trans h1.jnl, h2.wf ∘ h1.wf, fun id q hq => ?_⟩
  obtain ⟨r, hr, hqr⟩ := h1.queue id q hq
  obtain ⟨x, hx, hrx⟩ := h2.queue id r hr
  exact ⟨x, hx, hqr.trans hrx⟩

theorem State.Wrote.sameQueues {s t : State} (h : s.Wrote t) : s.SameQueues t := ⟨h.jnl, h.wf, h.queue⟩

/-! ### A packet that starts (R44) -/

/-- The packet, marked as started. -/
def Pkt.start (p : Pkt) : Pkt := { p with started := true }

/-- A queue whose packets of a sequence number are marked as started. -/
def Queue.start (q : Queue) (seq : Nat) : Queue := { q with pend := q.pend.map (fun p => if p.seq == seq then p.start else p) }

theorem State.markStarted_eq {s : State} {qid : Nat} {q : Queue} (hq : s.queue qid = some q) (seq : Nat) :
    s.markStarted qid seq = s.putQueue qid (q.start seq) := by
  simp only [State.markStarted, hq]
  rfl

theorem Queue.nextPkt_mem {q : Queue} {p : Pkt} (h : q.nextPkt = some p) : p ∈ q.pend := by
  have hnew : p ∈ q.pend.filter (fun p => !p.started) := by
    unfold Queue.nextPkt at h
    dsimp only at h
    split at h
    · exact List.mem_of_find?_eq_some h
    · exact List.mem_of_mem_head? h
    · rw [Option.filter_eq_some_iff] at h
      exact List.mem_of_mem_head? h.1
  exact List.mem_of_mem_filter hnew

/-- The started packet is the one that its outcome looks for. -/
theorem Queue.find_start {q : Queue} {p : Pkt} (hp : p ∈ q.pend) (huniq : ∀ x ∈ q.pend, x.seq = p.seq → x = p) :
    (q.start p.seq).pend.find? (fun x => x.seq == p.seq) = some p.start := by
  have hfind : q.pend.find? (fun x => x.seq == p.seq) = some p := by
    cases hx : q.pend.find? (fun x => x.seq == p.seq) with
    | none => exact absurd (List.find?_eq_none.1 hx p hp) (by simp)
    | some x =>
      rw [huniq x (List.mem_of_find?_eq_some hx) (eq_of_beq (List.find?_some (p := fun x : Pkt => x.seq == p.seq) hx))]
  have hseq : (fun x : Pkt => x.seq == p.seq) ∘ (fun x => if x.seq == p.seq then x.start else x) = fun x => x.seq == p.seq := by
    funext x
    simp only [Function.comp_apply]
    split <;> rfl
  rw [Queue.start, List.find?_map, hseq, hfind]
  simp

/-! ### Its outcome (R57, R58) -/

@[simp] theorem entryBytes_length (pos seq qid kind slot res opc id digest vd cause : Nat) :
    (entryBytes pos seq qid kind slot res opc id digest vd cause).length = 32 := by
  simp only [entryBytes, List.length_append, leBytes_length]

/-- The key of the journal's next entry. -/
def State.nextEntry (s : State) : Nat := apKey (0x01000000 + 32 * (s.jnl.wr % 2 ^ s.jnl.log2j))

theorem State.journalRaw_mem (s : State) (qid seq kind slot res opc id digest vd cause : Nat) :
    (s.journalRaw qid seq kind slot res opc id digest vd cause).mem =
      Memory.setBytes s.mem s.nextEntry (entryBytes s.jnl.wr seq qid kind slot res opc id digest vd cause) := by
  simp only [State.journalRaw, State.put, State.nextEntry]

theorem State.outcomeOf_mem {s : State} {qid : Nat} {q : Queue} (hq : s.queue qid = some q) (p : Pkt) (res cause : Nat) :
    (s.outcomeOf qid p res cause).mem = Memory.setBytes s.mem s.nextEntry
      (entryBytes s.jnl.wr p.seq qid 1 (p.seq % q.slots) res (fieldLe p.bytes 0 1) p.id (crc32 (noPhase p.bytes)) q.jvd cause) := by
  rw [State.outcomeOf_eq hq]
  simp only [State.putQueue, State.journalRaw_mem]

/-- The outcome of the packet that has started, after an effect that leaves the journal and the queues. -/
theorem State.outcome_started {s v : State} {qid opc : Nat} {q : Queue} {p : Pkt} (hn : startsNext s qid q p opc)
    (h : (s.markStarted qid p.seq).SameQueues v) (res cause : Nat) :
    ∃ r, (q.start p.seq).Restated r ∧ v.queue qid = some r ∧ v.outcome qid p.seq res cause = v.outcomeOf qid p.start res cause := by
  obtain ⟨hq, hnext, _, hd, huniq⟩ := hn
  have hqs : (s.markStarted qid p.seq).queue qid = some (q.start p.seq) := by
    rw [State.markStarted_eq hq]
    exact State.putQueue_queue _ _ _
  obtain ⟨r, hr, hres⟩ := h.queue qid _ hqs
  refine ⟨r, hres, hr, ?_⟩
  obtain ⟨st, n, rfl⟩ := hres
  exact State.outcome_eq hr hd (Queue.find_start (Queue.nextPkt_mem hnext) huniq) res cause

theorem State.outcomeIs_outcome {s v : State} {qid opc : Nat} {q : Queue} {p : Pkt} (hn : startsNext s qid q p opc)
    (h : (s.markStarted qid p.seq).SameQueues v) (res cause : Nat) : outcomeIs s (v.outcome qid p.seq res cause) qid q p res cause := by
  obtain ⟨r, ⟨st, n, rfl⟩, hr, he⟩ := State.outcome_started hn h res cause
  have hu : (s.markStarted qid p.seq).jnl = s.jnl ∧ (s.markStarted qid p.seq).mem = s.mem := by
    rw [State.markStarted_eq hn.1]
    exact ⟨rfl, rfl⟩
  have hj : v.jnl = s.jnl := h.jnl.trans hu.1
  have hm := State.outcomeOf_mem hr p.start res cause
  have hkey : v.nextEntry = s.nextEntry := by rw [State.nextEntry, hj, State.nextEntry]
  rw [hkey, hj] at hm
  rw [he]
  refine ⟨?_, fun hwf => State.rd_setBytes (h.wf (hu.2 ▸ hwf)) (entryBytes_length _ _ _ _ _ _ _ _ _ _ _) hm⟩
  rw [State.outcomeOf_eq hr]
  refine ⟨?_, ?_, fun x hx y hy => ?_⟩
  · simp only [State.putQueue, hj]
  · simp only [State.putQueue, hj]
  · rw [State.putQueue_queue, Option.some.injEq] at hx
    subst hx
    have hne : (y.seq != p.seq) = true := (List.mem_filter.1 hy).2
    simpa using hne

/-! ### What outcomes leave -/

/-- t is s after outcome entries: memory with its metadata, the journal and the queues may differ, and nothing else. -/
def State.Journaled (s t : State) : Prop :=
  ({ t with mem := s.mem, tags := s.tags, bad := s.bad, badMeta := s.badMeta, dirty := s.dirty, jnl := s.jnl, queues := s.queues } : State) = s

theorem State.Journaled.refl (s : State) : s.Journaled s := rfl

theorem State.Journaled.trans {s t u : State} (h1 : s.Journaled t) (h2 : t.Journaled u) : s.Journaled u := by
  have h := congrArg (fun x : State => ({ x with
    mem := s.mem, tags := s.tags, bad := s.bad, badMeta := s.badMeta, dirty := s.dirty, jnl := s.jnl, queues := s.queues } : State)) h2
  exact h.trans h1

section
variable {s t : State} (h : s.Journaled t)
include h

theorem State.Journaled.tasks : t.tasks = s.tasks := by have e := congrArg State.tasks h; exact e
theorem State.Journaled.regions : t.regions = s.regions := by have e := congrArg State.regions h; exact e
theorem State.Journaled.cancels : t.cancels = s.cancels := by have e := congrArg State.cancels h; exact e
theorem State.Journaled.task (i : Nat) : t.task i = s.task i := by rw [State.task, h.tasks, State.task]
theorem State.Journaled.region (r : Nat) : t.region r = s.region r := by rw [State.region, h.regions, State.region]

end

theorem State.journaled_raw (s : State) (qid seq kind slot res opc id digest vd cause : Nat) :
    s.Journaled (s.journalRaw qid seq kind slot res opc id digest vd cause) := by
  obtain ⟨k, bs, h⟩ := s.journalRaw_put qid seq kind slot res opc id digest vd cause
  obtain ⟨m, tg, b, bm, d, hp⟩ := s.put_frame k bs
  rw [h, hp]
  rfl

theorem State.journaled_outcomeOf (s : State) (qid : Nat) (p : Pkt) (res cause : Nat) : s.Journaled (s.outcomeOf qid p res cause) := by
  cases hq : s.queue qid with
  | none =>
    have hj : s.journal qid p.seq 1 res cause p.id p.bytes = s := by simp only [State.journal, hq]
    have hq' : ({ s with jnl := { s.jnl with resv := s.jnl.resv - 1 } } : State).queue qid = none := hq
    simp only [State.outcomeOf, hj, hq']
    rfl
  | some q =>
    obtain ⟨k, bs, h⟩ := s.journalRaw_put qid p.seq 1 (p.seq % q.slots) res (fieldLe p.bytes 0 1) p.id (crc32 (noPhase p.bytes)) q.jvd cause
    obtain ⟨m, tg, b, bm, d, hp⟩ := s.put_frame k bs
    rw [State.outcomeOf_eq hq, h, hp]
    rfl

theorem State.journaled_foldl {α : Type} {f : State → α → State} (hf : ∀ (s : State) (a : α), s.Journaled (f s a)) (l : List α) :
    ∀ s : State, s.Journaled (l.foldl f s) := by
  induction l with
  | nil => exact .refl
  | cons a l ih => exact fun s => (hf s a).trans (ih (f s a))

theorem State.journaled_destroyed (s : State) (c : Nat × Nat) : s.Journaled (s.destroyed c) := by
  unfold State.destroyed
  split
  · exact .refl s
  · exact s.journaled_outcomeOf _ _ _ _

theorem State.journaled_closeQueue (s : State) (qid : Nat) : s.Journaled (s.closeQueue qid) := by
  unfold State.closeQueue
  split
  · exact .refl s
  · split
    · exact .refl s
    · next q _ _ =>
      have hdel : s.Journaled { s with queues := AMap.del s.queues qid } := rfl
      exact hdel.trans (State.journaled_foldl State.journaled_destroyed q.destroying _)

theorem State.journaled_outcome (s : State) (qid seq res cause : Nat) : s.Journaled (s.outcome qid seq res cause) := by
  unfold State.outcome
  split
  · exact .refl s
  · exact (s.journaled_outcomeOf _ _ _ _).trans (State.journaled_closeQueue _ _)

end Sys2Proof.Machine

/-! # Proofs: the tasks that an operation of the Marshal leaves (R64 to R67, R71) -/

namespace Sys2Proof.Machine

open Sys2Proof Sys2Proof.Claims

/-! ### Records of tasks, virtual devices and heats -/

@[simp] theorem State.putTask_task (s : State) (id : Nat) (t : Task) : (s.putTask id t).task id = some t := AMap.find_put_same _ _ _

theorem State.putTask_task_other (s : State) {id j : Nat} (t : Task) (h : j ≠ id) : (s.putTask id t).task j = s.task j :=
  AMap.find_put_other _ _ h

theorem State.onVd_frame (s : State) (v : Nat) (f : Vd → Vd) : ∃ x, s.onVd v f = { s with vds := x } := by
  unfold State.onVd
  split
  · exact ⟨s.vds, rfl⟩
  · exact ⟨_, rfl⟩

theorem State.onSib_frame (s : State) (h i : Nat) (f : Sibling → Sibling) : ∃ x, s.onSib h i f = { s with heats := x } := by
  unfold State.onSib
  split
  · exact ⟨s.heats, rfl⟩
  · exact ⟨_, rfl⟩

@[simp] theorem State.onVd_task (s : State) (v : Nat) (f : Vd → Vd) (j : Nat) : (s.onVd v f).task j = s.task j := by
  obtain ⟨x, h⟩ := s.onVd_frame v f
  rw [h]
  rfl

@[simp] theorem State.onSib_task (s : State) (h i : Nat) (f : Sibling → Sibling) (j : Nat) : (s.onSib h i f).task j = s.task j := by
  obtain ⟨x, e⟩ := s.onSib_frame h i f
  rw [e]
  rfl

theorem State.noteCancel_frame (s : State) (id : Nat) (t : Task) : ∃ x, s.noteCancel id t = { s with heats := x } := by
  unfold State.noteCancel
  split
  · exact s.onSib_frame _ _ _
  · exact ⟨s.heats, rfl⟩

/-- The tasks after one of them has taken a state. -/
theorem State.taskState_task (s : State) (id : Nat) (st : TaskState) (j : Nat) :
    (s.taskState id st).task j = if j = id then (s.task id).map (fun t => { t with st := st }) else s.task j := by
  cases ht : s.task id with
  | none =>
    simp only [State.taskState, ht]
    split
    · next h => exact h ▸ ht
    · rfl
  | some t =>
    simp only [State.taskState, ht]
    split
    · next h => exact h ▸ State.putTask_task _ _ _
    · next h => exact (State.putTask_task_other _ _ h).trans ((s.wrote_writeState t st).task j)

/-- The tasks after one of them has become READY. -/
theorem State.makeReady_task {s : State} {id : Nat} {t : Task} (ht : s.task id = some t) (j : Nat) :
    (s.makeReady id).task j = if j = id then some { t with st := .ready, since := s.now } else s.task j := by
  have hst : (s.taskState id .ready).task id = some { t with st := .ready } := by rw [State.taskState_task, if_pos rfl, ht]; rfl
  have hon : (s.taskState id .ready).onTask id (fun t => { t with since := s.now }) =
      (s.taskState id .ready).putTask id { t with st := .ready, since := s.now } := by
    simp only [State.onTask, hst]
  simp only [State.makeReady, hon, State.putTask_task, State.onVd_task]
  split
  · next h => exact h ▸ State.putTask_task _ _ _
  · next h => rw [State.putTask_task_other _ _ h, State.taskState_task, if_neg h]

theorem State.makeReady_none {s : State} {id : Nat} (ht : s.task id = none) (j : Nat) : (s.makeReady id).task j = s.task j := by
  have hst : s.taskState id .ready = s := by simp only [State.taskState, ht]
  have hon : s.onTask id (fun t => { t with since := s.now }) = s := by simp only [State.onTask, ht]
  simp only [State.makeReady, hst, hon, ht]

/-! ### No operation makes a task that is not there -/

/-- Every task of t is one of s. -/
def State.NoNewTask (s t : State) : Prop := ∀ i, s.task i = none → t.task i = none

theorem State.NoNewTask.refl (s : State) : s.NoNewTask s := fun _ h => h

theorem State.NoNewTask.trans {s t u : State} (h1 : s.NoNewTask t) (h2 : t.NoNewTask u) : s.NoNewTask u := fun i => h2 i ∘ h1 i

theorem State.NoNewTask.of_task {s t : State} (h : ∀ i, t.task i = s.task i) : s.NoNewTask t := fun i hi => (h i).trans hi

theorem State.Wrote.noNewTask {s t : State} (h : s.Wrote t) : s.NoNewTask t := .of_task h.task

theorem State.Journaled.noNewTask {s t : State} (h : s.Journaled t) : s.NoNewTask t := .of_task h.task

theorem State.noNewTask_foldl {α : Type} {f : State → α → State} (hf : ∀ (s : State) (a : α), s.NoNewTask (f s a)) (l : List α) :
    ∀ s : State, s.NoNewTask (l.foldl f s) := by
  induction l with
  | nil => exact .refl
  | cons a l ih => exact fun s => (hf s a).trans (ih (f s a))

theorem State.noNewTask_putTask {s : State} {id : Nat} {t : Task} (h : s.task id = some t) (u : Task) : s.NoNewTask (s.putTask id u) := by
  intro i hi
  have hne : i ≠ id := by
    rintro rfl
    rw [h] at hi
    cases hi
  rw [State.putTask_task_other _ _ hne, hi]

theorem State.noNewTask_del (s : State) (id : Nat) : s.NoNewTask { s with tasks := AMap.del s.tasks id } := by
  intro i hi
  by_cases h : i = id
  · exact h ▸ AMap.find_del_same _ _
  · exact (AMap.find_del_other _ h).trans hi

theorem State.noNewTask_onTask (s : State) (id : Nat) (f : Task → Task) : s.NoNewTask (s.onTask id f) := by
  cases h : s.task id with
  | none => simp only [State.onTask, h]; exact .refl s
  | some t => simp only [State.onTask, h]; exact State.noNewTask_putTask h _

theorem State.noNewTask_onVd (s : State) (v : Nat) (f : Vd → Vd) : s.NoNewTask (s.onVd v f) := .of_task (s.onVd_task v f)

theorem State.noNewTask_onSib (s : State) (h i : Nat) (f : Sibling → Sibling) : s.NoNewTask (s.onSib h i f) := .of_task (s.onSib_task h i f)

theorem State.noNewTask_taskState (s : State) (id : Nat) (st : TaskState) : s.NoNewTask (s.taskState id st) := by
  intro i hi
  rw [State.taskState_task]
  split
  · next h => rw [← h, hi]; rfl
  · exact hi

theorem State.noNewTask_makeReady (s : State) (id : Nat) : s.NoNewTask (s.makeReady id) := by
  cases h : s.task id with
  | none => exact .of_task (State.makeReady_none h)
  | some t =>
    intro i hi
    rw [State.makeReady_task h]
    split
    · next he => rw [he, h] at hi; cases hi
    · exact hi

/-! ### Successors and cascades (R65 to R67) -/

theorem State.wrote_readSuccs (s : State) (t : Task) : s.Wrote (s.readSuccs t).1 := by
  unfold State.readSuccs
  split
  · exact .refl s
  · exact .refl s
  · exact s.wrote_unitFail _ _ _

theorem State.noNewTask_decSucc (s : State) (t : Task) (a : Nat) : s.NoNewTask (s.decSucc t a) := by
  unfold State.decSucc
  split
  · exact (s.wrote_unitFail _ _ _).noNewTask
  · next old s1 h =>
    have hw := (State.wrote_unitAtomic h).noNewTask
    split
    · split
      · exact hw
      · split
        · exact hw.trans (s1.noNewTask_makeReady _)
        · exact hw
    · exact hw

theorem State.wrote_cascadeTo (s : State) (t : Task) (a : Nat) : s.Wrote (s.cascadeTo t a).1 := by
  unfold State.cascadeTo
  split
  · exact .refl s
  · split
    · exact s.wrote_unitFail _ _ _
    · next h => exact State.wrote_unitAtomic h

theorem State.wrote_cascadeAll (t : Task) (as : List Nat) : ∀ s : State, s.Wrote (s.cascadeAll t as).1 := by
  induction as with
  | nil => exact .refl
  | cons a as ih => exact fun s => (s.wrote_cascadeTo t a).trans (ih _)

theorem State.wrote_cascadeKids (s : State) (t : Task) : s.Wrote (s.cascadeKids t).1 := by
  have hr := s.wrote_readSuccs t
  unfold State.cascadeKids
  split
  · exact .refl s
  · split
    · next h => rw [h] at hr; exact hr
    · next s1 l h => rw [h] at hr; exact hr.trans (State.wrote_cascadeAll t l s1)

theorem State.noNewTask_successors (s : State) (t : Task) (policy : Nat) : s.NoNewTask (s.successors t policy).1 := by
  have hr := (s.wrote_readSuccs t).noNewTask
  unfold State.successors
  split
  · split
    · next h => rw [h] at hr; exact hr
    · next s1 l h =>
      rw [h] at hr
      exact hr.trans (State.noNewTask_foldl (fun u a => u.noNewTask_decSucc t a) l s1)
  · exact (s.wrote_cascadeKids t).noNewTask
  · exact .refl s

/-! ### The release of a sequence (R85, R87) -/

theorem State.wrote_freeBlock {s t : State} {vd b : Nat} {p : Pool} (h : s.freeBlock vd p b = .ok t) : s.Wrote t := by
  unfold State.freeBlock at h
  cases h1 : s.unitAtomic vd p.cap (p.at_ 0x20) 8 (fun t => t + 1) with
  | error f => rw [h1] at h; cases h
  | ok r =>
    obtain ⟨n, s1⟩ := r
    rw [h1] at h
    simp only [atAddr, Except.mapError] at h
    cases h2 : s1.unitWrite vd p.cap (p.fring + 4 * (n % p.nblk)) (leBytes 4 (b + 1)) with
    | error f => rw [h2] at h; cases h
    | ok s2 =>
      rw [h2] at h
      simp only at h
      cases h3 : s2.unitAtomic vd p.cap (p.at_ 0x30) 8 (fun v => v + 1) with
      | error f => rw [h3] at h; cases h
      | ok r =>
        rw [h3] at h
        cases h
        exact ((State.wrote_unitAtomic h1).trans (State.wrote_unitWrite h2)).trans (State.wrote_unitAtomic h3)

theorem State.wrote_dropRef {s t : State} {vd b : Nat} {p : Pool} {d : Drop} (h : s.dropRef vd p b = .ok (t, d)) : s.Wrote t := by
  unfold State.dropRef at h
  cases h1 : s.unitAtomic vd p.cap (p.kvd b) 4 (fun r => r - 1) with
  | error f => rw [h1] at h; cases h
  | ok r =>
    obtain ⟨old, s1⟩ := r
    have hw := State.wrote_unitAtomic h1
    rw [h1] at h
    simp only [atAddr, Except.mapError] at h
    split at h
    · cases h; exact hw
    · split at h
      · cases h2 : s1.freeBlock vd p b with
        | error f => rw [h2] at h; cases h
        | ok u =>
          rw [h2] at h
          cases h
          exact hw.trans (State.wrote_freeBlock h2)
      · cases h; exact hw

theorem State.wrote_walkBlocks (unit vd : Nat) (q : Sqd) (p : Pool) (n : Nat) :
    ∀ (s : State) (j : Nat) (w : Walk), s.Wrote (s.walkBlocks unit vd q p n j w).1 := by
  induction n with
  | zero => exact fun s _ _ => .refl s
  | succ n ih =>
    intro s j w
    rw [State.walkBlocks]
    refine State.Wrote.trans ?_ (ih _ _ _)
    split
    · exact s.wrote_unitFail _ _ _
    · split
      · exact s.wrote_unitFail _ _ _
      · next h => exact State.wrote_dropRef h
      · next h => exact State.wrote_dropRef h
      · next h => exact State.wrote_dropRef h

theorem State.wrote_releaseWalk (s : State) (vd : Nat) (c : Cap) : s.Wrote (s.releaseWalk vd c).1 := by
  unfold State.releaseWalk
  split
  · exact s.wrote_unitFail _ _ _
  · split
    · exact .refl s
    · split
      · split
        · exact .refl s
        · exact s.wrote_unitFail _ _ _
      · exact ((State.wrote_walkBlocks _ _ _ _ _ s _ _).trans (State.wrote_unitTry _ _ _ _ _ _)).trans (State.wrote_unitTry _ _ _ _ _ _)

theorem State.noNewTask_releaseSib (s : State) (h i : Nat) : s.NoNewTask (s.releaseSib h i) := by
  unfold State.releaseSib
  split
  · exact .refl s
  · split
    · exact .refl s
    · next x _ _ c _ => exact (s.wrote_releaseWalk x.vd c).noNewTask.trans (State.noNewTask_onSib _ _ _ _)

/-! ### A sibling's final state (R81, R82) -/

theorem State.wrote_writeDecision (s : State) (x : Heat) : s.Wrote (s.writeDecision x) :=
  (s.wrote_unitTry _ _ _ _ _).trans (State.wrote_unitTry _ _ _ _ _ _)

theorem State.noNewTask_decideHeat (s : State) (h : Nat) (st : HeatState) (win : Word) (d : Nat) : s.NoNewTask (s.decideHeat h st win d) := by
  unfold State.decideHeat
  split
  · exact .refl s
  · have hput : ∀ y : Heat, s.NoNewTask (s.putHeat h y) := fun _ => .of_task fun _ => rfl
    exact (hput _).trans (State.wrote_writeDecision _ _).noNewTask

theorem State.noNewTask_settleHeat (s : State) (h : Nat) : s.NoNewTask (s.settleHeat h) := by
  unfold State.settleHeat
  split
  · exact .refl s
  · split
    · split
      · exact State.noNewTask_decideHeat _ _ _ _ _
      · exact State.noNewTask_decideHeat _ _ _ _ _
    · exact .refl s

theorem State.noNewTask_sibFinal (s : State) (h i fate tiles : Nat) : s.NoNewTask (s.sibFinal h i fate tiles) := by
  unfold State.sibFinal
  exact (State.noNewTask_onSib _ _ _ _).trans (State.noNewTask_settleHeat _ _)

/-! ### The end of a task (R66, R69, R74) -/

@[simp] theorem State.freeRegions_task (rs : List Nat) (i : Nat) : ∀ s : State, (s.freeRegions rs).task i = s.task i := by
  induction rs with
  | nil => exact fun _ => rfl
  | cons r rs ih => exact fun s => ih (s.onRegion r Region.freed)

theorem State.noNewTask_taskOutcome (s : State) (id : Nat) (t : Task) (res cause : Nat) : s.NoNewTask (s.taskOutcome id t res cause) := by
  unfold State.taskOutcome
  split
  · exact .refl s
  · split
    · exact (State.journaled_raw s.drawWord.2 _ _ _ _ _ _ _ _ _ _).noNewTask
    · exact (s.journaled_outcome _ _ _ _).noNewTask

/-- The next run of a bound TCB keeps its task, or takes it away. -/
theorem State.noNewTask_nextRun {s0 s : State} {id : Nat} {t0 : Task} (h0 : s0.task id = some t0) (h : s0.NoNewTask s) (t : Task) :
    s0.NoNewTask (s.nextRun id t) := by
  have hput : ∀ u : Task, s0.NoNewTask (s.putTask id u) := fun u i hi => by
    have hne : i ≠ id := by
      rintro rfl
      rw [h0] at hi
      cases hi
    rw [State.putTask_task_other _ _ hne, h i hi]
  unfold State.nextRun
  dsimp only
  split
  · exact (hput _).trans (State.noNewTask_makeReady _ _)
  · split
    · exact (h.trans (s.wrote_writeState _ _).noNewTask).trans (State.noNewTask_del _ _)
    · exact (hput _).trans (State.noNewTask_taskState _ _ _)

/-- The regions of a task and the lists that name it are given up, and its sequence with them. -/
def State.endRelease (s : State) (id : Nat) (t : Task) (fate : Nat) : State :=
  let s1 := (s.freeRegions t.members).onVd t.vd (·.forget id)
  match s1.sibOf id t with
  | some (h, i) => if fate ≥ 3 then s1.releaseSib h i else s1
  | none => s1

/-- OUTC and STATE are written. -/
def State.endWrites (s : State) (t : Task) (e : Ending) : State :=
  let u := s.onOutc t (outcWith t.queue.isNone e.res e.cause)
  if t.queue.isNone then u else u.writeState t e.st

/-- The successors are treated, and the record of the task goes with its outcome, or takes its next run. -/
def State.endRecord (s : State) (id : Nat) (t : Task) (e : Ending) : State × List Nat :=
  let (s4, bad, js) := s.successors t (t.policy e)
  let (res, cause) := if bad then (resFault, 0x93) else (e.res, e.cause)
  let s5 := if bad then s4.onOutc t (outcWith false res cause) else s4
  (if t.queue.isNone then s5.nextRun id t else
    let u := s5.taskOutcome id t res cause
    { u with tasks := AMap.del u.tasks id }, js)

theorem State.endTask_eq {s : State} {id : Nat} {t : Task} (ht : s.task id = some t) (e : Ending) :
    s.endTask id e =
      let r := ((s.endRelease id t e.fate).endWrites t e).endRecord id t e
      match ((s.freeRegions t.members).onVd t.vd (·.forget id)).sibOf id t with
      | some (h, i) => (r.1.sibFinal h i e.fate (s.tilesOf t), r.2)
      | none => r := by
  simp only [State.endTask, ht]
  rfl

theorem State.noNewTask_endRelease (s : State) (id : Nat) (t : Task) (fate : Nat) : s.NoNewTask (s.endRelease id t fate) := by
  have hfree : s.NoNewTask (s.freeRegions t.members) := .of_task fun i => State.freeRegions_task _ i s
  have hfirst := hfree.trans (State.noNewTask_onVd _ t.vd (·.forget id))
  unfold State.endRelease
  dsimp only
  split
  · split
    · exact hfirst.trans (State.noNewTask_releaseSib _ _ _)
    · exact hfirst
  · exact hfirst

theorem State.wrote_endWrites (s : State) (t : Task) (e : Ending) : s.Wrote (s.endWrites t e) := by
  have ho := s.wrote_onOutc t (outcWith t.queue.isNone e.res e.cause)
  unfold State.endWrites
  dsimp only
  split
  · exact ho
  · exact ho.trans (State.wrote_writeState _ _ _)

theorem State.noNewTask_endRecord {s0 s : State} {id : Nat} {t0 : Task} (h0 : s0.task id = some t0) (h : s0.NoNewTask s) (t : Task) (e : Ending) :
    s0.NoNewTask (s.endRecord id t e).1 ∧ (t.queue ≠ none → (s.endRecord id t e).1.task id = none) := by
  have hs : s0.NoNewTask (s.successors t (t.policy e)).1 := h.trans (s.noNewTask_successors t _)
  unfold State.endRecord
  generalize s.successors t (t.policy e) = r at hs ⊢
  obtain ⟨s4, bad, js⟩ := r
  dsimp only at hs ⊢
  generalize hrc : (if bad then (resFault, 0x93) else (e.res, e.cause)) = rc
  have h5 : s0.NoNewTask (if bad then s4.onOutc t (outcWith false rc.1 rc.2) else s4) := by
    split
    · exact hs.trans (s4.wrote_onOutc _ _).noNewTask
    · exact hs
  generalize (if bad then s4.onOutc t (outcWith false rc.1 rc.2) else s4) = s5 at h5 ⊢
  cases hq : t.queue with
  | none => exact ⟨State.noNewTask_nextRun h0 h5 t, fun hne => absurd rfl hne⟩
  | some x =>
    exact ⟨(h5.trans (State.noNewTask_taskOutcome _ _ _ _ _)).trans (State.noNewTask_del _ _), fun _ => AMap.find_del_same _ _⟩

/-- A task, or the run of a bound TCB, ends; the task of a packet is gone. -/
theorem State.endTask_tasks {s : State} {id : Nat} {t : Task} (ht : s.task id = some t) (e : Ending) :
    s.NoNewTask (s.endTask id e).1 ∧ (t.queue ≠ none → (s.endTask id e).1.task id = none) := by
  have hbefore := (s.noNewTask_endRelease id t e.fate).trans (State.wrote_endWrites _ t e).noNewTask
  obtain ⟨hnew, hgone⟩ := State.noNewTask_endRecord ht hbefore t e
  rw [State.endTask_eq ht]
  dsimp only
  split
  · exact ⟨hnew.trans (State.noNewTask_sibFinal _ _ _ _ _), fun hq => State.noNewTask_sibFinal _ _ _ _ _ _ (hgone hq)⟩
  · exact ⟨hnew, hgone⟩

/-! ### Cancels (R71, R72) -/

theorem State.noNewTask_noteCancel (s : State) (id : Nat) (t : Task) : s.NoNewTask (s.noteCancel id t) := by
  obtain ⟨x, h⟩ := s.noteCancel_frame id t
  exact .of_task fun i => by rw [h]; rfl

theorem State.foldl_onRegion_task (f : Region → Region) (rs : List Nat) (i : Nat) :
    ∀ s : State, (rs.foldl (fun u r => u.onRegion r f) s).task i = s.task i := by
  induction rs with
  | nil => exact fun _ => rfl
  | cons r rs ih => exact fun s => ih (s.onRegion r f)

theorem State.noNewTask_enterCancelling (s : State) (id : Nat) : s.NoNewTask (s.enterCancelling id) := by
  unfold State.enterCancelling
  split
  · exact .refl s
  · split
    · exact s.noNewTask_taskState _ _
    · exact .refl s

theorem State.noNewTask_runningCancel {s : State} {t : Task} {c : Cancel} (h : s.task c.task = some t) (u : Task) :
    s.NoNewTask (s.runningCancel u c) := by
  unfold State.runningCancel
  exact ((State.noNewTask_putTask h _).trans (State.noNewTask_enterCancelling _ _)).trans
    (.of_task fun i => State.foldl_onRegion_task _ _ i _)

theorem State.noNewTask_endLater {s : State} {id : Nat} {t : Task} (h : s.task id = some t) (u : Task) : s.NoNewTask (s.endLater id u) := by
  have hvd : (({ s with cancelledAt := some s.now } : State).onVd u.vd (·.forget id)).task id = some t := (State.onVd_task _ _ _ _).trans h
  have hfirst : s.NoNewTask (({ s with cancelledAt := some s.now } : State).onVd u.vd (·.forget id)) :=
    .of_task fun i => State.onVd_task _ _ _ _
  exact hfirst.trans (State.noNewTask_putTask hvd _)

/-- A cancel ends a task that no region runs. -/
def State.cancelEnds (s : State) (c : Cancel) (t : Task) (fate : Nat) : State × List Nat :=
  (({ s.noteCancel c.task t with cancelledAt := some s.now } : State).putTask c.task { t with runs := min t.runs 1 }).endTask c.task
    { fate := fate, res := resCancelled, cause := 0, quiet := false }

/-- A cancel that crosses its task's dispatch (R71). -/
def Cancel.crosses (c : Cancel) (t : Task) : Bool := t.cancel && c.at_ == t.since

/-- A cancel of a running task. -/
def State.cancelRuns (s : State) (c : Cancel) (t : Task) : State :=
  if t.fate != 0 || (t.cancel && !c.crosses t) then s
  else if t.since ≥ s.now then
    if t.cancel then s else ({ s with cancels := s.cancels ++ [{ c with casc := false }] } : State).putTask c.task (t.pendCancel c)
  else (s.noteCancel c.task t).runningCancel t c

theorem State.cancelOne_eq {s : State} {c : Cancel} {t : Task} (ht : s.task c.task = some t) :
    s.cancelOne c = match t.st with
      | .waiting => s.cancelEnds c t 3
      | .ready => s.cancelEnds c t 3
      | .frozen => if c.crosses t || t.fate != 0 then (s, []) else if s.holdsBack t 7 then ((s.noteCancel c.task t).endLater c.task t, [])
          else s.cancelEnds c t 7
      | .running => (s.cancelRuns c t, [])
      | .runningTrig => (s.cancelRuns c t, [])
      | _ => (s, []) := by
  simp only [State.cancelOne, ht]
  rfl

theorem State.noteCancel_task (s : State) (id : Nat) (t : Task) (j : Nat) : (s.noteCancel id t).task j = s.task j := by
  obtain ⟨x, h⟩ := s.noteCancel_frame id t
  rw [h]
  rfl

/-- The end that a cancel brings takes no task's place, and a packet's task away. -/
theorem State.cancelEnds_tasks {s : State} {c : Cancel} {t : Task} (ht : s.task c.task = some t) (fate : Nat) :
    s.NoNewTask (s.cancelEnds c t fate).1 ∧ (t.queue ≠ none → (s.cancelEnds c t fate).1.task c.task = none) := by
  have hnote : ({ s.noteCancel c.task t with cancelledAt := some s.now } : State).task c.task = some t := (s.noteCancel_task _ _ _).trans ht
  have hfirst : s.NoNewTask { s.noteCancel c.task t with cancelledAt := some s.now } := .of_task (s.noteCancel_task c.task t)
  obtain ⟨hnew, hgone⟩ := State.endTask_tasks (State.putTask_task _ c.task _) { fate := fate, res := resCancelled, cause := 0, quiet := false }
  exact ⟨(hfirst.trans (State.noNewTask_putTask hnote _)).trans hnew, hgone⟩

theorem State.noNewTask_cancelRuns {s : State} {c : Cancel} {t : Task} (ht : s.task c.task = some t) : s.NoNewTask (s.cancelRuns c t) := by
  unfold State.cancelRuns
  split
  · exact .refl s
  · split
    · split
      · exact .refl s
      · exact State.noNewTask_putTask (s := { s with cancels := s.cancels ++ [{ c with casc := false }] }) ht _
    · exact (s.noNewTask_noteCancel c.task t).trans (State.noNewTask_runningCancel ((s.noteCancel_task _ _ _).trans ht) t)

theorem State.noNewTask_cancelOne (s : State) (c : Cancel) : s.NoNewTask (s.cancelOne c).1 := by
  cases ht : s.task c.task with
  | none => simp only [State.cancelOne, ht]; exact .refl s
  | some t =>
    rw [State.cancelOne_eq ht]
    split
    · exact (State.cancelEnds_tasks ht 3).1
    · exact (State.cancelEnds_tasks ht 3).1
    · split
      · exact .refl s
      · split
        · exact (s.noNewTask_noteCancel c.task t).trans (State.noNewTask_endLater ((s.noteCancel_task _ _ _).trans ht) t)
        · exact (State.cancelEnds_tasks ht 7).1
    · exact State.noNewTask_cancelRuns ht
    · exact State.noNewTask_cancelRuns ht
    · exact .refl s

/-- The walk of a cascade over a task's own list, before its cancel. -/
def State.cascadeWalk (s : State) (c : Cancel) (t : Task) : State × List Nat :=
  let (u, ks) := s.cascadeKids t
  (if t.st == .armed then u else u.onTask c.task (fun x => { x with walked := true }), ks)

theorem State.noNewTask_cascadeWalk (s : State) (c : Cancel) (t : Task) : s.NoNewTask (s.cascadeWalk c t).1 := by
  have hk := (s.wrote_cascadeKids t).noNewTask
  unfold State.cascadeWalk
  dsimp only
  split
  · exact hk
  · exact hk.trans (State.noNewTask_onTask _ _ _)

theorem State.cancelAll_cons {s : State} {c : Cancel} {t : Task} (ht : s.task c.task = some t) (fuel : Nat) (seen : List Nat) (rest : List Cancel) :
    s.cancelAll (fuel + 1) seen (c :: rest) =
      let walks := c.casc && !seen.contains c.task
      let r := if walks then s.cascadeWalk c t else (s, [])
      let x := r.1.cancelOne c
      x.1.cancelAll fuel (if walks then c.task :: seen else seen)
        (rest ++ (r.2 ++ x.2).map (fun j => { task := j, at_ := s.now, grace := none, casc := true })) := by
  simp only [State.cancelAll, ht]
  rfl

theorem State.cancelAll_nil (fuel : Nat) (seen : List Nat) (s : State) : s.cancelAll fuel seen [] = s := by
  cases fuel <;> rfl

theorem State.noNewTask_cancelAll (fuel : Nat) : ∀ (s : State) (seen : List Nat) (cs : List Cancel), s.NoNewTask (s.cancelAll fuel seen cs) := by
  induction fuel with
  | zero => exact fun s _ _ => .refl s
  | succ fuel ih =>
    intro s seen cs
    cases cs with
    | nil => exact .refl s
    | cons c rest =>
      cases ht : s.task c.task with
      | none =>
        have he : s.cancelAll (fuel + 1) seen (c :: rest) = s.cancelAll fuel seen rest := by simp only [State.cancelAll, ht]
        rw [he]
        exact ih s seen rest
      | some t =>
        rw [State.cancelAll_cons ht]
        dsimp only
        refine (State.NoNewTask.trans ?_ (State.noNewTask_cancelOne _ c)).trans (ih _ _ _)
        split
        · exact s.noNewTask_cascadeWalk c t
        · exact .refl s

/-- A cancel from a packet: what it does to its own task, and then the cascades that it starts. -/
theorem State.cancelTask_eq {s : State} {id : Nat} {t : Task} (ht : s.task id = some t) :
    ∃ n, s.cancelTask id =
      let x := s.cancelOne { task := id, at_ := s.now, grace := none, casc := false }
      x.1.cancelAll n [] (x.2.map (fun j => { task := j, at_ := s.now, grace := none, casc := true })) := by
  have hfuel : cascadeFuel = (2 ^ 24 - 1) + 1 := by decide
  refine ⟨2 ^ 24 - 1, ?_⟩
  rw [State.cancelTask, hfuel, State.cancelAll_cons ht]
  rfl

end Sys2Proof.Machine

/-! # Proofs: APPLY of a plain write (O10) -/

namespace Sys2Proof.Machine

open Sys2Proof Sys2Proof.Claims

/-! ### A queue whose end a write brings is dead after it (R41) -/

theorem State.deadStep_keeps (s : State) (k : Nat) (p : Nat × Queue) {t : State} {id : Nat} {y : Queue} (h : t.queue id = some y) :
    ∃ z, (s.deadStep k t p).queue id = some z ∧ (y.state = .dead → z.state = .dead) := by
  unfold State.deadStep
  split
  · rw [State.queueState_queue]
    split
    · next hid =>
      rw [← hid, h]
      exact ⟨_, rfl, fun _ => rfl⟩
    · exact ⟨y, h, fun hd => hd⟩
  · exact ⟨y, h, fun hd => hd⟩

theorem State.deadStep_dead {s t : State} {k id : Nat} {x y : Queue} (hx : s.endsAt k x = true) (h : t.queue id = some y) :
    ∃ z, (s.deadStep k t (id, x)).queue id = some z ∧ z.state = .dead := by
  simp [State.deadStep, hx, State.queueState_queue, h]

theorem State.foldl_deadStep_keeps {s : State} {k id : Nat} (l : List (Nat × Queue)) : ∀ {t : State} {y : Queue},
    t.queue id = some y → ∃ z, (l.foldl (s.deadStep k) t).queue id = some z ∧ (y.state = .dead → z.state = .dead) := by
  induction l with
  | nil => exact fun {_ y} h => ⟨y, h, fun hd => hd⟩
  | cons p l ih =>
    intro t y h
    obtain ⟨z, hz, hyz⟩ := s.deadStep_keeps k p h
    obtain ⟨w, hw, hzw⟩ := ih hz
    exact ⟨w, hw, hzw ∘ hyz⟩

theorem State.foldl_deadStep_dead {s : State} {k id : Nat} {x : Queue} (hx : s.endsAt k x = true) (l : List (Nat × Queue)) :
    ∀ {t : State} {y : Queue}, (id, x) ∈ l → t.queue id = some y → ∃ z, (l.foldl (s.deadStep k) t).queue id = some z ∧ z.state = .dead := by
  induction l with
  | nil => exact fun h => nomatch h
  | cons p l ih =>
    intro t y hm h
    rcases List.mem_cons.1 hm with rfl | hm
    · obtain ⟨z, hz, hd⟩ := State.deadStep_dead hx h
      obtain ⟨w, hw, hzw⟩ := State.foldl_deadStep_keeps l hz
      exact ⟨w, hw, hzw hd⟩
    · obtain ⟨z, hz, _⟩ := s.deadStep_keeps k p h
      exact ih hm hz

theorem State.deadQueues_dead {s : State} {k id : Nat} {x : Queue} (hx : s.endsAt k x = true) (h : s.queue id = some x) :
    ∃ y, (s.deadQueues k).queue id = some y ∧ y.state = .dead :=
  State.foldl_deadStep_dead hx _ (AMap.mem_of_find h) h

/-- When a queue ends, as the obligation says it. -/
theorem State.endsAt_iff (s : State) (k : Nat) (x : Queue) :
    s.endsAt k x = true ↔ x.state ≠ .dead ∧ (∃ d, s.queueKey x x.desc = some d ∧ d / 16 = k / 16) ∧ 2 ^ 48 ≤ s.widx x := by
  cases hk : s.queueKey x x.desc <;> simp [State.endsAt, hk, and_assoc]

/-! ### APPLY of a plain write that its port takes (R140, R165, R167) -/

/-- What the write makes of the device, before a queue's end that it may bring. -/
def State.plainApplied (s : State) (q : Req) (bs : List Byte) : State := ((s.dropReq q).applyWrite q.key (plain bs) q.cmpr).finish q

/-- Whether the write's issuer waits for its completion changes the responses alone. -/
theorem State.finish_frame (s : State) (q : Req) : ∃ rs, s.finish q = { s with resps := rs } := by
  unfold State.finish
  split
  · exact ⟨_, rfl⟩
  · exact ⟨_, rfl⟩

theorem State.plainApplied_eq (s : State) (q : Req) (bs : List Byte) :
    ∃ rs, s.plainApplied q bs = { (s.dropReq q).applyWrite q.key (plain bs) q.cmpr with resps := rs } := State.finish_frame _ _

theorem State.applyReq_plain {s : State} {q : Req} {bs : List Byte} (ha : q.act = .write (plain bs) .keep) (hl : s.linkFault q = none)
    (hr : s.refuses q.key (plain bs) q.cmpr 1 = none) :
    s.applyReq q = some (if isHbm q.key then (s.plainApplied q bs).deadQueues q.key else s.plainApplied q bs) := by
  have hstore : (s.dropReq q).applyAct q = some (s.plainApplied q bs) := by
    have hd : (s.dropReq q).refuses q.key (plain bs) q.cmpr 1 = none := hr
    simp [State.applyAct, ha, State.applyStore_plain hd, State.plainApplied]
  have hclaim : q.mayClaim = isHbm q.key := by simp [Req.mayClaim, ha, Act.mutates]
  simp [State.applyReq, hl, hstore, hclaim]

theorem State.completes_apply {s t : State} {p : Port} {q : Req} {rest : List Req} (hp : p ≠ .aperture) (hq : s.portReqs p = q :: rest)
    (h : s.applyReq q = some t) : Completes (.apply p) s t := by
  have hport : s.applyPort p = t := by simp [State.applyPort, State.tryApply, hq, State.tryPast, h]
  cases p with
  | aperture => exact absurd rfl hp
  | _ => exact congrArg Host.Outcome.next hport

theorem State.plainApplied_queues (s : State) (q : Req) (bs : List Byte) : (s.plainApplied q bs).queues = s.queues := by
  obtain ⟨rs, hu⟩ := s.plainApplied_eq q bs
  rw [hu]
  exact State.applyWrite_queues _ _ _ _

theorem State.plainApplied_tags (s : State) (q : Req) (bs : List Byte) (g : Nat) :
    g ∈ (s.plainApplied q bs).tags ↔ g ∈ s.tags ∧ g ∉ granulesOf q.key bs.length := by
  obtain ⟨rs, hu⟩ := s.plainApplied_eq q bs
  have ht := ((s.dropReq q).applyWrite_mem q.key (plain bs) q.cmpr).2
  have hlen : (plain bs).length = bs.length := List.length_map _
  rw [hlen] at ht
  have hu' : (s.plainApplied q bs).tags = s.tags.filter (fun g => !(granulesOf q.key bs.length).contains g) := by
    rw [hu]
    exact ht
  simp [hu']

/-- Settles O10: the first request of the port is the one that APPLY takes; its write makes `plainApplied`, and where it touches HBM the queues
whose end it brings die, in the order of the record. -/
theorem writeApplies : Obligations.WriteApplies := by
  intro s p q bs rest hp hwf hq ha hl hr
  obtain ⟨rs, hu⟩ := s.plainApplied_eq q bs
  have hw := (s.dropReq q).wrote_applyWrite q.key (plain bs) q.cmpr
  have hqs := s.plainApplied_queues q bs
  refine ⟨s.plainApplied q bs, _, State.completes_apply hp hq (State.applyReq_plain ha hl hr), ?_, s.plainApplied_tags q bs, ?_, ?_, ?_, ?_⟩
  · intro k
    rw [hu]
    exact State.get_applyWrite_plain (s.dropReq q) q.key bs q.cmpr hwf k
  · rw [hu]
    exact hw.reqs
  · intro r
    rw [hu]
    exact hw.pacer r
  · intro hnone
    split
    · next hb =>
      refine State.deadQueues_of_none fun x hx => Bool.eq_false_iff.2 fun he => ?_
      exact hnone x (hqs ▸ hx) ⟨hb, (State.endsAt_iff _ _ _).1 he⟩
    · rfl
  · rintro qid x hx ⟨hb, hends⟩
    rw [if_pos hb]
    exact State.deadQueues_dead ((State.endsAt_iff _ _ _).2 hends) (by rwa [State.queue, hqs])

end Sys2Proof.Machine

/-! # Proofs: the work of the BTEs (O43) -/

namespace Sys2Proof.Machine

open Sys2Proof Sys2Proof.Claims

/-- The packet of a copy of 512 bytes, which its BTE has started. -/
def copyPacket : Pkt := { seq := 0, bytes := leBytes 8 0x10, caps := [], taskId := 0, started := true }

/-- A copy queue that waits for that packet's outcome. -/
def copyQueue : Queue :=
  { vd := 0, kind := 2, log2n := 0, bte := 0, desc := 0, ring := 0, capt := 0, stall := 1024, state := .run, seqAt := 0, r := 1, waitFrom := none,
    heldStall := false, used := true, destroying := [], pend := [copyPacket], seen := [] }

/-- The packet's command, with its one chunk waiting for its completion bit. -/
def copyCommand : Bte :=
  { queue := some (1, 0), region := 0, vd := 0, sup := false, bte := 0, mode := 0, resume := false, src := Cap.null, dst := Cap.null, cmpl := Cap.null,
    rowlen := 512, rows := 1, sstride := 0, dstride := 0, value := 0, firstbit := 0, started := true, todo := [],
    flight := [(0, { phase := .bit, reads := [], got := [], writes := [5], cause := none })], failed := [], detail := [], landed := [], after := 0,
    scope := none, body := copyPacket.bytes, stopped := false }

/-- The module with the answer to that chunk's OR on its way. -/
def lastBitAnswered : State :=
  { State.reset with
    mgc := { State.reset.mgc with boot := .ready }, queues := [(1, copyQueue)], btes := [(0, copyCommand)],
    resps := [{ stamp := 5, issuer := .bte 0 0, va := 0, port := .bank 0 0, bytes := [], flag := true, cause := none }] }

/-- The state after the answer has come: the command is over, and its packet has its outcome entry. -/
def lastBitDelivered : State := (lastBitAnswered.resps[0]?).elim lastBitAnswered lastBitAnswered.deliverResp

theorem exec_lastBitAnswered : exec (.ret 0) lastBitAnswered = .next lastBitDelivered := rfl

/-- The journal's first entry has its KIND, 1, in the top bits of its second word (R57). -/
theorem get_lastBitDelivered : Memory.get lastBitDelivered.mem (apKey 0x0100000F) = 0x10 := by decide +kernel

/-- What the clause lacks: where no outcome follows, because chunks are left or no queue gave the command, the answer to a chunk's OR leaves memory
and the requests as they are. -/
theorem State.completes_ret_bit {s : State} {id n j : Nat} {x : Bte} {r : Resp} {c : ChunkIo} (hx : AMap.find s.btes id = some x)
    (hrun : s.bteRuns x = true) (hr : s.resps[n]? = some r) (hi : r.issuer = .bte id j) (hc : r.cause = none)
    (hd : s.dropped.contains r.stamp = false) (hf : AMap.find x.flight j = some c) (hp : c.phase = .bit)
    (hq : x.queue = none ∨ AMap.del x.flight j ≠ [] ∨ x.todo ≠ []) : ∃ t, Completes (.ret n) s t ∧ t.mem = s.mem ∧ t.reqs = s.reqs := by
  have hstop : x.stopped = false := by
    unfold State.bteRuns at hrun
    simp only [Bool.and_eq_true, Bool.not_eq_true'] at hrun
    exact hrun.1
  refine ⟨_, congrArg Host.Outcome.next (by rw [hr]), ?_⟩
  simp only [State.deliverResp, hd, Bool.false_eq_true, if_false, hi, State.chunkResp, hx, Option.bind_some, hf, hp, hc, Option.isSome_none,
    State.chunkOver, State.onBte, State.bteEnd, AMap.find_put_same]
  split
  · exact ⟨rfl, rfl⟩
  · next hend =>
    have hnone : x.queue = none := by
      simp [hstop] at hend
      tauto
    simp [hnone, hstop]

/-- The module with that answer on its way, where the command came from a region. -/
theorem meets_completes_ret_bit : ∃ t, Completes (.ret 0) { lastBitAnswered with btes := [(0, { copyCommand with queue := none })] } t ∧ t.mem = [] := by
  obtain ⟨t, hstep, hmem, _⟩ := State.completes_ret_bit (s := { lastBitAnswered with btes := [(0, { copyCommand with queue := none })] }) (id := 0)
    (n := 0) (j := 0) rfl rfl rfl rfl rfl rfl rfl rfl (.inl rfl)
  exact ⟨t, hstep, hmem⟩

/-- Refutes O43: a clause of ChunkMoves has no byte of memory change where the answer to a chunk's OR comes. Where that chunk is the last one of a
queue's command, the command ends with it (R48), and its packet's outcome entry is written into the journal, which lies in memory (R57). -/
theorem not_engineWork : ¬ Obligations.EngineWork := by
  rintro ⟨_, hmoves, _⟩
  obtain ⟨_, hanswer, _⟩ := hmoves lastBitAnswered 0 copyCommand rfl rfl rfl
  obtain ⟨_, _, hbit⟩ := hanswer 0 _ 0 _ rfl rfl rfl rfl rfl rfl
  obtain ⟨t, hstep, hmem, _⟩ := hbit rfl
  obtain rfl : lastBitDelivered = t := Host.Outcome.next.inj (exec_lastBitAnswered.symm.trans hstep)
  have hentry := get_lastBitDelivered
  rw [hmem] at hentry
  exact absurd hentry (by decide)

end Sys2Proof.Machine

/-! # Proofs: the privileged group (O44) -/

namespace Sys2Proof.Machine

open Sys2Proof Sys2Proof.Claims

/-! ### Supervisor mode, and instructions that only move on (R207, R216) -/

theorem State.privileged_sup {s : State} (h : s.reg.pacer.mode = true) (i : Instr) (k : State → Out) : s.privileged i k = k s := if_pos h

theorem State.unmasked_of_mask {s : State} (h : s.reg.pacer.mask = false) : s.unmasked := .inr h

/-- A change of the current region's record that leaves its Pacer, and NextPC. -/
theorem State.movedOn_onReg (s : State) {f : Region → Region} (hf : (f s.reg).pacer = s.reg.pacer) : s.movedOn (s.onReg f).advance := by
  have he : (s.onReg f).advance = s.setReg { f s.reg with pacer := { (f s.reg).pacer with pcc := (f s.reg).pacer.pcc.withCursor (s.pc + 4) } } := by
    simp [State.onPacer, State.onReg, State.pc, hf]
  rw [he]
  refine ⟨s.here_setReg _, ?_⟩
  rw [State.setReg_reg, hf]
  rfl

theorem State.movedOn_advance (s : State) : s.movedOn s.advance := ⟨s.here_setReg _, by simp [State.pc, State.nextPC]⟩

theorem State.completes_block (s : State) : ∃ t, s.block = .next t ∧ polls s t :=
  ⟨_, rfl, s.here_setReg _, s.onReg_reg _⟩

/-! ### TLBI and TLBSYNC (R145, R178, R289) -/

section
variable {s : State} (hm : s.reg.pacer.mode = true)
include hm

theorem State.exec_tlbi (a b : XReg) {vd page : Nat} (h : vaOperand (s.rx a) = some (vd, page)) : exec (.tlbi a b) s = .next
    (({ s with
      tlb := s.tlb.filter (fun e => !e.within vd (if (s.rx b).toNat = 0 then none else some (page, (s.rx b).toNat))),
      invals := s.invals ++
        [{ region := s.cur, vd := vd, range := if (s.rx b).toNat = 0 then none else some (page, (s.rx b).toNat), stamp := none }] } : State).advance) := by
  show execTlbi a b s = _
  simp only [execTlbi, State.privileged_sup hm, h, beq_iff_eq]

theorem State.exec_tlbi_fault (a b : XReg) (h : vaOperand (s.rx a) = none) : exec (.tlbi a b) s = s.fail0 0x0E (.tlbi a b) := by
  show execTlbi a b s = _
  simp only [execTlbi, State.privileged_sup hm, h]

theorem State.exec_vdDirty_fault (cd : CReg) (a b : XReg) (h : vaOperand (s.rx a) = none) :
    exec (.vdDirty cd a b) s = s.fail0 0x0E (.vdDirty cd a b) := by
  show execVdDirty cd a b s = _
  simp only [execVdDirty, State.privileged_sup hm, h]

theorem State.exec_tlbsync_storing (h : s.storing = true) : exec .tlbsync s = s.block := by
  show execTlbsync s = _
  simp only [execTlbsync, State.privileged_sup hm, h, if_true]

theorem State.exec_tlbsync_waits (h : s.storing = false) (hw : s.syncFrom.syncWaits = true) : exec .tlbsync s = s.syncFrom.block := by
  show execTlbsync s = _
  simp only [execTlbsync, State.privileged_sup hm, h, hw, Bool.false_eq_true, if_false, if_true]

theorem State.exec_tlbsync_done (h : s.storing = false) (hw : s.syncFrom.syncWaits = false) : exec .tlbsync s =
    .next ((({ s.syncFrom with invals := s.syncFrom.invals.filter (fun v => v.region != s.cur) } : State).onReg
      (fun g => { g with icache := [] })).advance) := by
  show execTlbsync s = _
  simp only [execTlbsync, State.privileged_sup hm, h, hw, Bool.false_eq_true, if_false]
  rfl

end

/-- The invalidations of the current region that no TLBSYNC has taken up. -/
def State.unsynced (s : State) (v : Inval) : Bool := v.region == s.cur && v.stamp.isNone

theorem State.syncFrom_eq (s : State) : s.syncFrom = { s with
    tlb := s.tlb.filter (fun e => !s.invals.any (fun v => s.unsynced v && e.within v.vd v.range)),
    invals := s.invals.map (fun v => if s.unsynced v then { v with stamp := some s.stamp } else v) } := rfl

theorem State.syncFrom_stamped (s : State) : ∀ v ∈ s.syncFrom.invals, s.syncFrom.unsynced v = false := by
  intro v hv
  obtain ⟨x, _, rfl⟩ := List.mem_map.1 hv
  split
  · simp [State.unsynced]
  · next h => exact Bool.not_eq_true _ ▸ h

/-- Once its invalidations are taken up, a TLBSYNC finds nothing more to take up. -/
theorem State.syncFrom_syncFrom (s : State) : s.syncFrom.syncFrom = s.syncFrom := by
  have hst := s.syncFrom_stamped
  have htlb : s.syncFrom.tlb.filter (fun e => !s.syncFrom.invals.any (fun v => s.syncFrom.unsynced v && e.within v.vd v.range)) = s.syncFrom.tlb := by
    refine List.filter_eq_self.2 fun e _ => ?_
    rw [Bool.not_eq_true', List.any_eq_false]
    intro v hv
    simp [hst v hv]
  have hinv : s.syncFrom.invals.map (fun v => if s.syncFrom.unsynced v then { v with stamp := some s.syncFrom.stamp } else v) = s.syncFrom.invals := by
    refine (List.map_congr_left fun v hv => ?_).trans (List.map_id _)
    rw [hst v hv]
    rfl
  rw [State.syncFrom_eq s.syncFrom, htlb, hinv]

theorem State.syncFrom_tlb {s : State} {e : TlbEntry} (h : e ∈ s.syncFrom.tlb) :
    e ∈ s.tlb ∧ ∀ v ∈ s.invals, v.region = s.cur → v.stamp = none → e.within v.vd v.range = false := by
  obtain ⟨he, hno⟩ := List.mem_filter.1 h
  refine ⟨he, fun v hv hr hs => ?_⟩
  rw [Bool.not_eq_true', List.any_eq_false] at hno
  have hx := hno v hv
  simpa [hr, hs] using hx

/-- The other regions' invalidations stay as they are. -/
theorem State.syncFrom_others (s : State) : s.syncFrom.invals.filter (fun v => v.region != s.cur) = s.invals.filter (fun v => v.region != s.cur) := by
  rw [State.syncFrom_eq]
  simp only [List.filter_map]
  have hp : (fun v : Inval => v.region != s.cur) ∘ (fun v => if s.unsynced v then { v with stamp := some s.stamp } else v) =
      fun v => v.region != s.cur := by
    funext v
    simp only [Function.comp_apply]
    split <;> rfl
  rw [hp]
  refine (List.map_congr_left fun v hv => ?_).trans (List.map_id _)
  have hne : (v.region != s.cur) = true := (List.mem_filter.1 hv).2
  have hno : s.unsynced v = false := by
    rw [bne, Bool.not_eq_true'] at hne
    simp only [State.unsynced, hne, Bool.false_and]
  rw [hno]
  rfl

/-- Settles the clauses on TLBSYNC once its Pacer's stores have been applied. -/
theorem State.tlbsync_spec {s : State} (hm : s.reg.pacer.mode = true) (h : s.storing = false) : let u := s.syncFrom
    (∀ v ∈ u.invals, v.region = s.cur → v.stamp ≠ none) ∧
    (∀ e ∈ u.tlb, e ∈ s.tlb ∧ ∀ v ∈ s.invals, v.region = s.cur → v.stamp = none → e.within v.vd v.range = false) ∧
    (u.syncWaits = true → Waits .tlbsync u ∧ ∃ t, Completes .tlbsync s t ∧ polls u t) ∧
    (u.syncWaits = false → ∃ t, Completes .tlbsync s t ∧
      ({ u with invals := s.invals.filter (fun (v : Inval) => v.region != s.cur) } : State).movedOn t ∧
      t.reg.icache = []) := by
  intro u
  refine ⟨fun v hv hr hs => ?_, fun e he => State.syncFrom_tlb he, fun hw => ⟨?_, ?_⟩, fun hw => ?_⟩
  · have hst := s.syncFrom_stamped v hv
    have hcur : s.syncFrom.cur = s.cur := rfl
    simp [State.unsynced, hcur, hr, hs] at hst
  · have hmu : u.reg.pacer.mode = true := hm
    have hsu : u.storing = false := h
    obtain ⟨t, ht, hwait⟩ := u.block_waits
    have hwu : u.syncFrom.syncWaits = true := by rw [State.syncFrom_syncFrom]; exact hw
    have hstep := State.exec_tlbsync_waits hmu hsu hwu
    rw [State.syncFrom_syncFrom] at hstep
    exact ⟨t, hstep.trans ht, hwait⟩
  · obtain ⟨t, ht, hp⟩ := u.completes_block
    exact ⟨t, (State.exec_tlbsync_waits hm h hw).trans ht, hp⟩
  · have hstep := State.exec_tlbsync_done hm h hw
    rw [s.syncFrom_others] at hstep
    refine ⟨_, hstep, State.movedOn_onReg _ rfl, ?_⟩
    simp

end Sys2Proof.Machine

/-! # Proofs: VD.DIRTY in supervisor mode (O44) -/

namespace Sys2Proof.Machine

open Sys2Proof Sys2Proof.Claims

/-! ### The dirty bits that are fetched and cleared (R52) -/

theorem State.dirtyBits_frame (v : Nat) (n : Nat) : ∀ (s : State) (va : Nat), ∃ d, (s.dirtyBits v n va).2 = { s with dirty := d } := by
  induction n with
  | zero => exact fun s _ => ⟨s.dirty, rfl⟩
  | succ n ih =>
    intro s va
    rw [State.dirtyBits]
    split
    next b s1 hb =>
    have h1 : ∃ d, s1 = { s with dirty := d } := by
      split at hb
      · cases hb; exact ⟨_, rfl⟩
      · cases hb; exact ⟨s.dirty, rfl⟩
    obtain ⟨d, rfl⟩ := h1
    exact ih { s with dirty := d } (va + 65536)

theorem State.dirtyBits_length (v : Nat) (n : Nat) : ∀ (s : State) (va : Nat), (s.dirtyBits v n va).1.length = n := by
  induction n with
  | zero => exact fun _ _ => rfl
  | succ n ih =>
    intro s va
    rw [State.dirtyBits]
    split
    rw [List.length_cons]
    exact congrArg Nat.succ (ih _ _)

@[simp] theorem packBits_length (bs : List Bool) : (packBits bs).length = (bs.length + 7) / 8 := by simp [packBits]

/-! ### The requests of the bitmap (R165, R235) -/

/-- The writes dealt out to the pieces. -/
theorem foldl_doneActs (ps : List Piece) : ∀ (acts : List Act) (bs : List Byte),
    (ps.foldl (fun (acc : List Act × List Byte) p => (acc.1 ++ [.writeDone (acc.2.take p.size)], acc.2.drop p.size)) (acts, bs)).1 =
      acts ++ doneActs ps bs := by
  induction ps with
  | nil => exact fun acts _ => (List.append_nil acts).symm
  | cons p ps ih =>
    intro acts bs
    rw [List.foldl_cons, ih, doneActs, List.append_assoc]
    rfl

/-- The new requests of some pieces with their effects. -/
def pieceReqs (ps : List Piece) (acts : List Act) : List NewReq :=
  (ps.zip acts).map (fun p => { key := p.1.key, va := p.1.va, port := portOf p.1.key, cmpr := p.1.cmpr, act := p.2 })

/-- The state in which the instruction waits for its requests. -/
def State.awaitPieces (s : State) (ps : List Piece) (acts : List Act) (k : Cont) : State :=
  let r := s.enterPacer (pieceReqs ps acts)
  r.1.await k r.2

theorem State.awaitPieces_waitsFor (s : State) (sp x n : Nat) (ps : List Piece) (acts : List Act) (k : Cont) :
    s.waitsFor ((s.walked sp x n).awaitPieces ps acts k) ps acts k := by
  obtain ⟨e, he⟩ := s.walked_frame sp x n
  obtain ⟨qs, h1, h2, h3⟩ := ({ s with tlb := e } : State).enterPacer_spec (pieceReqs ps acts)
  have hr : (pieceReqs ps acts).map (fun r => (Issuer.pacer s.cur, Stage.rq s.cur, r.key, r.port, r.act)) =
      (ps.zip acts).map (fun p => (Issuer.pacer s.cur, Stage.rq s.cur, p.1.key, portOf p.1.key, p.2)) := by
    simp [pieceReqs, Function.comp_def]
  have hissues : s.issues (({ s with tlb := e } : State).enterPacer (pieceReqs ps acts)).1 ps acts qs := by
    rw [h1]
    exact ⟨rfl, h3.trans hr, rfl, fun _ _ => rfl, rfl, rfl⟩
  have hreg : (({ s with tlb := e } : State).enterPacer (pieceReqs ps acts)).1.reg.pacer = s.reg.pacer := by rw [h1]; rfl
  have hcur : (({ s with tlb := e } : State).enterPacer (pieceReqs ps acts)).1.cur = s.cur := by rw [h1]
  have h := State.await_issues k hissues hcur hreg
  rw [he, State.awaitPieces, h2]
  exact h

theorem State.exec_vdDirty {s : State} (hm : s.reg.pacer.mode = true) {cd : CReg} {a b : XReg} {vd page sp : Nat} {ps : List Piece} {bits : List Bool}
    {s1 : State} (hop : vaOperand (s.rx a) = some (vd, page)) (hlo : 1 ≤ (s.rx b).toNat) (hhi : (s.rx b).toNat ≤ 65536)
    (hvd : AMap.find s.vds vd ≠ none)
    (hacc : s.access (s.rc cd) (s.rc cd).cursor.toNat (((s.rx b).toNat + 7) / 8) permStore kindWrite [1, 2, 3, 4, 5] Use.store = .ok (sp, ps))
    (hbits : s.dirtyBits vd (s.rx b).toNat (65536 * page) = (bits, s1)) : exec (.vdDirty cd a b) s =
      .next ((s1.walked sp (inSpace (s.rc cd).cursor) (((s.rx b).toNat + 7) / 8)).awaitPieces ps (doneActs ps (packBits bits))
        (.deferred (.held .done))) := by
  show execVdDirty cd a b s = _
  have hnone : (AMap.find s.vds vd).isNone = false := Option.isNone_eq_false_iff.2 (Option.isSome_iff_ne_none.2 hvd)
  have hrange : (decide ((s.rx b).toNat < 1) || decide ((s.rx b).toNat > 65536)) = false := by
    simp only [Bool.or_eq_false_iff, decide_eq_false_iff_not]
    omega
  simp only [execVdDirty, State.privileged_sup hm, hop, hrange, hnone, Bool.or_self, Bool.false_eq_true, if_false, hacc, hbits, foldl_doneActs,
    List.nil_append]
  rfl

/-! ### One write, from RQ to its port and back (R165, R167, R256) -/

/-- The ordering machine holds one request, which the current region's Pacer waits for. -/
def State.inFlight (v : State) (q : Req) (k : Cont) : State :=
  ({ v with reqs := [q], stamp := v.stamp + 1 } : State).onReg (fun g => { g with wait := .resp k [q.stamp] [] })

/-- The request has been applied, and its completion is on its way. -/
def State.answered (v : State) (q : Req) (k : Cont) (bs : List Byte) : State :=
  (((v.inFlight q k).dropReq q).applyWrite q.key (plain bs) q.cmpr).respond q [] true

/-- The completion has come, and the instruction has completed. -/
def State.settled1 (v : State) (q : Req) (k : Cont) (bs : List Byte) : State :=
  (({ v.answered q k bs with resps := [] } : State).onReg (fun g => { g with wait := .none })).advance

theorem State.moveReq_inFlight (v : State) (q : Req) (k : Cont) (st : Stage) : (v.inFlight q k).moveReq q st = v.inFlight { q with stage := st } k := by
  simp [State.moveReq, State.inFlight]
  rfl

/-- The stage after a level, as PASS finds it. -/
def stageAfter (cur : Nat) (l : Level) : Stage := match l with | .cq => .rq cur | .rq => .dq (dieOf cur) | .dq => .pq

/-- PASS takes the one request on. -/
theorem State.pass_inFlight {v : State} {q : Req} {k : Cont} {l : Level} {unit : Nat} (h : q.stage = levelStage v.cur l unit) :
    Completes (.pass l unit q.port) (v.inFlight q k) (v.inFlight { q with stage := stageAfter v.cur l } k) := by
  have hhead : (v.inFlight q k).headOf (levelStage (v.inFlight q k).cur l unit) q.port = some q := by
    have hcur : (v.inFlight q k).cur = v.cur := rfl
    have hreqs : (v.inFlight q k).reqs = [q] := rfl
    simp [State.headOf, hcur, hreqs, h]
  have hstep := ((v.inFlight q k).completes_pass l unit q.port).1 q hhead
  rw [State.moveReq_inFlight] at hstep
  exact hstep

/-- APPLY makes the write visible. -/
theorem State.apply_inFlight {v : State} {q : Req} {k : Cont} {bs : List Byte} (hqs : v.queues = []) (hi : q.issuer = .pacer v.cur) (hst : q.stage = .pq)
    (hp : q.port ≠ .aperture) (ha : q.act = .writeDone bs) (hl : v.portFault (some (dieOf v.cur)) q.port = none)
    (hr : v.refuses q.key (plain bs) q.cmpr 1 = none) : Completes (.apply q.port) (v.inFlight q k) (v.answered q k bs) := by
  have hreqs : (v.inFlight q k).portReqs q.port = [q] := by
    have h1 : (v.inFlight q k).reqs = [q] := rfl
    simp [State.portReqs, h1, hst]
  have hlink : (v.inFlight q k).linkFault q = none := by
    simp only [State.linkFault, hi]
    exact hl
  have href : ((v.inFlight q k).dropReq q).refuses q.key (plain bs) q.cmpr 1 = none := hr
  have hdead : (v.answered q k bs).deadQueues q.key = v.answered q k bs := by
    refine State.deadQueues_of_none fun x hx => ?_
    have hnone : (v.answered q k bs).queues = [] := (State.applyWrite_queues _ _ _ _).trans hqs
    rw [hnone] at hx
    cases hx
  refine State.completes_apply hp hreqs ?_
  have hact : ((v.inFlight q k).dropReq q).applyAct q = some (v.answered q k bs) := by
    simp only [State.applyAct, ha, href]
    rfl
  simp only [State.applyReq, hlink, hact, Option.map_some, hdead, ite_self]

/-- The write leaves the wait of its Pacer, which is for no monitor. -/
theorem State.answered_reg (v : State) (q : Req) (k : Cont) (bs : List Byte) :
    (v.answered q k bs).reg = { v.reg with wait := .resp k [q.stamp] [] } := by
  have hw := ((v.inFlight q k).dropReq q).wrote_applyWrite q.key (plain bs) q.cmpr
  have hbefore : ((v.inFlight q k).dropReq q).region v.cur = { v.reg with wait := .resp k [q.stamp] [] } :=
    State.onReg_reg { v with reqs := [q], stamp := v.stamp + 1 } (fun g => { g with wait := .resp k [q.stamp] [] })
  have hcur : (v.answered q k bs).cur = v.cur := hw.cur
  have hreg : (v.answered q k bs).reg = (((v.inFlight q k).dropReq q).applyWrite q.key (plain bs) q.cmpr).region v.cur := by
    rw [State.reg, hcur]
    rfl
  rw [hreg]
  rcases hw.woken v.cur with h | ⟨⟨m, hm⟩, _⟩
  · rw [h, hbefore]
  · rw [hbefore] at hm
    cases hm

/-- The last response that a deferred or held instruction without a result waits for. -/
theorem State.pacerResp_last {s : State} {r : Nat} {x : Resp} (hw : (s.region r).wait = .resp (.deferred (.held .done)) [x.stamp] [])
    (hc : x.cause = none) : s.pacerResp r x = s.as r (fun t => (t.onReg (fun g => { g with wait := .none })).advance) := by
  have hlate : State.pacerResp.late s r x = s := by simp only [State.pacerResp.late, hc]
  simp [State.pacerResp, hw, hc, hlate, State.complete]

theorem State.deliverResp_pacer {s : State} {r : Nat} {x : Resp} (hd : s.dropped = []) (hi : x.issuer = .pacer r) :
    s.deliverResp x = ({ s with resps := s.resps.filter (fun y => y.stamp != x.stamp || y.issuer != x.issuer || y.port != x.port) } : State).pacerResp r x := by
  simp only [State.deliverResp, hd, hi]
  rfl

/-- An effect that keeps the current region needs no change to it. -/
theorem State.as_cur (s : State) (f : State → State) (h : (f s).cur = s.cur) : s.as s.cur f = f s := by
  show ({ f s with cur := s.cur } : State) = f s
  rw [← h]

/-- The completion of a write of the current region's Pacer. -/
def State.completion (v : State) (q : Req) : Resp :=
  { stamp := q.stamp, issuer := .pacer v.cur, va := q.va, port := q.port, bytes := [], flag := true, cause := none }

/-- RETURN brings the completion, with which the instruction completes. -/
theorem State.ret_answered {v : State} {q : Req} {bs : List Byte} (hrs : v.resps = []) (hdr : v.dropped = []) (hi : q.issuer = .pacer v.cur) :
    Completes (.ret 0) (v.answered q (.deferred (.held .done)) bs) (v.settled1 q (.deferred (.held .done)) bs) := by
  have hw := ((v.inFlight q (.deferred (.held .done))).dropReq q).wrote_applyWrite q.key (plain bs) q.cmpr
  have hresps : (v.answered q (.deferred (.held .done)) bs).resps =
      [State.completion v q] := by
    have h0 : (((v.inFlight q (.deferred (.held .done))).dropReq q).applyWrite q.key (plain bs) q.cmpr).resps = [] :=
      (State.applyWrite_resps _ _ _ _).trans hrs
    simp only [State.answered, State.respond, h0, hi, List.nil_append, State.completion]
  have hdrop : (v.answered q (.deferred (.held .done)) bs).dropped = [] := by
    have h := congrArg State.dropped hw.rest
    exact Eq.trans h hdr
  have hcur : (v.answered q (.deferred (.held .done)) bs).cur = v.cur := hw.cur
  have hreg := v.answered_reg q (.deferred (.held .done)) bs
  rw [State.settled1]
  generalize v.answered q (.deferred (.held .done)) bs = b at hresps hdrop hcur hreg ⊢
  rw [State.reg, hcur] at hreg
  have hwait : (({ b with resps := [] } : State).region v.cur).wait = .resp (.deferred (.held .done)) [q.stamp] [] := congrArg Region.wait hreg
  refine congrArg Host.Outcome.next ?_
  rw [hresps]
  simp only [List.getElem?_cons_zero]
  rw [State.deliverResp_pacer (x := State.completion v q) hdrop rfl, hresps]
  have hgone : [State.completion v q].filter (fun y => y.stamp != (State.completion v q).stamp || y.issuer != (State.completion v q).issuer ||
      y.port != (State.completion v q).port) = [] := by simp
  rw [hgone, State.pacerResp_last (x := State.completion v q) hwait rfl, ← hcur]
  exact State.as_cur ({ b with resps := [] } : State) _ rfl

/-- One write of the current region's Pacer, in an empty ordering machine that no queue watches, from RQ to its port and back. -/
theorem State.runs_writeDone {v : State} {q : Req} {bs : List Byte} (hqs : v.queues = []) (hrs : v.resps = []) (hdr : v.dropped = [])
    (hi : q.issuer = .pacer v.cur) (hst : q.stage = .rq v.cur) (hp : q.port ≠ .aperture) (ha : q.act = .writeDone bs)
    (hl : v.portFault (some (dieOf v.cur)) q.port = none) (hr : v.refuses q.key (plain bs) q.cmpr 1 = none) :
    Runs (v.inFlight q (.deferred (.held .done))) [.pass .rq 0 q.port, .pass .dq (dieOf v.cur) q.port, .apply q.port, .ret 0]
      (v.settled1 { q with stage := .pq } (.deferred (.held .done)) bs) :=
  ⟨_, State.pass_inFlight hst, _, State.pass_inFlight (l := .dq) (q := { q with stage := .dq (dieOf v.cur) }) rfl, _,
    State.apply_inFlight (q := { q with stage := .pq }) hqs hi rfl hp ha hl hr, _,
    State.ret_answered (q := { q with stage := .pq }) hrs hdr hi, rfl⟩

/-! ### What it leaves -/

theorem State.foldl_wake_dirty (gs : List Nat) : ∀ s : State, (gs.foldl State.wake s).dirty = s.dirty := by
  induction gs with
  | nil => exact fun _ => rfl
  | cons g gs ih => exact fun s => ih (s.wake g)

theorem State.applyWrite_dirty (s : State) (k : Nat) (bs : List (Byte × Byte)) (c : Bool) :
    (s.applyWrite k bs c).dirty = (s.touch k bs.length).dirty := by
  simp only [State.applyWrite, State.foldl_wake_dirty]
  have hm : ∀ t : State, (t.noteMerge k c).dirty = t.dirty := fun t => by
    unfold State.noteMerge
    split <;> rfl
  have hd : (s.maintain k (s.merged k bs)).dirty = s.dirty := by
    unfold State.maintain
    split <;> rfl
  rw [hm]
  unfold State.touch
  split
  · simp only [hd]
  · exact hd

section
variable (v : State) (q : Req) (k : Cont) (bs : List Byte)

theorem State.answered_frame : (v.answered q k bs).mem = (((v.inFlight q k).dropReq q).applyWrite q.key (plain bs) q.cmpr).mem ∧
    (v.answered q k bs).dirty = (((v.inFlight q k).dropReq q).applyWrite q.key (plain bs) q.cmpr).dirty ∧
    (v.answered q k bs).reqs = (((v.inFlight q k).dropReq q).applyWrite q.key (plain bs) q.cmpr).reqs := by
  rw [State.answered]
  generalize ((v.inFlight q k).dropReq q).applyWrite q.key (plain bs) q.cmpr = w
  exact ⟨rfl, rfl, rfl⟩

theorem State.settled1_frame : (v.settled1 q k bs).mem = (v.answered q k bs).mem ∧ (v.settled1 q k bs).dirty = (v.answered q k bs).dirty ∧
    (v.settled1 q k bs).reqs = (v.answered q k bs).reqs ∧ (v.settled1 q k bs).resps = [] ∧
    (v.settled1 q k bs).reg = { (v.answered q k bs).reg with wait := .none, pacer := { (v.answered q k bs).reg.pacer with
      pcc := (v.answered q k bs).reg.pacer.pcc.withCursor ((v.answered q k bs).pc + 4) } } := by
  rw [State.settled1]
  generalize v.answered q k bs = b
  refine ⟨rfl, rfl, rfl, rfl, ?_⟩
  have hb : ({ b with resps := [] } : State).reg = b.reg := rfl
  simp [State.pc, hb]

theorem State.settled1_mem : (v.settled1 q k bs).mem = Memory.setBytes v.mem q.key bs := by
  have h := (((v.inFlight q k).dropReq q).applyWrite_mem q.key (plain bs) q.cmpr).1
  rw [State.merged_plain] at h
  exact ((v.settled1_frame q k bs).1.trans (v.answered_frame q k bs).1).trans h

theorem State.settled1_dirty : (v.settled1 q k bs).dirty = (v.touch q.key bs.length).dirty := by
  have h := ((v.inFlight q k).dropReq q).applyWrite_dirty q.key (plain bs) q.cmpr
  have hlen : (plain bs).length = bs.length := List.length_map _
  rw [hlen] at h
  have ht : (((v.inFlight q k).dropReq q).touch q.key bs.length).dirty = (v.touch q.key bs.length).dirty := by
    unfold State.touch
    split <;> rfl
  exact (((v.settled1_frame q k bs).2.1.trans (v.answered_frame q k bs).2.1).trans h).trans ht

theorem State.settled1_came : came v (v.settled1 q k bs) 0 0 := by
  have hreg := v.answered_reg q k bs
  have hw := ((v.inFlight q k).dropReq q).wrote_applyWrite q.key (plain bs) q.cmpr
  have hreqs : ((v.inFlight q k).dropReq q).reqs = [] := by
    have h1 : (v.inFlight q k).reqs = [q] := rfl
    simp [State.dropReq, h1]
  obtain ⟨_, _, hrq, hrs, hset⟩ := v.settled1_frame q k bs
  have hpc : (v.answered q k bs).pc + 4 = v.nextPC := by rw [State.pc, hreg]; rfl
  rw [hpc, hreg] at hset
  refine ⟨fun r => ?_, by rw [hset], by rw [hset], (hrq.trans (v.answered_frame q k bs).2.2).trans (hw.reqs.trans hreqs), hrs⟩
  rw [if_neg (fun h => h.2 rfl), State.rx, State.rx, hset]
  rfl

end

/-! ### VD.DIRTY of one piece, from its issue to its end -/

/-- The request that a piece becomes, with an effect. -/
def State.pieceReq (v : State) (p : Piece) (act : Act) : Req :=
  { stamp := v.stamp, born := v.now, issuer := .pacer v.cur, stage := .rq v.cur, port := portOf p.key, key := p.key, va := p.va, cmpr := p.cmpr,
    posted := false, act := act }

theorem State.awaitPieces_single {v : State} (h : v.reqs = []) (p : Piece) (act : Act) (k : Cont) :
    v.awaitPieces [p] [act] k = v.inFlight (v.pieceReq p act) k := by
  have hr : pieceReqs [p] [act] = [{ key := p.key, va := p.va, port := portOf p.key, cmpr := p.cmpr, act := act }] := rfl
  rw [State.awaitPieces, hr]
  simp only [State.enterPacer, State.enter, h]
  rfl

theorem State.settles_vdDirty {s : State} (hm : s.reg.pacer.mode = true) {cd : CReg} {a b : XReg} {vd page sp : Nat} {p : Piece} {bits : List Bool}
    {s1 : State} (hop : vaOperand (s.rx a) = some (vd, page)) (hlo : 1 ≤ (s.rx b).toNat) (hhi : (s.rx b).toNat ≤ 65536)
    (hvd : AMap.find s.vds vd ≠ none)
    (hacc : s.access (s.rc cd) (s.rc cd).cursor.toNat (((s.rx b).toNat + 7) / 8) permStore kindWrite [1, 2, 3, 4, 5] Use.store = .ok (sp, [p]))
    (hbits : s.dirtyBits vd (s.rx b).toNat (65536 * page) = (bits, s1)) (hsize : p.size = ((s.rx b).toNat + 7) / 8) (hquiet : quiet s)
    (hreach : reachable s p) (href : s.refuses p.key (plain (packBits bits)) p.cmpr 1 = none) :
    ∃ t, settles s (portOf p.key) (.vdDirty cd a b) t ∧ came s t 0 0 ∧ t.rd p.key p.size = packBits bits ∧
      t.dirty = (s1.touch p.key p.size).dirty := by
  obtain ⟨hreqs, hresps, hdrop, hqs, _, _, _, hwf⟩ := hquiet
  obtain ⟨hport, hfault, _, _⟩ := hreach
  have hlen : (packBits bits).length = p.size := by
    have h := s.dirtyBits_length vd (s.rx b).toNat (65536 * page)
    rw [hbits] at h
    rw [packBits_length, h, hsize]
  obtain ⟨d, hd⟩ := s.dirtyBits_frame vd (s.rx b).toNat (65536 * page)
  rw [hbits] at hd
  obtain ⟨e, he⟩ := s1.walked_frame sp (inSpace (s.rc cd).cursor) (((s.rx b).toNat + 7) / 8)
  have hstep := State.exec_vdDirty hm hop hlo hhi hvd hacc hbits
  have hacts : doneActs [p] (packBits bits) = [.writeDone (packBits bits)] := by simp only [doneActs, ← hlen, List.take_length]
  have hs1 : s1 = { s with dirty := d } := hd
  rw [he, hacts, hs1] at hstep
  let v : State := { s with dirty := d, tlb := e }
  let q := v.pieceReq p (.writeDone (packBits bits))
  rw [State.awaitPieces_single (v := v) hreqs] at hstep
  refine ⟨v.settled1 { q with stage := .pq } (.deferred (.held .done)) (packBits bits),
    ⟨_, hstep, State.runs_writeDone (v := v) (q := q) hqs hresps hdrop rfl rfl hport rfl hfault href⟩, ?_, ?_, ?_⟩
  · exact v.settled1_came _ _ _
  · exact State.rd_setBytes hwf hlen (v.settled1_mem { q with stage := .pq } (.deferred (.held .done)) (packBits bits))
  · have h := v.settled1_dirty { q with stage := .pq } (.deferred (.held .done)) (packBits bits)
    rw [hlen] at h
    have ht : (v.touch p.key p.size).dirty = (s1.touch p.key p.size).dirty := by
      rw [hs1]
      unfold State.touch
      split <;> rfl
    exact h.trans ht

theorem State.waitsFor_vdDirty {s : State} (hm : s.reg.pacer.mode = true) {cd : CReg} {a b : XReg} {vd page sp : Nat} {ps : List Piece} {bits : List Bool}
    {s1 : State} (hop : vaOperand (s.rx a) = some (vd, page)) (hlo : 1 ≤ (s.rx b).toNat) (hhi : (s.rx b).toNat ≤ 65536)
    (hvd : AMap.find s.vds vd ≠ none)
    (hacc : s.access (s.rc cd) (s.rc cd).cursor.toNat (((s.rx b).toNat + 7) / 8) permStore kindWrite [1, 2, 3, 4, 5] Use.store = .ok (sp, ps))
    (hbits : s.dirtyBits vd (s.rx b).toNat (65536 * page) = (bits, s1)) :
    ∃ t, Completes (.vdDirty cd a b) s t ∧ s1.waitsFor t ps (doneActs ps (packBits bits)) (.deferred (.held .done)) :=
  ⟨_, State.exec_vdDirty hm hop hlo hhi hvd hacc hbits, s1.awaitPieces_waitsFor _ _ _ _ _ _⟩

end Sys2Proof.Machine

/-! # Proofs: VD.STOP and VD.START in supervisor mode (O44) -/

namespace Sys2Proof.Machine

open Sys2Proof Sys2Proof.Claims

/-! ### What every part of a stop or a start keeps (R54, R77) -/

/-- The current region, every Pacer's registers, a requested stop, and whether device v is stopped are as they were. -/
structure State.KeptBy (v : Nat) (s t : State) : Prop where
  cur : t.cur = s.cur
  pacer : ∀ r, (t.region r).pacer = (s.region r).pacer
  stop : ∀ r, (s.region r).stop ≠ none → (t.region r).stop ≠ none
  device : ∀ d, AMap.find s.vds v = some d → ∃ e, AMap.find t.vds v = some e ∧ e.stopped = d.stopped

variable {v : Nat}

theorem State.KeptBy.refl (s : State) : s.KeptBy v s := ⟨rfl, fun _ => rfl, fun _ => id, fun d h => ⟨d, h, rfl⟩⟩

theorem State.KeptBy.trans {s t u : State} (h1 : s.KeptBy v t) (h2 : t.KeptBy v u) : s.KeptBy v u := by
  refine ⟨h2.cur.trans h1.cur, fun r => (h2.pacer r).trans (h1.pacer r), fun r => h2.stop r ∘ h1.stop r, fun d hd => ?_⟩
  obtain ⟨e, he, hes⟩ := h1.device d hd
  obtain ⟨f, hf, hfs⟩ := h2.device e he
  exact ⟨f, hf, hfs.trans hes⟩

theorem State.KeptBy.of_eq {s t : State} (hc : t.cur = s.cur) (hr : t.regions = s.regions) (hv : t.vds = s.vds) : s.KeptBy v t := by
  have hreg : ∀ r, t.region r = s.region r := fun r => by rw [State.region, hr, State.region]
  exact ⟨hc, fun r => by rw [hreg], fun r => by rw [hreg]; exact id, fun d hd => ⟨d, by rw [hv]; exact hd, rfl⟩⟩

theorem State.keptBy_foldl {α : Type} {f : State → α → State} (hf : ∀ (s : State) (a : α), s.KeptBy v (f s a)) (l : List α) :
    ∀ s : State, s.KeptBy v (l.foldl f s) := by
  induction l with
  | nil => exact .refl
  | cons a l ih => exact fun s => (hf s a).trans (ih (f s a))

theorem Region.Woken.stop {g h : Region} (w : g.Woken h) : h.stop = g.stop := by
  rcases w with rfl | ⟨_, rfl⟩ <;> rfl

theorem State.Wrote.keptBy {s t : State} (h : s.Wrote t) : s.KeptBy v t :=
  ⟨h.cur, h.pacer, fun r hr => by rw [(h.woken r).stop]; exact hr, fun d hd => ⟨d, by rw [h.vds]; exact hd, rfl⟩⟩

theorem State.Journaled.keptBy {s t : State} (h : s.Journaled t) : s.KeptBy v t := by
  have hc : t.cur = s.cur := by have e := congrArg State.cur h; exact e
  have hv : t.vds = s.vds := by have e := congrArg State.vds h; exact e
  exact .of_eq hc h.regions hv

/-- A change of one region that keeps its registers and a requested stop. -/
theorem State.keptBy_onRegion (s : State) (r : Nat) {f : Region → Region} (hp : ∀ g, (f g).pacer = g.pacer)
    (hs : ∀ g, g.stop ≠ none → (f g).stop ≠ none) :
    s.KeptBy v (s.onRegion r f) := by
  refine ⟨rfl, fun q => ?_, fun q hq => ?_, fun d hd => ⟨d, hd, rfl⟩⟩
  · by_cases h : q = r
    · subst h; rw [State.onRegion_same, hp]
    · rw [State.onRegion_other _ _ h]
  · by_cases h : q = r
    · subst h; rw [State.onRegion_same]; exact hs _ hq
    · rw [State.onRegion_other _ _ h]; exact hq

theorem State.onVd_find_same {s : State} {w : Nat} {d : Vd} (h : AMap.find s.vds w = some d) (f : Vd → Vd) :
    AMap.find (s.onVd w f).vds w = some (f d) := by
  simp only [State.onVd, h]
  exact AMap.find_put_same _ _ _

theorem State.keptBy_onVd (s : State) (w : Nat) {f : Vd → Vd} (hf : ∀ d, (f d).stopped = d.stopped) : s.KeptBy v (s.onVd w f) := by
  obtain ⟨x, hx⟩ := s.onVd_frame w f
  refine ⟨by rw [hx], fun r => by rw [hx]; rfl, fun r hr => by rw [hx]; exact hr, fun d hd => ?_⟩
  by_cases hw : v = w
  · subst hw
    exact ⟨f d, State.onVd_find_same hd f, hf d⟩
  · refine ⟨d, ?_, rfl⟩
    unfold State.onVd
    split
    · exact hd
    · exact (AMap.find_put_other _ _ hw).trans hd

/-! ### The parts of a stop -/

/-- Of a queue of the device, its state and its slots' progress; its tasks stay. -/
theorem State.queuesOf_kept {f : State → Nat → Queue → State}
    (hf : ∀ (u : State) (id : Nat) (q : Queue), u.Wrote (f u id q) ∨ ∃ q', (u.putQueue id q').Wrote (f u id q))
    (s : State) (w : Nat) : s.KeptBy v (s.queuesOf w f) ∧ (s.queuesOf w f).tasks = s.tasks := by
  have hone : ∀ (u : State) (p : Nat × Queue), u.KeptBy v (if p.2.vd == w && p.2.kind != 3 then f u p.1 p.2 else u) ∧
      (if p.2.vd == w && p.2.kind != 3 then f u p.1 p.2 else u).tasks = u.tasks := by
    intro u p
    split
    · rcases hf u p.1 p.2 with h | ⟨q', h⟩
      · exact ⟨h.keptBy, h.tasks⟩
      · exact ⟨(State.KeptBy.of_eq (s := u) (t := u.putQueue p.1 q') rfl rfl rfl).trans h.keptBy, h.tasks⟩
    · exact ⟨.refl u, rfl⟩
  refine ⟨State.keptBy_foldl (fun u p => (hone u p).1) _ s, ?_⟩
  exact List.foldlRecOn (motive := fun t => t.tasks = s.tasks) s.queues _ rfl (fun u hu p _ => (hone u p).2.trans hu)

/-- The stop of one member of a task. -/
def stopWith (c : Byte) (heat : Nat) (g : Region) : Region :=
  match g.stop with
  | some _ => g
  | none => { g with stop := some c, stopHeat := heat }

theorem stopWith_pacer (c : Byte) (heat : Nat) (g : Region) : (stopWith c heat g).pacer = g.pacer := by
  unfold stopWith
  split <;> rfl

theorem stopWith_stop (c : Byte) (heat : Nat) (g : Region) : (stopWith c heat g).stop ≠ none := by
  unfold stopWith
  split
  · next h => rw [h]; exact Option.some_ne_none _
  · exact Option.some_ne_none _

theorem State.keptBy_stopWith (s : State) (c : Byte) (heat r : Nat) : s.KeptBy v (s.onRegion r (stopWith c heat)) :=
  s.keptBy_onRegion r (stopWith_pacer c heat) (fun g _ => stopWith_stop c heat g)

theorem State.keptBy_requestStop (s : State) (t : Task) (c : Byte) (heat : Nat) : s.KeptBy v (s.requestStop t c heat) :=
  State.keptBy_foldl (fun u r => u.keptBy_stopWith c heat r) t.members s

/-- A fold whose step at a establishes what every step keeps. -/
theorem foldl_establishes {α β : Type} {f : β → α → β} {P : β → Prop} (hkeep : ∀ b x, P b → P (f b x)) {a : α} (ha : ∀ b, P (f b a)) :
    ∀ {l : List α}, a ∈ l → ∀ b, P (l.foldl f b)
  | x :: l, hmem, b => by
    rcases List.mem_cons.1 hmem with rfl | h
    · exact List.foldlRecOn l f (ha b) (fun c hc y _ => hkeep c y hc)
    · exact foldl_establishes hkeep ha h (f b x)

theorem State.requestStop_stop (s : State) {t : Task} (c : Byte) (heat : Nat) {m : Nat} (hm : m ∈ t.members) :
    ((s.requestStop t c heat).region m).stop ≠ none :=
  foldl_establishes (P := fun u : State => (u.region m).stop ≠ none) (fun u r hu => (u.keptBy_stopWith (v := 0) c heat r).stop m hu)
    (fun u => by rw [State.onRegion_same]; exact stopWith_stop c heat _) hm s

theorem State.keptBy_onBte (s : State) (id : Nat) (f : Bte → Bte) : s.KeptBy v (s.onBte id f) := by
  unfold State.onBte
  split
  · exact .refl s
  · exact .of_eq rfl rfl rfl

theorem State.keptBy_outcome (s : State) (qid seq res cause : Nat) : s.KeptBy v (s.outcome qid seq res cause) :=
  (s.journaled_outcome qid seq res cause).keptBy

theorem State.keptBy_bteEnd (s : State) (id : Nat) : s.KeptBy v (s.bteEnd id) := by
  have hdel : ∀ b : Bool, s.KeptBy v (if b then s else { s with btes := AMap.del s.btes id }) := by
    intro b
    split
    · exact .refl s
    · exact .of_eq rfl rfl rfl
  unfold State.bteEnd
  split
  · exact .refl s
  · next b _ =>
    split
    · exact .refl s
    · refine (hdel b.stopped).trans ?_
      dsimp only
      generalize (if b.stopped = true then s else { s with btes := AMap.del s.btes id }) = s1
      split
      · exact .refl _
      · split
        · exact State.keptBy_outcome _ _ _ _ _
        · split
          · exact State.keptBy_outcome _ _ _ _ _
          · exact State.keptBy_outcome _ _ _ _ _

/-- An accepted copy packet goes to its BTE. -/
theorem State.keptBy_startCopy (s : State) (qid : Nat) (q : Queue) (p : Pkt) :
    s.KeptBy v ((s.markStarted qid p.seq).startCopy qid q p) ∧ ((s.markStarted qid p.seq).startCopy qid q p).tasks = s.tasks := by
  have hmark : s.KeptBy v (s.markStarted qid p.seq) ∧ (s.markStarted qid p.seq).tasks = s.tasks := by
    unfold State.markStarted
    split
    · exact ⟨.refl s, rfl⟩
    · exact ⟨.of_eq rfl rfl rfl, rfl⟩
  exact ⟨hmark.1.trans (.of_eq rfl rfl rfl), hmark.2⟩

/-- The copies of the device's copy queues that go to their BTEs as the stop begins. -/
def State.copiesStarted (s : State) (w : Nat) : State :=
  s.queues.foldl (fun u p =>
    if p.2.kind == 2 && p.2.vd == w then
      p.2.pend.foldl (fun w x => if x.started then w else (w.markStarted p.1 x.seq).startCopy p.1 p.2 x) u
    else u) s

theorem State.copiesStarted_kept (s : State) (w : Nat) : s.KeptBy v (s.copiesStarted w) ∧ (s.copiesStarted w).tasks = s.tasks := by
  refine List.foldlRecOn (motive := fun t => s.KeptBy v t ∧ t.tasks = s.tasks) s.queues _ ⟨.refl s, rfl⟩ fun u hu p _ => ?_
  split
  · refine List.foldlRecOn (motive := fun t => s.KeptBy v t ∧ t.tasks = s.tasks) p.2.pend _ hu fun t ht x _ => ?_
    split
    · exact ht
    · obtain ⟨hk, htk⟩ := t.keptBy_startCopy (v := v) p.1 p.2 x
      exact ⟨ht.1.trans hk, htk.trans ht.2⟩
  · exact hu

/-! ### VD.STOP -/

/-- The stop of the device's queues. -/
def queueHalt (u : State) (id : Nat) (q : Queue) : State :=
  if q.state == .run || q.state == .stalled then
    (u.putQueue id { q with heldStall := false, waitFrom := none, seen := [] }).queueState id .stopped q.r
  else u

/-- The stop of a task of the device. -/
def stopTask (w : Nat) (u : State) (p : Nat × Task) : State := if p.2.vd == w && p.2.fate == 0 then u.requestStop p.2 0xA1 0 else u

/-- The stop of a copy of the device. -/
def stopBte (w : Nat) (u : State) (p : Nat × Bte) : State :=
  if p.2.vd == w && !p.2.sup && p.2.started && p.2.queue.isSome && !p.2.todo.isEmpty && !p.2.stopped then
    (u.onBte p.1 (fun b => { b with stopped := true })).bteEnd p.1
  else u

def Vd.halt (d : Vd) : Vd := { d with stopped := true, hold := none, pre := [] }

/-- The state in which the stop has reached the device and its queues. -/
def State.queuesStopped (s : State) (w : Nat) : State := (s.onVd w Vd.halt).queuesOf w queueHalt

/-- And its tasks. -/
def State.tasksStopped (s : State) (w : Nat) : State := (s.queuesStopped w).tasks.foldl (stopTask w) (s.queuesStopped w)

theorem State.stopVd_eq (s : State) (w : Nat) : s.stopVd w = (s.tasksStopped w).btes.foldl (stopBte w) (s.tasksStopped w) := rfl

theorem State.stopDevice_eq (s : State) (w : Nat) : s.stopDevice w = (s.copiesStarted w).stopVd w := rfl

theorem State.queuesOf_queueHalt (s : State) (w : Nat) : s.KeptBy v (s.queuesOf w queueHalt) ∧ (s.queuesOf w queueHalt).tasks = s.tasks := by
  refine State.queuesOf_kept (fun u id q => ?_) s w
  unfold queueHalt
  split
  · exact .inr ⟨_, State.wrote_queueState _ id .stopped q.r⟩
  · exact .inl (.refl u)

theorem State.keptBy_stopTask (w : Nat) (u : State) (p : Nat × Task) : u.KeptBy v (stopTask w u p) := by
  unfold stopTask
  split
  · exact u.keptBy_requestStop _ _ _
  · exact .refl u

theorem State.keptBy_stopBte (w : Nat) (u : State) (p : Nat × Bte) : u.KeptBy v (stopBte w u p) := by
  unfold stopBte
  split
  · exact (u.keptBy_onBte _ _).trans (State.keptBy_bteEnd _ _)
  · exact .refl u

theorem State.stopVd_device {s : State} {d : Vd} (h : AMap.find s.vds v = some d) :
    ∃ e, AMap.find (s.stopVd v).vds v = some e ∧ e.stopped = true := by
  have hq : (s.onVd v Vd.halt).KeptBy v (s.queuesStopped v) := (State.queuesOf_queueHalt _ v).1
  have ht : (s.queuesStopped v).KeptBy v (s.tasksStopped v) := State.keptBy_foldl (State.keptBy_stopTask v) _ _
  have hb : (s.tasksStopped v).KeptBy v (s.stopVd v) := State.keptBy_foldl (State.keptBy_stopBte v) _ _
  exact ((hq.trans ht).trans hb).device (Vd.halt d) (State.onVd_find_same h Vd.halt)

theorem State.stopVd_members {s : State} {i : Nat} {u : Task} (hu : s.task i = some u) (hvd : u.vd = v) (hfate : u.fate = 0) {m : Nat}
    (hm : m ∈ u.members) : ((s.stopVd v).region m).stop ≠ none := by
  obtain ⟨x, hx⟩ := s.onVd_frame v Vd.halt
  have htasks : (s.queuesStopped v).tasks = s.tasks := by
    rw [State.queuesStopped, (State.queuesOf_queueHalt (v := v) _ v).2, hx]
  have hmem : (i, u) ∈ (s.queuesStopped v).tasks := by rw [htasks]; exact AMap.mem_of_find hu
  have hstop : ((s.tasksStopped v).region m).stop ≠ none := by
    refine foldl_establishes (P := fun t : State => (t.region m).stop ≠ none) (fun t p => (t.keptBy_stopTask (v := v) v p).stop m) (fun t => ?_) hmem _
    simp only [stopTask, hvd, hfate, beq_self_eq_true, Bool.and_self, if_true]
    exact t.requestStop_stop _ _ hm
  rw [State.stopVd_eq]
  exact (State.keptBy_foldl (State.keptBy_stopBte (v := v) v) (s.tasksStopped v).btes (s.tasksStopped v)).stop m hstop

theorem State.stopDevice_spec {s : State} {d : Vd} (h : AMap.find s.vds v = some d) :
    (∃ e, AMap.find (s.stopDevice v).vds v = some e ∧ e.stopped = true) ∧
    ∀ i u, s.task i = some u → u.vd = v → u.fate = 0 → ∀ m ∈ u.members, ((s.stopDevice v).region m).stop ≠ none := by
  obtain ⟨hk, htasks⟩ := s.copiesStarted_kept (v := v) v
  obtain ⟨e, he, _⟩ := hk.device d h
  rw [State.stopDevice_eq]
  refine ⟨State.stopVd_device he, fun i u hu hvd hfate m hm => State.stopVd_members (i := i) ?_ hvd hfate hm⟩
  rw [State.task, htasks]
  exact hu

/-- A change of the wait or of the PC alone keeps every requested stop. -/
theorem State.onReg_stop (s : State) {f : Region → Region} (hf : ∀ g, (f g).stop = g.stop) (r : Nat) : ((s.onReg f).region r).stop = (s.region r).stop := by
  by_cases h : r = s.cur
  · subst h
    have e := congrArg Region.stop (s.onReg_reg f)
    exact e.trans (hf _)
  · rw [State.onReg_other _ _ h]

section
variable {s : State} (hm : s.reg.pacer.mode = true) (a : XReg)
include hm

theorem State.exec_vdStop (hown : s.vd ≠ some ((s.rx a).toNat % 32)) {d : Vd} (hd : AMap.find s.vds ((s.rx a).toNat % 32) = some d) :
    exec (.vdStop a) s = if (if d.stopped then s else s.stopDevice ((s.rx a).toNat % 32)).vdStopDone ((s.rx a).toNat % 32) then
      .next (if d.stopped then s else s.stopDevice ((s.rx a).toNat % 32)).advance
    else (if d.stopped then s else s.stopDevice ((s.rx a).toNat % 32)).block := by
  show execVdStop a s = _
  have hne : (s.vd == some ((s.rx a).toNat % 32)) = false := beq_eq_false_iff_ne.2 hown
  simp only [execVdStop, State.privileged_sup hm, hne, hd, Bool.false_eq_true, if_false]

theorem State.exec_vdStop_own (h : s.vd = some ((s.rx a).toNat % 32)) : exec (.vdStop a) s = s.fail0 0x0F (.vdStop a) := by
  show execVdStop a s = _
  simp only [execVdStop, State.privileged_sup hm, h, beq_self_eq_true, if_true]

theorem State.exec_vdStop_none (hown : s.vd ≠ some ((s.rx a).toNat % 32)) (hd : AMap.find s.vds ((s.rx a).toNat % 32) = none) :
    exec (.vdStop a) s = s.fail0 0x0E (.vdStop a) := by
  show execVdStop a s = _
  have hne : (s.vd == some ((s.rx a).toNat % 32)) = false := beq_eq_false_iff_ne.2 hown
  simp only [execVdStop, State.privileged_sup hm, hne, hd, Bool.false_eq_true, if_false]

theorem State.exec_vdStart : exec (.vdStart a) s =
    .next (if s.vdStopped ((s.rx a).toNat % 32) then (s.startVd ((s.rx a).toNat % 32)).advance else s.advance) := by
  show execVdStart a s = _
  simp only [execVdStart, State.privileged_sup hm]

theorem State.vdStop_spec (d : Vd) (hown : s.vd ≠ some ((s.rx a).toNat % 32)) (hd : AMap.find s.vds ((s.rx a).toNat % 32) = some d) :
    let v := (s.rx a).toNat % 32
    (d.stopped = true → s.vdStopDone v = true → ∃ t, Completes (.vdStop a) s t ∧ s.movedOn t) ∧
    (d.stopped = true → s.vdStopDone v = false → Waits (.vdStop a) s) ∧
    (d.stopped = false → ∃ t e, Completes (.vdStop a) s t ∧ AMap.find t.vds v = some e ∧ e.stopped = true ∧
      ∀ i u, s.task i = some u → u.vd = v → u.fate = 0 → ∀ m ∈ u.members, (t.region m).stop ≠ none) := by
  have hstep := State.exec_vdStop hm a hown hd
  refine ⟨fun hs hdone => ⟨_, ?_, s.movedOn_advance⟩, fun hs hdone => ?_, fun hs => ?_⟩
  · simp only [hs, hdone, if_true] at hstep
    exact hstep
  · simp only [hs, hdone, if_true, Bool.false_eq_true, if_false] at hstep
    obtain ⟨t, ht, hw⟩ := s.block_waits
    exact ⟨t, hstep.trans ht, hw⟩
  · simp only [hs, Bool.false_eq_true, if_false] at hstep
    obtain ⟨⟨e, he, hes⟩, hmem⟩ := State.stopDevice_spec hd
    generalize s.stopDevice ((s.rx a).toNat % 32) = u at hstep he hmem
    split at hstep
    · refine ⟨_, e, hstep, he, hes, fun i w hw hvd hfate m hmm => ?_⟩
      exact (u.onReg_stop (f := fun g => { g with pacer := { g.pacer with pcc := g.pacer.pcc.withCursor (u.pc + 4) } }) (fun _ => rfl) m).trans_ne
        (hmem i w hw hvd hfate m hmm)
    · refine ⟨_, e, hstep, he, hes, fun i w hw hvd hfate m hmm => ?_⟩
      exact (u.onReg_stop (f := fun g => { g with wait := .poll }) (fun _ => rfl) m).trans_ne (hmem i w hw hvd hfate m hmm)

end

/-! ### VD.START -/

/-- The restart of one of the device's queues. -/
def queueRestart (u : State) (id : Nat) (q : Queue) : State :=
  if q.state == .stopped then (u.putQueue id { q with waitFrom := none }).queueState id .run q.seqAt else u

/-- A halted task returns to the head of its list. -/
def State.unhalt (u : State) (id : Nat) : State := (u.onTask id (fun t => { t with halted := false })).enlist id true

def Vd.unhalt (d : Vd) : Vd := { d with stopped := false }

/-- The halted tasks of a device, oldest dispatch first. -/
def State.haltedOf (s : State) (w : Nat) : List Nat :=
  ((s.tasks.filter (fun p => p.2.vd == w && p.2.halted && p.2.fate == 0)).map (·.1)).foldl (fun l id => insertSince s id l) []

def State.queuesRun (s : State) (w : Nat) : State := (s.onVd w Vd.unhalt).queuesOf w queueRestart

def State.tasksBack (s : State) (w : Nat) : State := ((s.queuesRun w).haltedOf w).reverse.foldl State.unhalt (s.queuesRun w)

theorem State.startVd_eq (s : State) (w : Nat) :
    s.startVd w = { s.tasksBack w with btes := (s.tasksBack w).btes.filter (fun p => !(p.2.vd == w && p.2.stopped)) } := rfl

theorem State.queuesOf_queueRestart (s : State) (w : Nat) : s.KeptBy v (s.queuesOf w queueRestart) := by
  refine (State.queuesOf_kept (fun u id q => ?_) s w).1
  unfold queueRestart
  split
  · exact .inr ⟨_, State.wrote_queueState _ id .run q.seqAt⟩
  · exact .inl (.refl u)

theorem State.keptBy_unhalt (u : State) (id : Nat) : u.KeptBy v (u.unhalt id) := by
  have htask : u.KeptBy v (u.onTask id (fun t => { t with halted := false })) := by
    unfold State.onTask
    split
    · exact .refl u
    · exact .of_eq rfl rfl rfl
  refine htask.trans ?_
  unfold State.unhalt State.enlist
  split
  · exact .refl _
  · exact State.keptBy_onVd _ _ fun _ => rfl

/-- After the device's own record, a start keeps what a stop keeps. -/
theorem State.keptBy_startVd (s : State) (w : Nat) : (s.onVd w Vd.unhalt).KeptBy v (s.startVd w) := by
  have hq : (s.onVd w Vd.unhalt).KeptBy v (s.queuesRun w) := State.queuesOf_queueRestart _ w
  have ht : (s.queuesRun w).KeptBy v (s.tasksBack w) := State.keptBy_foldl State.keptBy_unhalt _ _
  rw [State.startVd_eq]
  exact (hq.trans ht).trans (.of_eq rfl rfl rfl)

theorem State.startVd_pcOnly (s : State) (w : Nat) : pcOnly s (s.startVd w).advance := by
  obtain ⟨x, hx⟩ := s.onVd_frame w Vd.unhalt
  have hk := s.keptBy_startVd (v := 0) w
  rw [hx] at hk
  have hreg : (s.startVd w).reg.pacer = s.reg.pacer := by
    rw [State.reg, hk.cur]
    exact hk.pacer s.cur
  simp [pcOnly, State.pc, State.nextPC, hreg]

theorem State.vdStart_spec {s : State} (hm : s.reg.pacer.mode = true) (a : XReg) : let v := (s.rx a).toNat % 32
    ∃ t, Completes (.vdStart a) s t ∧ pcOnly s t ∧
      (∀ d, AMap.find s.vds v = some d → d.stopped = true → s.vdStopDone v = true → ∃ e, AMap.find t.vds v = some e ∧ e.stopped = false) ∧
      ((∀ d, AMap.find s.vds v = some d → d.stopped = false ∨ s.vdStopDone v = false) → s.movedOn t) := by
  intro w
  have hstep := State.exec_vdStart hm a
  have hstopped : s.vdStopped w = true ↔ ∃ d, AMap.find s.vds w = some d ∧ d.stopped = true ∧ s.vdStopDone w = true := by
    cases hd : AMap.find s.vds w <;> simp [State.vdStopped, hd]
  cases h : s.vdStopped w with
  | true =>
    rw [if_pos h] at hstep
    refine ⟨_, hstep, s.startVd_pcOnly w, fun d hd _ _ => ?_, fun hno => ?_⟩
    · exact (s.keptBy_startVd (v := w) w).device (Vd.unhalt d) (State.onVd_find_same hd Vd.unhalt)
    · obtain ⟨d, hd, hs, hdone⟩ := hstopped.1 h
      rcases hno d hd with h' | h' <;> simp_all
  | false =>
    rw [if_neg (by rw [h]; exact Bool.false_ne_true)] at hstep
    refine ⟨_, hstep, s.movedOn_advance.2, fun d hd hs hdone => ?_, fun _ => s.movedOn_advance⟩
    rw [hstopped.2 ⟨d, hd, hs, hdone⟩] at h
    cases h

end Sys2Proof.Machine

/-! # Proofs: FCAP and FRST in supervisor mode (O44) -/

namespace Sys2Proof.Machine

open Sys2Proof Sys2Proof.Claims

/-! ### Fields of concatenated bytes -/

theorem fieldLe_append_left (as bs : List Byte) {i n : Nat} (h : i + n ≤ as.length) : fieldLe (as ++ bs) i n = fieldLe as i n := by
  have htake : ((as ++ bs).drop i).take n = (as.drop i).take n := by
    rw [List.drop_append_of_le_length (by omega), List.take_append_of_le_length (by rw [List.length_drop]; omega)]
  rw [fieldLe, sliceOf, htake, fieldLe, sliceOf]

theorem fieldLe_append_right (as bs : List Byte) (i n : Nat) : fieldLe (as ++ bs) (as.length + i) n = fieldLe bs i n := by
  have hdrop : (as ++ bs).drop (as.length + i) = bs.drop i := by simp [List.drop_append]
  rw [fieldLe, sliceOf, hdrop, fieldLe, sliceOf]

theorem fieldLe_leBytes (n v : Nat) (bs : List Byte) : fieldLe (leBytes n v ++ bs) 0 n = v % 256 ^ n := by
  have hlen := leBytes_length n v
  rw [fieldLe_append_left _ _ (by omega), fieldLe, sliceOf, List.drop_zero, List.take_of_length_le (by omega), hlen, Nat.sub_self, List.replicate_zero,
    List.append_nil, leNat_leBytes]

/-- A field between others. -/
theorem fieldLe_between (as bs : List Byte) (n v : Nat) : fieldLe (as ++ (leBytes n v ++ bs)) as.length n = v % 256 ^ n := by
  have h := fieldLe_append_right as (leBytes n v ++ bs) 0 n
  rw [Nat.add_zero] at h
  rw [h, fieldLe_leBytes]

/-- An entry of a table of 8-byte words. -/
theorem fieldLe_table : ∀ (ws : List Nat) (bs : List Byte) (i : Nat), (h : i < ws.length) →
    fieldLe (ws.flatMap (leBytes 8) ++ bs) (8 * i) 8 = ws[i] % 256 ^ 8
  | w :: ws, bs, 0, _ => by
    rw [List.flatMap_cons, List.append_assoc]
    exact fieldLe_leBytes 8 w _
  | w :: ws, bs, i + 1, h => by
    have hoff : 8 * (i + 1) = (leBytes 8 w).length + 8 * i := by rw [leBytes_length]; omega
    rw [List.flatMap_cons, List.append_assoc, hoff, fieldLe_append_right, fieldLe_table ws bs i (Nat.lt_of_succ_lt_succ h), List.getElem_cons_succ]

/-! ### The header of a save area (R132) -/

section
variable (s : State) (r : Nat) (reason : Byte) (sched affinity len crc : Nat) (ctl : List Byte)

/-- Bytes 4 to 0xF: version, flags, task, device, reason, region. -/
def State.saveIdent : List Byte :=
  leBytes 2 1 ++ leBytes 2 ((if (s.region r).pacer.mode then 1 else 0) + (if (s.region r).snap.status == .pending then 2 else 0)) ++
    leBytes 4 (s.region r).pacer.taskid.toNat ++ leBytes 1 ((s.vdOf r).getD 0) ++ [reason] ++ leBytes 1 r ++ List.replicate 1 (0 : Byte)

/-- Bytes 0x18 to 0xFF. -/
def State.saveMiddle : List Byte :=
  let p := (s.region r).pacer
  let halt := (s.region r).haltedAt.getD (s.cycOf r, p.fltpend)
  leBytes 8 (BitVec.ofNat 64 halt.1 - p.dcyc).toNat ++ leBytes 8 p.fpmode.toNat ++ leBytes 8 halt.2.toNat ++ leBytes 4 len ++ leBytes 4 crc ++
    leBytes 8 sched ++ p.pcc.bytes ++ leBytes 4 p.tagWord ++ leBytes 1 p.kValid.toNat ++ List.replicate 11 (0 : Byte) ++
    p.k.toList.flatMap (fun v => leBytes 8 v.toNat) ++ leBytes 32 affinity ++ List.replicate 64 (0 : Byte)

/-- The words of X0 to X31. -/
def State.saveWords : List Nat := (List.range 32).map (fun i => ((s.region r).pacer.rx (BitVec.ofNat 5 i)).toNat)

/-- Bytes 0x200 to 0x3FF: the capabilities and CTL. -/
def State.saveTail : List Byte := (List.range 16).flatMap (fun i => ((s.region r).pacer.rc (BitVec.ofNat 4 i)).bytes) ++ ctl

theorem State.saveHeader_eq : s.saveHeader r reason sched affinity len crc ctl =
    leBytes 4 saveMagic ++ (s.saveIdent r reason ++ (leBytes 8 (s.region r).pacer.pcc.cursor.toNat ++
      (s.saveMiddle r sched affinity len crc ++ ((s.saveWords r).flatMap (leBytes 8) ++ s.saveTail r ctl)))) := by
  unfold State.saveHeader State.saveIdent State.saveMiddle State.saveWords State.saveTail
  dsimp only
  generalize (s.region r).haltedAt.getD (s.cycOf r, (s.region r).pacer.fltpend) = halt
  generalize (s.region r).pacer = p
  simp only [List.append_assoc, List.flatMap_map]

@[simp] theorem State.saveIdent_length : (s.saveIdent r reason).length = 12 := by simp [State.saveIdent]

@[simp] theorem Cap.bytes_length (c : Cap) : c.bytes.length = 16 := by simp [Cap.bytes]

@[simp] theorem State.saveMiddle_length : (s.saveMiddle r sched affinity len crc).length = 0xE8 := by
  simp [State.saveMiddle, List.length_flatMap]

@[simp] theorem State.saveWords_length : (s.saveWords r).length = 32 := by simp [State.saveWords]

theorem State.saveTail_length (h : ctl.length = 256) : (s.saveTail r ctl).length = 0x200 := by simp [State.saveTail, List.length_flatMap, h]

theorem State.saveHeader_length (h : ctl.length = 256) : (s.saveHeader r reason sched affinity len crc ctl).length = 0x400 := by
  simp [State.saveHeader_eq, s.saveTail_length r ctl h]

theorem State.saveHeader_magic : fieldLe (s.saveHeader r reason sched affinity len crc ctl) 0 4 = 0xC75A0E01 := by
  rw [State.saveHeader_eq, fieldLe_leBytes]
  decide

theorem State.saveHeader_pc : fieldLe (s.saveHeader r reason sched affinity len crc ctl) 0x10 8 = (s.region r).pacer.pcc.cursor.toNat := by
  have hoff : (leBytes 4 saveMagic ++ s.saveIdent r reason).length = 0x10 := by simp
  rw [State.saveHeader_eq, ← List.append_assoc, ← hoff, fieldLe_between]
  exact Nat.mod_eq_of_lt (s.region r).pacer.pcc.cursor.isLt

theorem State.saveHeader_x (i : Fin 32) : fieldLe (s.saveHeader r reason sched affinity len crc ctl) (0x100 + 8 * i.val) 8 =
    ((s.region r).pacer.rx (BitVec.ofNat 5 i.val)).toNat := by
  have hpre : s.saveHeader r reason sched affinity len crc ctl =
      (leBytes 4 saveMagic ++ (s.saveIdent r reason ++ (leBytes 8 (s.region r).pacer.pcc.cursor.toNat ++ s.saveMiddle r sched affinity len crc))) ++
        ((s.saveWords r).flatMap (leBytes 8) ++ s.saveTail r ctl) := by
    rw [State.saveHeader_eq]
    simp only [List.append_assoc]
  have hoff : (leBytes 4 saveMagic ++ (s.saveIdent r reason ++ (leBytes 8 (s.region r).pacer.pcc.cursor.toNat ++
      s.saveMiddle r sched affinity len crc))).length = 0x100 := by simp
  have hi : i.val < (s.saveWords r).length := by rw [State.saveWords_length]; exact i.isLt
  rw [hpre, ← hoff, fieldLe_append_right, fieldLe_table _ _ _ hi]
  simp only [State.saveWords, List.getElem_map, List.getElem_range]
  exact Nat.mod_eq_of_lt ((s.region r).pacer.rx (BitVec.ofNat 5 i.val)).isLt

end

/-! ### Capture (R132, R291) -/

section
variable (s : State) (k : Nat) (header image : List Byte)

theorem State.putSave_mem (h : s.decls = []) : (s.putSave k header image).mem =
    Memory.setBytes (Memory.setBytes (Memory.clear s.mem k (k + saveSize)) k header) (k + 0x10000) image := by
  have he : s.decls.isEmpty = true := by rw [h]; rfl
  simp only [State.putSave, he, if_true]

theorem State.putSave_pacer (h : s.decls = []) (r : Nat) : ((s.putSave k header image).region r).pacer = (s.region r).pacer := by
  have he : s.decls.isEmpty = true := by rw [h]; rfl
  simp only [State.putSave, he, if_true, State.region, AMap.findD, AMap.find_mapV]
  cases AMap.find s.regions r with
  | none => rfl
  | some g =>
    simp only [Option.map_some, Option.getD_some]
    split
    · split <;> rfl
    · rfl

theorem State.putSave_cur (h : s.decls = []) : (s.putSave k header image).cur = s.cur := by
  have he : s.decls.isEmpty = true := by rw [h]; rfl
  simp only [State.putSave, he, if_true]

end

/-- The header that FCAP of region r writes, and the image after it. -/
def State.captureHeader (s : State) (r : Nat) : List Byte :=
  let g := s.region r
  let t := s.task (g.pacer.taskid.toNat % 2 ^ 32)
  (s.drawBytes 256).2.saveHeader r (g.stop.getD 0) ((t.map (fun t => t.sched.toNat)).getD 0) ((t.map (fun t => t.affinity.toNat)).getD 0)
    (imageBytes s.freshImage).length (crc32 (imageBytes s.freshImage)) (s.drawBytes 256).1

/-- The state in which the context of region r stands in its save area. -/
def State.saved (s : State) (r base : Nat) : State := (s.drawBytes 256).2.putSave (sramKey base) (s.captureHeader r) (imageBytes s.freshImage)

theorem State.capture_ok {s u : State} {r base : Nat} (h : s.capture r base = .ok u) :
    u = { s.saved r base with images := AMap.put (s.saved r base).images s.freshImage { s.region r with wait := .none, stop := none } } := by
  simp only [State.capture] at h
  split at h
  · cases h
  · exact (Except.ok.inj h).symm

/-- What FCAP leaves: a save area, and of the rest the Field's image. -/
theorem State.capture_frame {s u : State} {r base : Nat} (h : s.capture r base = .ok u) :
    u.mem = (s.saved r base).mem ∧ u.cur = (s.saved r base).cur ∧ u.regions = (s.saved r base).regions := by
  rw [State.capture_ok h]
  generalize s.saved r base = w
  exact ⟨rfl, rfl, rfl⟩

theorem State.drawBytes_frame (s : State) (n : Nat) : ∃ f, (s.drawBytes n).2 = { s with free := f } := ⟨_, rfl⟩

theorem State.saved_mem {s : State} (hdecls : s.decls = []) (r base : Nat) : (s.saved r base).mem =
    Memory.setBytes (Memory.setBytes (Memory.clear s.mem (sramKey base) (sramKey base + saveSize)) (sramKey base) (s.captureHeader r))
      (sramKey base + 0x10000) (imageBytes s.freshImage) := by
  obtain ⟨f, hf⟩ := s.drawBytes_frame 256
  have hw : ({ s with free := f } : State).decls = [] := hdecls
  rw [State.saved, hf, State.putSave_mem _ _ _ _ hw]

theorem State.captureHeader_eq (s : State) (r : Nat) : ∃ (w : State) (reason : Byte) (sched affinity len crc : Nat) (ctl : List Byte), ctl.length = 256 ∧
    w.region r = s.region r ∧ s.captureHeader r = w.saveHeader r reason sched affinity len crc ctl := by
  have hlen : (s.drawBytes 256).1.length = 256 := by rw [State.drawBytes, List.length_map, List.length_range]
  obtain ⟨f, hf⟩ := s.drawBytes_frame 256
  refine ⟨(s.drawBytes 256).2, _, _, _, _, _, _, hlen, ?_, rfl⟩
  rw [hf]
  rfl

/-- The header reads back: the image begins behind it. -/
theorem State.saved_header {s u : State} (hwf : Memory.wf s.mem = true) (hdecls : s.decls = []) {r base : Nat} (hu : u.mem = (s.saved r base).mem) :
    u.rd (sramKey base) 0x400 = s.captureHeader r := by
  have hlen : (s.captureHeader r).length = 0x400 := by
    obtain ⟨w, reason, sched, affinity, len, crc, ctl, hctl, _, he⟩ := s.captureHeader_eq r
    rw [he, w.saveHeader_length _ _ _ _ _ _ _ hctl]
  have hclear := Memory.clear_wf s.mem (sramKey base) (sramKey base + saveSize) hwf
  have hmem := hu.trans (State.saved_mem hdecls r base)
  generalize s.captureHeader r = header at hmem hlen ⊢
  generalize imageBytes s.freshImage = image at hmem
  generalize Memory.clear s.mem (sramKey base) (sramKey base + saveSize) = m at hmem hclear
  have hsame : u.rd (sramKey base) 0x400 = ({ s with mem := Memory.setBytes m (sramKey base) header } : State).rd (sramKey base) 0x400 := by
    refine State.rd_congr fun j hlo hhi => ?_
    rw [hmem, Memory.get_setBytes _ _ _ _ (Memory.setBytes_wf _ _ _ hclear), if_neg (by omega)]
  rw [hsame]
  exact State.rd_setBytes hclear hlen rfl

theorem State.capture_pcOnly {s u : State} (hdecls : s.decls = []) {r base : Nat} (h : s.capture r base = .ok u) : pcOnly s u.advance := by
  obtain ⟨_, hcur, hregs⟩ := State.capture_frame h
  obtain ⟨f, hf⟩ := s.drawBytes_frame 256
  have hw : ({ s with free := f } : State).decls = [] := hdecls
  have hcur' : u.cur = s.cur := by rw [hcur, State.saved, hf, State.putSave_cur _ _ _ _ hw]
  have hpacer : u.reg.pacer = s.reg.pacer := by
    have hreg : u.region s.cur = (s.saved r base).region s.cur := by rw [State.region, hregs, State.region]
    rw [State.reg, hcur', hreg, State.saved, hf, State.putSave_pacer _ _ _ _ hw]
    rfl
  simp [pcOnly, State.pc, State.nextPC, hpacer]

section
variable {s : State} (hm : s.reg.pacer.mode = true) (a b : XReg)
include hm

theorem State.exec_fcap {u : State} (hbase : (s.rx b).toNat % 2 ^ 20 = 0) (hstop : s.stoppedAt ((s.rx a).toNat % 256) = true)
    (h : s.capture ((s.rx a).toNat % 256) (s.rx b).toNat = .ok u) : exec (.fcap a b) s = .next u.advance := by
  show execFcap a b s = _
  have hal : ((s.rx b).toNat % saveSize != 0) = false := by rw [saveSize, hbase]; rfl
  simp only [execFcap, State.privileged_sup hm, hal, hstop, h, Bool.not_true, Bool.false_eq_true, if_false]

theorem State.exec_fcap_unaligned (hbase : (s.rx b).toNat % 2 ^ 20 ≠ 0) : exec (.fcap a b) s = s.fail0 0x0E (.fcap a b) := by
  show execFcap a b s = _
  have hal : ((s.rx b).toNat % saveSize != 0) = true := bne_iff_ne.2 hbase
  simp only [execFcap, State.privileged_sup hm, hal, if_true]

theorem State.fcap_spec (u : State) (hbase : (s.rx b).toNat % 2 ^ 20 = 0) (hstop : s.stoppedAt ((s.rx a).toNat % 256) = true)
    (hwf : Memory.wf s.mem = true) (hdecls : s.decls = []) (h : s.capture ((s.rx a).toNat % 256) (s.rx b).toNat = .ok u) :
    let r := (s.rx a).toNat % 256
    let header := u.rd (sramKey (s.rx b).toNat) 0x400
    ∃ t, Completes (.fcap a b) s t ∧ pcOnly s t ∧ t.mem = u.mem ∧ fieldLe header 0 4 = 0xC75A0E01 ∧
      fieldLe header 0x10 8 = (s.region r).pacer.pcc.cursor.toNat ∧
      ∀ i : Fin 32, fieldLe header (0x100 + 8 * i.val) 8 = ((s.region r).pacer.rx (BitVec.ofNat 5 i.val)).toNat := by
  intro r header
  have hstep := State.exec_fcap hm a b hbase hstop h
  have hheader : header = s.captureHeader r := State.saved_header hwf hdecls (State.capture_frame h).1
  obtain ⟨w, reason, sched, affinity, len, crc, ctl, _, hregion, he⟩ := s.captureHeader_eq r
  rw [hheader, he, ← hregion]
  exact ⟨_, hstep, State.capture_pcOnly hdecls h, rfl, w.saveHeader_magic _ _ _ _ _ _ _, w.saveHeader_pc _ _ _ _ _ _ _,
    w.saveHeader_x _ _ _ _ _ _ _⟩

end

/-! ### Restore (R132, R291) -/

theorem Region.pendRestored_run (g : Region) : g.pendRestored.run = g.run := by
  unfold Region.pendRestored
  split
  · split <;> rfl
  · split <;> rfl

theorem Region.pendRestored_pacer (g : Region) : ∃ w, g.pendRestored.pacer = { g.pacer with fltpend := w } := by
  unfold Region.pendRestored
  split
  · split
    · exact ⟨g.pacer.fltpend, rfl⟩
    · exact ⟨_, rfl⟩
  · split <;> exact ⟨g.pacer.fltpend, rfl⟩

/-- A restored region runs with the registers of the save area; every other region and the current region's number are as they were. -/
theorem State.restore_ok {s u : State} {r base : Nat} (h : s.restore r base = .ok u) : u.cur = s.cur ∧ (∀ q, q ≠ r → u.region q = s.region q) ∧
    (u.region r).run = .on ∧
    ∃ w, (u.region r).pacer = { (s.region r).pacer.restore (s.rd (sramKey base) 0x400) (s.cycOf r) with fltpend := w } := by
  simp only [State.restore] at h
  split at h
  · cases h
  · split at h
    · cases h
    · cases h
      generalize s.imageRegion _ = g
      refine ⟨rfl, fun q hq => s.setRegion_other _ hq, ?_⟩
      show ((s.setRegion r _).region r).run = .on ∧ ∃ w, ((s.setRegion r _).region r).pacer = _
      rw [State.setRegion_same]
      exact ⟨Region.pendRestored_run _, Region.pendRestored_pacer _⟩

/-- The Marshal's record leaves every Pacer's registers and a running region; the region has its task. -/
theorem State.recordRunning_frame (s : State) (r base : Nat) (bs : List Byte) : (s.recordRunning r base bs).cur = s.cur ∧
    (∀ q, ((s.recordRunning r base bs).region q).pacer = (s.region q).pacer) ∧ ((s.recordRunning r base bs).region r).run = (s.region r).run ∧
    ((s.recordRunning r base bs).region r).task = some (fieldLe bs 8 4) := by
  let t := (s.task (fieldLe bs 8 4)).getD (foreignTask bs)
  obtain ⟨x, hx⟩ := s.onVd_frame t.vd (·.forget (fieldLe bs 8 4))
  have hwrote : ∀ (u : State) (c : Bool) (y : Task) (st : TaskState), u.Wrote (if c then u.writeState y st else u) := by
    intro u c y st
    split
    · exact u.wrote_writeState y st
    · exact .refl u
  have hrec : ∃ (v w : State) (n : Nat) (c : Option Nat), v.cur = s.cur ∧ v.regions = s.regions ∧ v.Wrote w ∧
      s.recordRunning r base bs = w.onRegion r (fun g => { g with task := some (fieldLe bs 8 4), rank := n, cancelAt := c }) := by
    refine ⟨_, _, _, _, ?_, ?_, hwrote (State.putTask (s.onVd t.vd (·.forget (fieldLe bs 8 4))) (fieldLe bs 8 4) _) t.tcb.tag _ _, rfl⟩
    · rw [hx]; rfl
    · rw [hx]; rfl
  obtain ⟨v, w, n, c, hcur, hregs, hw, he⟩ := hrec
  have hv : ∀ q, v.region q = s.region q := fun q => by rw [State.region, hregs, State.region]
  rw [he]
  refine ⟨hw.cur.trans hcur, fun q => ?_, ?_, ?_⟩
  · rw [← hv q, ← hw.pacer q]
    by_cases h : q = r
    · subst h; rw [State.onRegion_same]
    · rw [State.onRegion_other _ _ h]
  · rw [State.onRegion_same, ← hv r]
    rcases hw.woken r with h | ⟨_, h⟩ <;> rw [h]
  · rw [State.onRegion_same]

theorem Pacer.restore_rx (p : Pacer) (bs : List Byte) (cyc : Nat) (w : Word) (i : Fin 32) (hi : i.val ≠ 0) :
    ({ p.restore bs cyc with fltpend := w } : Pacer).rx (BitVec.ofNat 5 i.val) = BitVec.ofNat 64 (fieldLe bs (0x100 + 8 * i.val) 8) := by
  have hval : (BitVec.ofNat 5 i.val).toNat = i.val := by rw [BitVec.toNat_ofNat]; exact Nat.mod_eq_of_lt i.isLt
  have hne : BitVec.ofNat 5 i.val ≠ 0 := fun h => hi (hval.symm.trans (congrArg BitVec.toNat h))
  simp only [Pacer.rx, if_neg hne, Pacer.restore, Vector.getElem_ofFn, hval]

section
variable {s : State} (hm : s.reg.pacer.mode = true) (a b : XReg)
include hm

theorem State.exec_frst {u : State} (hr : (s.rx a).toNat % 256 ≠ s.cur) (hidle : (s.region ((s.rx a).toNat % 256)).idle = true)
    (h : s.restore ((s.rx a).toNat % 256) (s.rx b).toNat = .ok u) : exec (.frst a b) s =
      .next ((u.recordRunning ((s.rx a).toNat % 256) (s.rx b).toNat (s.rd (sramKey (s.rx b).toNat) 0x400)).advance) := by
  show execFrst a b s = _
  have hne : ((s.rx a).toNat % 256 == s.cur) = false := beq_eq_false_iff_ne.2 hr
  simp only [execFrst, State.privileged_sup hm, hne, hidle, h, Bool.not_true, Bool.or_self, Bool.false_eq_true, if_false]

theorem State.exec_frst_self (hr : (s.rx a).toNat % 256 = s.cur) : exec (.frst a b) s = s.fail0 0x0F (.frst a b) := by
  show execFrst a b s = _
  simp only [execFrst, State.privileged_sup hm, hr, beq_self_eq_true, Bool.true_or, if_true]

theorem State.frst_spec (u : State) (hr : (s.rx a).toNat % 256 ≠ s.cur) (hidle : (s.region ((s.rx a).toNat % 256)).idle = true)
    (h : s.restore ((s.rx a).toNat % 256) (s.rx b).toNat = .ok u) :
    let r := (s.rx a).toNat % 256
    let bs := s.rd (sramKey (s.rx b).toNat) 0x400
    ∃ t, Completes (.frst a b) s t ∧ pcOnly s t ∧ (t.region r).run = .on ∧ (t.region r).task = some (fieldLe bs 8 4) ∧
      (∀ i : Fin 32, i.val ≠ 0 → (t.region r).pacer.rx (BitVec.ofNat 5 i.val) = BitVec.ofNat 64 (fieldLe bs (0x100 + 8 * i.val) 8)) ∧
      (t.region r).pacer.pcc.cursor = BitVec.ofNat 64 (fieldLe bs 0x10 8) ∧ (t.region r).pacer.mode = (fieldLe bs 6 2).testBit 0 := by
  intro r bs
  have hstep := State.exec_frst hm a b hr hidle h
  obtain ⟨hcur, hothers, hrun, w, hpacer⟩ := State.restore_ok h
  obtain ⟨hcur2, hpacers, hrun2, htask⟩ := u.recordRunning_frame r (s.rx b).toNat bs
  have hself : (u.recordRunning r (s.rx b).toNat bs).reg.pacer = s.reg.pacer := by
    rw [State.reg, hcur2, hcur, hpacers, hothers s.cur (Ne.symm hr), State.reg]
  have hat := (hpacers r).trans hpacer
  have hon := hrun2.trans hrun
  have hne : r ≠ (u.recordRunning r (s.rx b).toNat bs).cur := by rw [hcur2, hcur]; exact hr
  generalize u.recordRunning r (s.rx b).toNat bs = v at hstep hself hat hon htask hne
  have hregion : v.advance.region r = v.region r := v.setReg_other _ hne
  refine ⟨_, hstep, ?_, ?_, ?_, fun i hi => ?_, ?_, ?_⟩
  · simp [pcOnly, State.pc, State.nextPC, hself]
  · rw [hregion]; exact hon
  · rw [hregion]; exact htask
  · rw [hregion, hat]
    exact Pacer.restore_rx _ _ _ _ i hi
  · rw [hregion, hat]
    rfl
  · rw [hregion, hat]
    rfl

end

end Sys2Proof.Machine

/-! # Proofs: the instructions of the privileged group, settled (O44) -/

namespace Sys2Proof.Machine

open Sys2Proof Sys2Proof.Claims

theorem State.faults_of_fail0 {s : State} (h : s.reg.pacer.mask = false) {i : Instr} {c : Byte} (he : exec i s = s.fail0 c i) : Faults i s c := by
  obtain ⟨t, ht, hin⟩ := s.fail0_entered c i (State.unmasked_of_mask h)
  exact ⟨t, he.trans ht, hin⟩

theorem State.tlbi_spec {s : State} (hm : s.reg.pacer.mode = true) (a b : XReg) {vd page : Nat} (hop : vaOperand (s.rx a) = some (vd, page)) :
    let range := if (s.rx b).toNat = 0 then none else some (page, (s.rx b).toNat)
    let inv : Inval := { region := s.cur, vd := vd, range := range, stamp := none }
    ∃ t, Completes (.tlbi a b) s t ∧
      ({ s with tlb := s.tlb.filter (fun (e : TlbEntry) => !e.within vd range), invals := s.invals ++ [inv] } : State).movedOn t :=
  ⟨_, State.exec_tlbi hm a b hop, State.movedOn_advance _⟩

theorem State.tlbsync_storing {s : State} (hm : s.reg.pacer.mode = true) (h : s.storing = true) : Waits .tlbsync s := by
  obtain ⟨t, ht, hw⟩ := s.block_waits
  exact ⟨t, (State.exec_tlbsync_storing hm h).trans ht, hw⟩

/-- Settles O44: each instruction by its own lemma; VD.DIRTY's one piece is followed from RQ to its port and back, a stop and a start by what each of
their parts keeps, and a save area's fields by its layout. -/
theorem privilegedGroup : Obligations.PrivilegedGroup := by
  intro s a b cd hm n c v r
  refine ⟨fun vd page hop => ⟨State.tlbi_spec hm a b hop, fun sp ps bits s1 hlo hhi hvd hacc hbits =>
      ⟨State.waitsFor_vdDirty hm hop hlo hhi hvd hacc hbits, fun p hps hsize hquiet hreach href => ?_⟩⟩,
    fun hop hmask => ⟨State.faults_of_fail0 hmask (State.exec_tlbi_fault hm a b hop), State.faults_of_fail0 hmask (State.exec_vdDirty_fault hm cd a b hop)⟩,
    State.tlbsync_storing hm, State.tlbsync_spec hm, fun d hown hd => State.vdStop_spec hm a d hown hd,
    fun hmask => ⟨fun hown => State.faults_of_fail0 hmask (State.exec_vdStop_own hm a hown),
      fun hown hd => State.faults_of_fail0 hmask (State.exec_vdStop_none hm a hown hd)⟩,
    State.vdStart_spec hm a, fun u hbase hstop hwf hdecls h => State.fcap_spec hm a b u hbase hstop hwf hdecls h,
    fun u hr hidle h => State.frst_spec hm a b u hr hidle h,
    fun hmask => ⟨fun hbase => State.faults_of_fail0 hmask (State.exec_fcap_unaligned hm a b hbase),
      fun hr => State.faults_of_fail0 hmask (State.exec_frst_self hm a b hr)⟩⟩
  subst hps
  exact State.settles_vdDirty hm hop hlo hhi hvd hacc hbits hsize hquiet hreach href

end Sys2Proof.Machine

/-! # Proofs: queue consumers (O50) -/

namespace Sys2Proof.Machine

open Sys2Proof Sys2Proof.Claims

/-! ### Acceptance of a packet (R38, R42, R57, R76) -/

/-- The task id of a LAUNCH, which is a new one, or the UTAG of another packet. -/
def State.acceptId (s : State) (q : Queue) (bs : List Byte) : Nat × State :=
  if q.kind == 1 && pktWord bs 0 % 256 == 1 then s.newId q.vd else (utag bs, s)

/-- The packet as its queue keeps it. -/
def State.acceptPkt (s : State) (q : Queue) (bs : List Byte) : Pkt :=
  { seq := q.r, bytes := bs, caps := if s.packetOk q bs then s.packetCaps q (pktWord bs) (pktWord bs 0 % 256) else [],
    taskId := (s.acceptId q bs).1, started := false }

/-- A queue that has taken a packet. -/
def Queue.took (q : Queue) (p : Pkt) : Queue :=
  { q with r := q.r + 1, used := true, heldStall := false, waitFrom := none, pend := q.pend ++ [p], seen := [] }

/-- The ACCEPT entry and the reservation of a packet. -/
def State.acceptEntry (s : State) (qid : Nat) (q : Queue) (bs : List Byte) : State :=
  let s2 := (s.acceptId q bs).2.journal qid q.r 0 0 0 (s.acceptPkt q bs).id bs
  { s2 with jnl := { s2.jnl with resv := s2.jnl.resv + 1 } }

/-- The queue has the packet, RIDX has advanced in its descriptor, and a queue that was STALLED runs. -/
def State.acceptTake (s : State) (qid : Nat) (q : Queue) (bs : List Byte) : State :=
  let s4 := ((s.acceptEntry qid q bs).putQueue qid (q.took (s.acceptPkt q bs))).putDesc q 0x40 (q.r + 1)
  if q.state == .stalled then s4.queueState qid .run q.r else s4

theorem State.accept_eq (s : State) (qid : Nat) (q : Queue) (bs : List Byte) :
    s.accept qid q bs = match s.refusal q bs with
      | some (res, c) => (s.acceptTake qid q bs).outcome qid q.r res c
      | none => s.acceptTake qid q bs := by
  unfold State.accept State.acceptTake State.acceptEntry State.acceptPkt State.acceptId
  split <;> rfl

/-- A new task id touches the virtual device's count alone. -/
theorem State.acceptId_frame (s : State) (q : Queue) (bs : List Byte) : ∃ v, (s.acceptId q bs).2 = { s with vds := v } := by
  unfold State.acceptId
  split
  · unfold State.newId State.onVd
    split <;> exact ⟨_, rfl⟩
  · exact ⟨s.vds, rfl⟩

section
variable {s : State} {qid : Nat} {q0 : Queue} (hq : s.queue qid = some q0) (q : Queue) (bs : List Byte)
include hq

theorem State.acceptEntry_fields : (s.acceptEntry qid q bs).jnl = { s.jnl with wr := s.jnl.wr + 1, resv := s.jnl.resv + 1 } ∧
    (s.acceptEntry qid q bs).tasks = s.tasks := by
  obtain ⟨v, hv⟩ := s.acceptId_frame q bs
  have hq' : ({ s with vds := v } : State).queue qid = some q0 := hq
  simp only [State.acceptEntry, hv, State.journal_eq hq', State.journalRaw_jnl, State.journalRaw_tasks, and_self]

/-- One ACCEPT entry and one reservation more; no task is touched. -/
theorem State.acceptTake_fields : (s.acceptTake qid q bs).jnl = { s.jnl with wr := s.jnl.wr + 1, resv := s.jnl.resv + 1 } ∧
    (s.acceptTake qid q bs).tasks = s.tasks := by
  obtain ⟨hjnl, htasks⟩ := State.acceptEntry_fields hq q bs
  have hput := (((s.acceptEntry qid q bs).putQueue qid (q.took (s.acceptPkt q bs))).wrote_putDesc q 0x40 (q.r + 1)).1
  unfold State.acceptTake
  split
  · have hrun := hput.trans (State.wrote_queueState _ qid .run q.r)
    exact ⟨hrun.jnl.trans hjnl, hrun.tasks.trans htasks⟩
  · exact ⟨hput.jnl.trans hjnl, hput.tasks.trans htasks⟩

omit hq in
/-- The queue has taken the packet. -/
theorem State.acceptTake_queue : ∃ y, (s.acceptTake qid q bs).queue qid = some y ∧ (q.took (s.acceptPkt q bs)).Restated y := by
  have hput : (((s.acceptEntry qid q bs).putQueue qid (q.took (s.acceptPkt q bs))).putDesc q 0x40 (q.r + 1)).queue qid =
      some (q.took (s.acceptPkt q bs)) := by
    rw [State.putDesc_queue, State.putQueue_queue]
  simp only [State.acceptTake]
  split
  · rw [State.queueState_queue, if_pos rfl, hput]
    exact ⟨_, rfl, .run, q.r, rfl⟩
  · exact ⟨_, hput, .refl _⟩

end

theorem State.packetOk_of_refusal {s : State} {q : Queue} {bs : List Byte} (h : s.refusal q bs = none) : s.packetOk q bs = true := by
  by_contra hok
  rw [Bool.not_eq_true] at hok
  simp [State.refusal, hok] at h

/-- The outcome of a refused packet: its queue has no other packet of that sequence number, so that it is the one that leaves. -/
theorem Queue.find_took {q : Queue} {p : Pkt} (hp : p.seq = q.r) (hnew : ∀ x ∈ q.pend, x.seq ≠ q.r) :
    (q.took p).pend.find? (fun x => x.seq == q.r) = some p := by
  have hnone : q.pend.find? (fun x => x.seq == q.r) = none := List.find?_eq_none.2 fun x hx => by simpa using hnew x hx
  simp [Queue.took, List.find?_append, hnone, hp]

theorem Queue.filter_took {q : Queue} {p : Pkt} (hp : p.seq = q.r) (hnew : ∀ x ∈ q.pend, x.seq ≠ q.r) :
    (q.took p).pend.filter (fun x => x.seq != p.seq) = q.pend := by
  have hall : q.pend.filter (fun x => x.seq != p.seq) = q.pend := List.filter_eq_self.2 fun x hx => by simpa [hp] using hnew x hx
  simp [Queue.took, hall]

/-! ### What PACKET_CONSUME does with a slot (R38, R39) -/

section
variable {s : State} {qid : Nat} {q : Queue} (hq : s.queue qid = some q)
include hq

theorem State.consume_idle (hc : s.consuming q = false) : exec (.packetConsume qid) s = .next s := by
  simp [exec, execPacketConsume, hq, hc]

variable (hc : s.consuming q = true) (hr : q.r < s.widx q)
include hc hr

theorem State.consume_last (hs : q.seen = []) {g : List Byte} (hg : s.slotLast q = some g) :
    exec (.packetConsume qid) s = .next (s.arrived qid q g) := by
  simp [exec, execPacketConsume, hq, hc, Nat.not_le.2 hr, hs, hg]

theorem State.consume_missing (hs : q.seen = []) (hg : s.slotLast q = none) :
    exec (.packetConsume qid) s = .next (s.putQueue qid { q with waitFrom := some (q.waitFrom.getD s.now) }) := by
  have hq' : ({ q with waitFrom := some (q.waitFrom.getD s.now), seen := [] } : Queue) = { q with waitFrom := some (q.waitFrom.getD s.now) } := by
    rw [← hs]
  simp [exec, execPacketConsume, hq, hc, Nat.not_le.2 hr, hs, hg, hq']

theorem State.consume_granule (hs : q.seen ≠ []) (hlen : q.seen.length < 4) {g : List Byte} (hg : s.slotGranule q (q.seen.length - 1) = some g) :
    exec (.packetConsume qid) s = .next ((s.putQueue qid { q with seen := q.seen ++ [g] }).tryAccept qid { q with seen := q.seen ++ [g] }) := by
  simp [exec, execPacketConsume, hq, hc, Nat.not_le.2 hr, hs, hlen, hg]

theorem State.consume_whole (hlen : q.seen.length = 4) : exec (.packetConsume qid) s = .next (s.tryAccept qid q) := by
  have hs : q.seen ≠ [] := fun h => by simp [h] at hlen
  simp [exec, execPacketConsume, hq, hc, Nat.not_le.2 hr, hs, hlen]

end

/-! ### The whole packet (R38, R42, R57) -/

theorem State.tryAccept_partial {s : State} {qid : Nat} {q : Queue} (h : q.seen.length < 4) : s.tryAccept qid q = s := by
  have hp : q.packet = none := by
    unfold Queue.packet
    split
    · next hs => simp [hs] at h
    · rfl
  simp [State.tryAccept, hp]

theorem State.tryAccept_whole {s : State} {qid : Nat} {q : Queue} {a b c e : List Byte} (hs : q.seen = [a, b, c, e]) :
    s.tryAccept qid q = if s.mayAccept q (b ++ c ++ e ++ a) then s.accept qid q (b ++ c ++ e ++ a) else s := by
  simp [State.tryAccept, Queue.packet, hs]

/-- The queue whose consumer has read all of its slot. -/
def Queue.read (q : Queue) (a b c e : List Byte) : Queue := { q with seen := [a, b, c, e] }

/-- The step that reads the fourth granule, and each later one: the packet is accepted if it may be. -/
theorem State.consume_packet {s v : State} {qid : Nat} {q : Queue} (hq : s.queue qid = some q) (hc : s.consuming q = true) (hr : q.r < s.widx q)
    {a b c e : List Byte}
    (h : q.seen = [a, b, c] ∧ s.slotGranule q 2 = some e ∧ v = s.putQueue qid { q with seen := [a, b, c, e] } ∨ q.seen = [a, b, c, e] ∧ v = s) :
    v.queue qid = some (q.read a b c e) ∧ v.jnl = s.jnl ∧ v.tasks = s.tasks ∧
      exec (.packetConsume qid) s = .next (if v.mayAccept q (b ++ c ++ e ++ a) then v.accept qid (q.read a b c e) (b ++ c ++ e ++ a) else v) := by
  rcases h with ⟨hs, hg, rfl⟩ | ⟨hs, rfl⟩
  · refine ⟨State.putQueue_queue _ _ _, rfl, rfl, ?_⟩
    rw [State.consume_granule (g := e) hq hc hr (by simp [hs]) (by simp [hs]) (by rw [hs]; exact hg), hs]
    exact congrArg Host.Outcome.next (State.tryAccept_whole rfl)
  · have hread : q.read a b c e = q := by rw [Queue.read, ← hs]
    rw [hread]
    refine ⟨hq, rfl, rfl, ?_⟩
    rw [State.consume_whole hq hc hr (by simp [hs])]
    exact congrArg Host.Outcome.next (State.tryAccept_whole hs)

/-- An accepted packet that passes its checks. -/
theorem State.accept_sound {v : State} {qid : Nat} {q : Queue} (hq : v.queue qid = some q) {bs : List Byte} (hf : v.refusal q bs = none) :
    ∃ y, (v.accept qid q bs).queue qid = some y ∧ y.r = q.r + 1 ∧ y.seen = [] ∧ y.pend = q.pend ++ [v.acceptPkt q bs] ∧
      (v.acceptPkt q bs).caps = v.packetCaps q (pktWord bs) (pktWord bs 0 % 256) ∧
      (v.accept qid q bs).jnl.wr = v.jnl.wr + 1 ∧ (v.accept qid q bs).jnl.resv = v.jnl.resv + 1 ∧ (v.accept qid q bs).tasks = v.tasks := by
  obtain ⟨hjnl, htasks⟩ := State.acceptTake_fields hq q bs
  obtain ⟨y, hy, st, n, rfl⟩ := State.acceptTake_queue (s := v) (qid := qid) q bs
  have he : v.accept qid q bs = v.acceptTake qid q bs := by simp only [State.accept_eq, hf]
  rw [he]
  refine ⟨_, hy, rfl, rfl, rfl, ?_, by rw [hjnl], by rw [hjnl], htasks⟩
  simp [State.acceptPkt, State.packetOk_of_refusal hf]

/-- An accepted packet that a check refuses has its outcome at once. -/
theorem State.accept_refused {v : State} {qid : Nat} {q : Queue} (hq : v.queue qid = some q) (hd : q.destroying = [])
    (hnew : ∀ x ∈ q.pend, x.seq ≠ q.r) {bs : List Byte} {f : Nat × Nat} (hf : v.refusal q bs = some f) :
    ∃ y, (v.accept qid q bs).queue qid = some y ∧ y.r = q.r + 1 ∧ y.pend = q.pend ∧ (v.accept qid q bs).jnl.wr = v.jnl.wr + 2 ∧
      (v.accept qid q bs).jnl.resv = v.jnl.resv ∧ (v.accept qid q bs).tasks = v.tasks := by
  obtain ⟨hjnl, htasks⟩ := State.acceptTake_fields hq q bs
  obtain ⟨y, hy, st, n, rfl⟩ := State.acceptTake_queue (s := v) (qid := qid) q bs
  have hfind := Queue.find_took (p := v.acceptPkt q bs) rfl hnew
  have he : v.accept qid q bs = (v.acceptTake qid q bs).outcomeOf qid (v.acceptPkt q bs) f.1 f.2 := by
    simp only [State.accept_eq, hf]
    exact State.outcome_eq hy hd hfind f.1 f.2
  rw [he, State.outcomeOf_eq hy]
  refine ⟨_, State.putQueue_queue _ _ _, rfl, Queue.filter_took rfl hnew, ?_, ?_, ?_⟩
  · simp only [State.putQueue, hjnl]
  · simp only [State.putQueue, hjnl, Nat.add_sub_cancel]
  · simp only [State.putQueue, State.journalRaw_tasks, htasks]

/-- A consumer works on no queue that Q.DESTROY has closed. -/
theorem State.open_of_consuming {s : State} {q : Queue} (h : s.consuming q = true) : q.destroying = [] := by
  unfold State.consuming at h
  simp only [Bool.and_eq_true, List.isEmpty_iff] at h
  tauto

/-! ### The stall timer and the STALL entry (R40, R57, R76) -/

section
variable (s : State) (qid : Nat) (q : Queue) (st : QState) (n : Nat)

theorem State.restated_queue : ((s.putQueue qid q).queueState qid st n).queue qid = some { q with state := st, seqAt := n } :=
  State.queueState_self (State.putQueue_queue _ _ _) st n

theorem State.restated_jnl : ((s.putQueue qid q).queueState qid st n).jnl = s.jnl := (State.wrote_queueState _ qid st n).jnl

end

/-- The PHASE of the awaited slot has come: the timer is off, and a held entry is dropped. -/
theorem State.arrived_fields (s : State) (qid : Nat) (q : Queue) (g : List Byte) :
    ∃ y, (s.arrived qid q g).queue qid = some y ∧ y.seen = [g] ∧ y.waitFrom = none ∧ y.heldStall = false ∧ y.r = q.r ∧ y.pend = q.pend ∧
      y.state = (if q.heldStall = true ∧ q.state = .stalled then .run else q.state) ∧ (s.arrived qid q g).jnl = s.jnl := by
  unfold State.arrived
  by_cases h : q.heldStall = true ∧ q.state = .stalled
  · have hb : (q.heldStall && q.state == .stalled) = true := by simp [h]
    rw [if_pos hb, if_pos h]
    exact ⟨_, State.restated_queue _ _ _ _ _, rfl, rfl, rfl, rfl, rfl, rfl, State.restated_jnl _ _ _ _ _⟩
  · have hb : (q.heldStall && q.state == .stalled) = false := by simpa using h
    simp only [hb, Bool.false_eq_true, if_false, if_neg h]
    exact ⟨_, State.putQueue_queue _ _ _, rfl, rfl, rfl, rfl, rfl, rfl, rfl⟩

theorem State.stallEntry_fields (s : State) (qid : Nat) (q : Queue) :
    oneEntry s (s.stallEntry qid q) ∧ ∀ j, (s.stallEntry qid q).queue j = s.queue j := by
  unfold State.stallEntry State.unreadEntry State.drawWord
  refine ⟨⟨?_, ?_, ?_⟩, fun j => ?_⟩
  · rw [State.journalRaw_jnl]
  · exact State.journalRaw_tasks _ _ _ _ _ _ _ _ _ _ _
  · exact State.journalRaw_vds _ _ _ _ _ _ _ _ _ _ _
  · exact State.journalRaw_queue _ _ _ _ _ _ _ _ _ _ _ _

/-- When a queue's stall timer does not run. -/
theorem State.timerOff_iff (s : State) (q : Queue) : s.timerOff q = true ↔ s.room < 2 ∨ q.kind = 1 ∧ taskLimit ≤ s.tracked := by
  simp [State.timerOff]

section
variable {s : State} {qid : Nat} {q : Queue} (hq : s.queue qid = some q)
include hq

theorem State.holdTimers_queue {t0 : Nat} (ht : q.waitFrom = some t0) (hoff : s.timerOff q = true) (fc : Nat) :
    (s.holdTimers fc).queue qid = some { q with waitFrom := some (t0 + fc) } := by
  have hq' : AMap.find s.queues qid = some q := hq
  simp [State.holdTimers, State.queue, AMap.find_mapV, hq', hoff, ht]

/-- The stall limit has passed: the queue is STALLED, and its entry is written, or held where there is no room. -/
theorem State.stall_due {t0 : Nat} (ht : q.waitFrom = some t0) (hc : s.consuming q = true) (hst : q.state = .run) (hr : q.r < s.widx q)
    (hready : s.slotReady q = false) (hoff : s.timerOff q = false) (hlim : q.stall ≤ s.now - t0) :
    exec (.queueStall qid) s = .next (let s1 := s.queueState qid .stalled q.r
      if s1.room ≥ 3 then s1.stallEntry qid q else s1.putQueue qid { q with state := .stalled, seqAt := q.r, heldStall := true }) := by
  have hq1 := State.queueState_self hq .stalled q.r
  simp [exec, execQueueStall, hq, ht, hc, hst, hr, hready, hoff, hlim, hq1]

theorem State.stall_idle (h : q.waitFrom = none ∨ s.timerOff q = true) : exec (.queueStall qid) s = .next s := by
  rcases h with h | h
  · simp [exec, execQueueStall, hq, h]
  · cases hw : q.waitFrom <;> simp [exec, execQueueStall, hq, hw, h]

theorem State.stallWrite_arrived (hheld : q.heldStall = true) (hst : q.state = .stalled) (hready : s.slotReady q = true) :
    exec (.stallEntryWrite qid) s = .next ((s.putQueue qid { q with heldStall := false }).queueState qid .run q.r) := by
  simp [exec, execStallEntryWrite, hq, hheld, hst, hready]

theorem State.stallWrite_room (hheld : q.heldStall = true) (hst : q.state = .stalled) (hready : s.slotReady q = false) (hroom : 3 ≤ s.room) :
    exec (.stallEntryWrite qid) s = .next ((s.putQueue qid { q with heldStall := false }).stallEntry qid q) := by
  simp [exec, execStallEntryWrite, hq, hheld, hst, hready, hroom]

theorem State.stallWrite_idle (h : ¬(q.heldStall = true ∧ q.state = .stalled ∧ (s.slotReady q = true ∨ 3 ≤ s.room))) :
    exec (.stallEntryWrite qid) s = .next s := by
  by_cases hheld : q.heldStall = true ∧ q.state = .stalled
  · obtain ⟨hready, hroom⟩ := not_or.1 fun hor => h ⟨hheld.1, hheld.2, hor⟩
    simp [exec, execStallEntryWrite, hq, hheld, hready, hroom]
  · have hb : (q.heldStall && q.state == .stalled) = false := by simpa using hheld
    simp [exec, execStallEntryWrite, hq, hb]

end

/-! ### The obligation -/

/-- Settles O50: the consumer by how much of its slot it has read; the stall timer, and the entry of a stall, by what PACKET_CONSUME's slot shows and
by the room that there is. -/
theorem queueConsumers : Obligations.QueueConsumers := by
  intro s qid q hq
  refine ⟨fun hc hr => ⟨fun hs => ⟨fun g hg => ?_, fun hg => ?_⟩, fun g hs hlen hg => ?_, ?_⟩, State.consume_idle hq, ?_, ?_, ?_, ?_, ?_,
    State.stallWrite_idle hq⟩
  · obtain ⟨y, hy, h⟩ := s.arrived_fields qid q g
    exact ⟨_, y, State.consume_last hq hc hr hs hg, hy, h⟩
  · exact ⟨_, State.consume_missing hq hc hr hs hg, State.putQueue_queue _ _ _, rfl⟩
  · have hstep := State.consume_granule hq hc hr hs (by omega) hg
    rwa [State.tryAccept_partial (by rw [List.length_append, List.length_singleton]; omega)] at hstep
  · intro a b c e v bs w opc hread
    obtain ⟨hv, hjnl, htasks, hstep⟩ := State.consume_packet hq hc hr hread
    have hopen : (q.read a b c e).destroying = [] := State.open_of_consuming hc
    refine ⟨fun hno => ?_, fun hmay hf => ?_, fun f hmay hf hnew => ?_⟩
    · rwa [if_neg (Bool.eq_false_iff.1 hno)] at hstep
    · rw [if_pos hmay] at hstep
      obtain ⟨y, hy, hr', hs', hp', hcaps, hwr, hresv, ht⟩ := State.accept_sound hv hf
      exact ⟨_, y, _, hstep, hy, hr', hs', hp', rfl, rfl, rfl, hcaps, hjnl ▸ hwr, hjnl ▸ hresv, ht.trans htasks⟩
    · rw [if_pos hmay] at hstep
      obtain ⟨y, hy, hr', hp', hwr, hresv, ht⟩ := State.accept_refused hv hopen hnew hf
      exact ⟨_, y, hstep, hy, hr', hp', hjnl ▸ hwr, hjnl ▸ hresv, ht.trans htasks⟩
  · intro t0 ht hc hst hr hready hoff hlim
    have hstep := State.stall_due hq ht hc hst hr hready hoff hlim
    have hw := s.wrote_queueState qid .stalled q.r
    have hq1 := State.queueState_self hq .stalled q.r
    by_cases hroom : 3 ≤ (s.queueState qid .stalled q.r).room
    · obtain ⟨⟨hwr, htasks, hvds⟩, hqs⟩ := (s.queueState qid .stalled q.r).stallEntry_fields qid q
      rw [if_pos hroom] at hstep
      refine ⟨_, _, hstep, (hqs qid).trans hq1, rfl, rfl, fun _ => ⟨?_, htasks.trans hw.tasks, hvds.trans hw.vds⟩, fun h => absurd hroom (by omega)⟩
      rw [hwr, hw.jnl]
    · rw [if_neg hroom] at hstep
      exact ⟨_, _, hstep, State.putQueue_queue _ _ _, rfl, rfl, fun h => absurd h hroom, fun _ => ⟨rfl, hw.jnl⟩⟩
  · intro h
    rw [← State.timerOff_iff] at h
    exact State.stall_idle hq h
  · intro fc t0 ht h
    exact State.holdTimers_queue hq ht ((s.timerOff_iff q).2 h) fc
  · intro hheld hst hready
    exact ⟨_, _, State.stallWrite_arrived hq hheld hst hready, State.restated_jnl _ _ _ _ _, State.restated_queue _ _ _ _ _, rfl, rfl⟩
  · intro hheld hst hready hroom
    obtain ⟨hone, hqs⟩ := (s.putQueue qid { q with heldStall := false }).stallEntry_fields qid q
    exact ⟨_, State.stallWrite_room hq hheld hst hready hroom, hone, (hqs qid).trans (State.putQueue_queue _ _ _)⟩

end Sys2Proof.Machine

/-! # Proofs: task and copy packets (O51) -/

namespace Sys2Proof.Machine

open Sys2Proof Sys2Proof.Claims

/-! ### The packet that starts next -/

section
variable {s : State} {qid opc : Nat} {q : Queue} {p : Pkt} (hn : startsNext s qid q p opc)
include hn

theorem State.startPkt_next (f : State → Queue → Pkt → State) : s.startPkt qid opc f = .next (f (s.markStarted qid p.seq) q p) := by
  obtain ⟨hq, hnext, hopc, _, _⟩ := hn
  simp [State.startPkt, hq, hnext, hopc]

theorem State.markStarted_frame : s.markStarted qid p.seq = s.putQueue qid (q.start p.seq) := State.markStarted_eq hn.1 p.seq

@[simp] theorem State.markStarted_task (i : Nat) : (s.markStarted qid p.seq).task i = s.task i := by
  rw [State.markStarted_frame hn]
  rfl

end

theorem State.startPkt_none {s : State} {qid : Nat} (h : s.queue qid = none) (opc : Nat) (f : State → Queue → Pkt → State) :
    s.startPkt qid opc f = .next s := by
  simp only [State.startPkt, h]

/-! ### LAUNCH (R45, R62 to R65, R79) -/

theorem State.joinHeat_task (s : State) (id : Nat) (t : Task) (j : Nat) : (s.joinHeat id t).task j = s.task j := by
  unfold State.joinHeat
  split
  · exact State.onSib_task _ _ _ _ _
  · rfl

/-- A LAUNCH of an UNLAUNCHED TCB that passes its checks: the task is entered WAITING, and becomes READY where no predecessor is left. -/
theorem State.launchTask_enters {s : State} {vd id q seq : Nat} {tcb c1 c2 : Cap} {args : List Word} {b : Tcb} (hr : s.readTcb vd tcb = .ok b)
    (hst : b.state = 0) : let t := b.task vd id tcb (some (q, seq)) args c1 c2
    s.tcbFault b t = none → s.heatCheck t = some false →
      ∃ v : State, (∀ i, v.task i = s.task i) ∧ let x := v.putTask id { t with st := .waiting }
        (s.launchTask vd id tcb q seq args c1 c2 = x ∨ s.launchTask vd id tcb q seq args c1 c2 = x.makeReady id) := by
  intro t hf hh
  have ht : b.task vd id tcb (some (q, seq)) args c1 c2 = t := rfl
  have hbefore : ∀ i, ((s.writeTaskId t id).joinHeat id t).task i = s.task i := fun i =>
    (State.joinHeat_task _ _ _ _).trans ((s.wrote_unitTry 0 t.vd t.tcb (t.at_ 0x1C) (leBytes 4 id)).task i)
  unfold State.launchTask
  clear_value t
  simp only [hr, ht]
  generalize (s.writeTaskId t id).joinHeat id t = s1 at hbefore ⊢
  generalize ha : s1.unitAtomic vd tcb (t.at_ 0x10) 8 (fun w => w - bitsOf w 16 4 * 65536 + TaskState.waiting.code * 65536) = r
  generalize b.state = n at hst ⊢
  generalize s.heatCheck t = late at hh ⊢
  generalize s.tcbFault b t = fault at hf ⊢
  subst hst hh hf
  cases r with
  | ok r =>
    refine ⟨r.2, fun i => ((State.wrote_unitAtomic ha).task i).trans (hbefore i), ?_⟩
    simp only [bne_self_eq_false, Bool.false_and, Bool.or_self, Bool.false_eq_true, if_false]
    split
    · exact .inr rfl
    · exact .inl rfl
  | error f =>
    refine ⟨s1.unitFail 0 f (t.at_ 0x10), fun i => ((s1.wrote_unitFail 0 f (t.at_ 0x10)).task i).trans (hbefore i), ?_⟩
    simp only [bne_self_eq_false, Bool.false_and, Bool.or_self, Bool.false_eq_true, if_false]
    split
    · exact .inr rfl
    · exact .inl rfl

/-- The task that a LAUNCH enters. -/
theorem State.task_of_enters {s t v : State} {id : Nat} {x : Task} (hv : ∀ i, v.task i = s.task i)
    (h : t = v.putTask id { x with st := .waiting } ∨ t = (v.putTask id { x with st := .waiting }).makeReady id) :
    (t.task id = some { x with st := .waiting } ∨ t.task id = some { x with st := .ready, since := v.now }) ∧ ∀ i, i ≠ id → t.task i = s.task i := by
  rcases h with rfl | rfl
  · exact ⟨.inl (State.putTask_task _ _ _), fun i hi => (State.putTask_task_other _ _ hi).trans (hv i)⟩
  · refine ⟨.inr ?_, fun i hi => ?_⟩
    · rw [State.makeReady_task (State.putTask_task _ _ _), if_pos rfl]
      rfl
    · rw [State.makeReady_task (State.putTask_task _ _ _), if_neg hi, State.putTask_task_other _ _ hi, hv]

/-! ### CANCEL (R45, R71, R72) -/

/-- The cancel that a packet brings. -/
def packetCancel (s : State) (id : Nat) : Cancel := { task := id, at_ := s.now, grace := none, casc := false }

theorem State.cancelTask_single {s v : State} {id : Nat} {t : Task} (ht : s.task id = some t) (h : s.cancelOne (packetCancel s id) = (v, [])) :
    s.cancelTask id = v := by
  obtain ⟨n, hn⟩ := State.cancelTask_eq ht
  rw [packetCancel] at h
  rw [hn, h]
  exact State.cancelAll_nil _ _ _

/-- A cancel of a task that a region runs, and that no other cancel has reached. -/
theorem State.cancelTask_running {s : State} {id : Nat} {t : Task} (ht : s.task id = some t) (hst : t.st = .running ∨ t.st = .runningTrig) :
    s.cancelTask id = s.cancelRuns (packetCancel s id) t := by
  refine State.cancelTask_single ht ?_
  have htask : s.task (packetCancel s id).task = some t := ht
  rw [State.cancelOne_eq htask]
  rcases hst with hst | hst <;> rw [hst]

section
variable {s : State} {id : Nat} {t : Task} (hfate : t.fate = 0) (hcancel : t.cancel = false)
include hfate hcancel

theorem State.cancelRuns_late (h : t.since < s.now) :
    s.cancelRuns (packetCancel s id) t = (s.noteCancel id t).runningCancel t (packetCancel s id) := by
  simp [State.cancelRuns, hfate, hcancel, Nat.not_le.2 h, packetCancel]

theorem State.cancelRuns_crossing (h : s.now ≤ t.since) :
    s.cancelRuns (packetCancel s id) t =
      ({ s with cancels := s.cancels ++ [packetCancel s id] } : State).putTask id (t.pendCancel (packetCancel s id)) := by
  simp [State.cancelRuns, hfate, hcancel, h, packetCancel]

end

/-- The regions of a task have learnt of its cancel. -/
theorem State.foldl_cancelAt (c : Option Nat) (rs : List Nat) (m : Nat) : ∀ s : State, (m ∈ rs ∨ (s.region m).cancelAt = c) →
    ((rs.foldl (fun u r => u.onRegion r (fun g => { g with cancelAt := c })) s).region m).cancelAt = c := by
  induction rs with
  | nil => exact fun s h => h.resolve_left (List.not_mem_nil)
  | cons r rs ih =>
    intro s h
    refine ih _ ?_
    by_cases hm : m = r
    · exact .inr (by rw [hm, State.onRegion_same])
    · rcases h with h | h
      · exact .inl ((List.mem_cons.1 h).resolve_left hm)
      · exact .inr (by rw [State.onRegion_other _ _ hm, h])

theorem State.foldl_onRegion_frame (f : Region → Region) (rs : List Nat) :
    ∀ s : State, ∃ x, rs.foldl (fun u r => u.onRegion r f) s = { s with regions := x } := by
  induction rs with
  | nil => exact fun s => ⟨s.regions, rfl⟩
  | cons r rs ih => exact fun s => ih (s.onRegion r f)

/-- A running task's record takes the cancel, and its state, in the record and in the TCB, is CANCELLING; a triggered run has no such state. -/
theorem State.enterCancelling_put {s : State} {id : Nat} (t : Task) : s.SameQueues ((s.putTask id t).enterCancelling id) ∧
    ((s.putTask id t).enterCancelling id).now = s.now ∧
    ((s.putTask id t).enterCancelling id).task id = some { t with st := if t.st = .running then .cancelling else t.st } ∧
    ∀ i, i ≠ id → ((s.putTask id t).enterCancelling id).task i = s.task i := by
  have hput : s.SameQueues (s.putTask id t) := .of_eq rfl rfl rfl
  by_cases h : t.st = .running
  · have he : (s.putTask id t).enterCancelling id = ((s.putTask id t).writeState t .cancelling).putTask id { t with st := .cancelling } := by
      simp [State.enterCancelling, State.taskState, h]
    have hw := (s.putTask id t).wrote_writeState t .cancelling
    rw [he, if_pos h]
    refine ⟨(hput.trans hw.sameQueues).trans (.of_eq rfl rfl rfl), hw.now, State.putTask_task _ _ _, fun i hi => ?_⟩
    rw [State.putTask_task_other _ _ hi, hw.task, State.putTask_task_other _ _ hi]
  · have he : (s.putTask id t).enterCancelling id = s.putTask id t := by simp [State.enterCancelling, h]
    rw [he, if_neg h]
    exact ⟨hput, rfl, State.putTask_task _ _ _, fun i hi => State.putTask_task_other _ _ hi⟩

/-- A running cancel, as it reaches the task's regions. -/
theorem State.runningCancel_spec (s : State) (t : Task) (c : Cancel) : let v := (s.noteCancel c.task t).runningCancel t c
    s.SameQueues v ∧ (∀ m ∈ t.members, (v.region m).cancelAt = some s.now) ∧
      v.task c.task = some { t.pendCancel c with st := if t.st = .running then .cancelling else t.st } ∧ ∀ i, i ≠ c.task → v.task i = s.task i := by
  obtain ⟨hs, hnote⟩ := s.noteCancel_frame c.task t
  generalize s.noteCancel c.task t = s1 at hnote
  obtain ⟨hq, hnow, hid, hother⟩ := State.enterCancelling_put (s := s1) (id := c.task) (t.pendCancel c)
  have hst : (t.pendCancel c).st = t.st := by
    unfold Task.pendCancel
    split <;> rfl
  rw [hst] at hid
  subst hnote
  intro v
  obtain ⟨x, hv⟩ := State.foldl_onRegion_frame (fun g => { g with cancelAt := some s.now }) t.members
    ((({ s with heats := hs } : State).putTask c.task (t.pendCancel c)).enterCancelling c.task)
  have hv : v = { (({ s with heats := hs } : State).putTask c.task (t.pendCancel c)).enterCancelling c.task with regions := x } := hv
  have hnote : s.SameQueues { s with heats := hs } := .of_eq rfl rfl rfl
  refine ⟨?_, fun m hm => State.foldl_cancelAt (some s.now) t.members m _ (.inl hm), ?_, fun i hi => ?_⟩
  · rw [hv]
    exact (hnote.trans hq).trans (.of_eq rfl rfl rfl)
  · rw [hv]
    exact hid
  · rw [hv]
    exact hother i hi

/-- A frozen task that stores hold back is given up, and ends later. -/
theorem State.cancelTask_held {s : State} {id : Nat} {t : Task} (ht : s.task id = some t) (hst : t.st = .frozen) (hfate : t.fate = 0)
    (hcross : ¬(t.cancel = true ∧ s.now = t.since)) (hheld : s.holdsBack t 7 = true) :
    s.SameQueues (s.cancelTask id) ∧
      (s.cancelTask id).task id = some { t with runs := min t.runs 1, crossed := false, fate := 7, fcause := 0 } := by
  have hone : s.cancelOne (packetCancel s id) = ((s.noteCancel id t).endLater id t, []) := by
    have htask : s.task (packetCancel s id).task = some t := ht
    have hno : (packetCancel s id).crosses t = false := by simpa [Cancel.crosses, packetCancel] using hcross
    rw [State.cancelOne_eq htask, hst]
    simp only [hno, hfate, hheld, bne_self_eq_false, Bool.or_false, Bool.false_eq_true, if_false, if_true]
    rfl
  rw [State.cancelTask_single ht hone, State.endLater]
  refine ⟨?_, State.putTask_task _ _ _⟩
  obtain ⟨hs, hnote⟩ := s.noteCancel_frame id t
  obtain ⟨vs, hvd⟩ := ({ s.noteCancel id t with cancelledAt := some (s.noteCancel id t).now } : State).onVd_frame t.vd (·.forget id)
  rw [hvd, hnote]
  exact .of_eq rfl rfl rfl

/-- A task that no region runs, and that nothing holds back, is gone, whatever the cascade that follows does. -/
theorem State.cancelTask_gone {s : State} {id : Nat} {t : Task} (ht : s.task id = some t)
    (hst : t.st = .waiting ∨ t.st = .ready ∨ t.st = .frozen ∧ t.fate = 0 ∧ s.holdsBack t 7 = false) (hq : t.queue ≠ none)
    (hcross : ¬(t.st = .frozen ∧ t.cancel = true ∧ s.now = t.since)) : (s.cancelTask id).task id = none := by
  have htask : s.task (packetCancel s id).task = some t := ht
  obtain ⟨fate, hone⟩ : ∃ fate, s.cancelOne (packetCancel s id) = s.cancelEnds (packetCancel s id) t fate := by
    rw [State.cancelOne_eq htask]
    rcases hst with hst | hst | ⟨hst, hfate, hheld⟩
    · rw [hst]; exact ⟨3, rfl⟩
    · rw [hst]; exact ⟨3, rfl⟩
    · have hno : (packetCancel s id).crosses t = false := by simpa [Cancel.crosses, packetCancel, hst] using hcross
      rw [hst]
      simp only [hno, hfate, hheld, bne_self_eq_false, Bool.or_false, Bool.false_eq_true, if_false]
      exact ⟨7, rfl⟩
  obtain ⟨n, hn⟩ := State.cancelTask_eq ht
  rw [packetCancel] at hone
  rw [hn, hone]
  exact State.noNewTask_cancelAll n _ _ _ id ((State.cancelEnds_tasks htask fate).2 hq)

/-! ### The packet is no longer pending after its outcome (R57, R58) -/

theorem State.outcomeOf_queue_other (s : State) {qid j : Nat} (h : j ≠ qid) (p : Pkt) (res cause : Nat) :
    (s.outcomeOf qid p res cause).queue j = s.queue j := by
  cases hq : s.queue qid with
  | none =>
    have hj : s.journal qid p.seq 1 res cause p.id p.bytes = s := by simp only [State.journal, hq]
    have hq' : ({ s with jnl := { s.jnl with resv := s.jnl.resv - 1 } } : State).queue qid = none := hq
    simp only [State.outcomeOf, hj, hq']
    rfl
  | some q =>
    have he := State.journalRaw_queue s qid p.seq 1 (p.seq % q.slots) res (fieldLe p.bytes 0 1) p.id (crc32 (noPhase p.bytes)) q.jvd cause j
    rw [State.outcomeOf_eq hq, State.putQueue_queue_other _ _ h]
    simp only [State.queue] at he ⊢
    exact he

/-- A queue that is gone stays away through the outcomes of the packets that closed it. -/
theorem State.foldl_destroyed_none {qid : Nat} (cs : List (Nat × Nat)) :
    ∀ {s : State}, s.queue qid = none → (cs.foldl State.destroyed s).queue qid = none := by
  induction cs with
  | nil => exact id
  | cons c cs ih =>
    intro s h
    refine ih ?_
    cases hf : (s.queue c.1).bind (fun q => q.pend.find? (fun x => x.seq == c.2)) with
    | none => simp only [State.destroyed, hf]; exact h
    | some p =>
      have hne : qid ≠ c.1 := by
        rintro rfl
        rw [h] at hf
        cases hf
      simp only [State.destroyed, hf]
      exact (s.outcomeOf_queue_other hne p resOk 0).trans h

theorem State.not_pending_of_outcome {s : State} {qid seq res cause : Nat} {y : Queue} (h : (s.outcome qid seq res cause).queue qid = some y) :
    ∀ x ∈ y.pend, x.seq ≠ seq := by
  cases hq : s.queue qid with
  | none =>
    simp only [State.outcome, hq, Option.bind_none] at h
    cases h
  | some q =>
    cases hf : q.pend.find? (fun x => x.seq == seq) with
    | none =>
      simp only [State.outcome, hq, Option.bind_some, hf] at h
      cases h
      simpa using List.find?_eq_none.1 hf
    | some p =>
      have hp : p.seq = seq := eq_of_beq (List.find?_some (p := fun x : Pkt => x.seq == seq) hf)
      have hafter : (s.outcomeOf qid p res cause).queue qid = some { q with pend := q.pend.filter (fun x => x.seq != p.seq) } := by
        rw [State.outcomeOf_eq hq]
        exact State.putQueue_queue _ _ _
      simp only [State.outcome, hq, Option.bind_some, hf, State.closeQueue, hafter] at h
      split at h
      · rw [hafter] at h
        cases h
        intro x hx
        have hne : (x.seq != p.seq) = true := (List.mem_filter.1 hx).2
        simpa [hp] using hne
      · have hdel : ({ s.outcomeOf qid p res cause with queues := AMap.del (s.outcomeOf qid p res cause).queues qid } : State).queue qid = none :=
          AMap.find_del_same _ _
        rw [State.foldl_destroyed_none _ hdel] at h
        cases h

/-! ### NOTIFY (R45) -/

/-- A unit's write that lies in one granule, and that its port takes. -/
theorem State.unitWrite_single {s : State} {vd a k : Nat} {c : Cap} {bs : List Byte} {cm : Bool}
    (hk : s.unitKeys vd c a bs.length permStore kindWrite Use.store = .ok [(k, bs.length, cm)]) (hr : s.refuses k (plain bs) cm 1 = none) :
    s.unitWrite vd c a bs = .ok ((s.applyWrite k (plain bs) cm).written k) := by
  simp only [State.unitWrite_eq, hk, List.foldl_cons, List.foldl_nil, unitStep, List.take_length, hr, Except.map]

/-- Bytes below the aperture are as the effect left them after the packet's outcome, whose entry lies in the aperture (R56, R57). -/
theorem State.get_outcome_below {s v : State} {qid opc : Nat} {q : Queue} {p : Pkt} (hn : startsNext s qid q p opc)
    (h : (s.markStarted qid p.seq).SameQueues v) (hwf : Memory.wf v.mem = true) (res cause : Nat) {j : Nat} (hj : j < apKey 0) :
    Memory.get (v.outcome qid p.seq res cause).mem j = Memory.get v.mem j := by
  obtain ⟨r, _, hr, he⟩ := State.outcome_started hn h res cause
  have hkey : ¬v.nextEntry ≤ j := Nat.not_le.2 (Nat.lt_of_lt_of_le hj (Nat.add_le_add_left (Nat.zero_le _) _))
  rw [he, State.outcomeOf_mem hr, Memory.get_setBytes _ _ _ _ hwf, if_neg fun hc => hkey hc.1]

/-- What a NOTIFY stores, and what its store leaves. -/
theorem State.notify_stores {s : State} {qid : Nat} {q : Queue} {p : Pkt} (hn : startsNext s qid q p 0x03) {k : Nat} {cm : Bool}
    (hwf : Memory.wf s.mem = true) (hk : k + 8 ≤ apKey 0) :
    let v := (s.markStarted qid p.seq).applyWrite k (plain (leBytes 8 (p.w 2))) cm
    let t := v.outcome qid p.seq resOk 0
    outcomeIs s t qid q p resOk 0 ∧ t.rdWord k = p.w 2 ∧ t.tasks = s.tasks ∧
      ∀ j < apKey 0, ¬(k ≤ j ∧ j < k + 8) → Memory.get t.mem j = Memory.get s.mem j := by
  intro v t
  have hw : (s.markStarted qid p.seq).Wrote v := State.wrote_applyWrite _ _ _ _
  have hu : (s.markStarted qid p.seq).mem = s.mem ∧ (s.markStarted qid p.seq).tasks = s.tasks := by
    rw [State.markStarted_frame hn]
    exact ⟨rfl, rfl⟩
  have hwfu : Memory.wf (s.markStarted qid p.seq).mem = true := by rw [hu.1]; exact hwf
  have hbelow : ∀ j < apKey 0, Memory.get t.mem j = Memory.get v.mem j :=
    fun j hj => State.get_outcome_below hn hw.sameQueues (hw.wf hwfu) resOk 0 hj
  refine ⟨State.outcomeIs_outcome hn hw.sameQueues _ _, ?_, ((v.journaled_outcome _ _ _ _).tasks.trans hw.tasks).trans hu.2, fun j hj hout => ?_⟩
  · have hmem : v.mem = Memory.setBytes (s.markStarted qid p.seq).mem k (leBytes 8 (p.w 2)) := by
      rw [(State.applyWrite_mem _ _ _ _).1, State.merged_plain]
    have hlt : p.w 2 < 256 ^ 8 := fieldLe_lt _ _ _
    have hrd : t.rd k 8 = v.rd k 8 := State.rd_congr fun j _ hj => hbelow j (by omega)
    rw [State.rdWord, hrd, State.rd_setBytes hwfu (leBytes_length 8 _) hmem, leNat_leBytes, Nat.mod_eq_of_lt hlt]
  · rw [hbelow j hj, State.get_applyWrite_plain _ _ _ _ hwfu, leBytes_length, if_neg hout, hu.1]

/-! ### Copy packets (R47, R48) -/

/-- A copy packet's command, and its mark. -/
theorem State.handedOver_startCopy {s : State} {qid opc : Nat} {q : Queue} {p : Pkt} (hn : startsNext s qid q p opc) :
    handedOver s ((s.markStarted qid p.seq).startCopy qid q p) qid q p := by
  have hstart : ∀ x ∈ (q.start p.seq).pend, x.seq = p.seq → x.started = true := by
    intro x hx hseq
    obtain ⟨y, _, rfl⟩ := List.mem_map.1 hx
    split
    · rfl
    · next hy =>
      rw [if_neg hy] at hseq
      exact absurd (beq_iff_eq.2 hseq) hy
  rw [State.markStarted_frame hn]
  exact ⟨AMap.find_put_same _ _ _, rfl, rfl, q.start p.seq, State.putQueue_queue _ _ _, rfl, hstart⟩

/-! ### The obligation -/

theorem State.markStarted_fields {s : State} {qid opc : Nat} {q : Queue} {p : Pkt} (hn : startsNext s qid q p opc) :
    (s.markStarted qid p.seq).tasks = s.tasks ∧ (s.markStarted qid p.seq).now = s.now ∧ (s.markStarted qid p.seq).cancels = s.cancels ∧
      ∀ t fate, (s.markStarted qid p.seq).holdsBack t fate = s.holdsBack t fate := by
  rw [State.markStarted_frame hn]
  exact ⟨rfl, rfl, rfl, fun _ _ => rfl⟩

/-- A LAUNCH puts its task into the graph. -/
theorem State.completes_launch {s : State} {qid : Nat} {q : Queue} {p : Pkt} (hn : startsNext s qid q p 0x01) {b : Tcb} :
    let u := s.markStarted qid p.seq
    let c := p.caps.getD 0 Cap.null
    let t0 := b.task q.vd p.taskId c (some (qid, p.seq)) ((List.range 4).map (fun i => BitVec.ofNat 64 (p.w (2 + i)))) (p.caps.getD 1 Cap.null)
      (p.caps.getD 2 Cap.null)
    u.readTcb q.vd c = .ok b → b.state = 0 → u.tcbFault b t0 = none → u.heatCheck t0 = some false →
      ∃ t w, Completes (.launch qid) s t ∧ t.task p.taskId = some w ∧ (w.st = .waiting ∨ w.st = .ready) ∧ w.entry = b.entry ∧ w.args = t0.args ∧
        w.queue = some (qid, p.seq) ∧ w.c1 = t0.c1 ∧ w.c2 = t0.c2 ∧ ∀ i, i ≠ p.taskId → t.task i = s.task i := by
  intro u c t0 hr hst hf hh
  obtain ⟨v, hv, h⟩ := State.launchTask_enters hr hst hf hh
  obtain ⟨hid, hother⟩ := State.task_of_enters hv h
  have hstep : Completes (.launch qid) s (u.launchTask q.vd p.taskId c qid p.seq ((List.range 4).map (fun i => BitVec.ofNat 64 (p.w (2 + i))))
      (p.caps.getD 1 Cap.null) (p.caps.getD 2 Cap.null)) := by
    show execLaunch qid s = _
    rw [execLaunch, State.startPkt_next hn]
  rcases hid with hid | hid
  · exact ⟨_, _, hstep, hid, .inl rfl, rfl, rfl, rfl, rfl, rfl, fun i hi => (hother i hi).trans (State.markStarted_task hn i)⟩
  · exact ⟨_, _, hstep, hid, .inr rfl, rfl, rfl, rfl, rfl, rfl, fun i hi => (hother i hi).trans (State.markStarted_task hn i)⟩

section
variable {s : State} {qid : Nat} {q : Queue} {p : Pkt} (hn : startsNext s qid q p 0x02)
include hn

theorem State.completes_cancel_none (h : s.cancellable q.vd (p.w 1) = false) :
    Completes (.cancel qid) s ((s.markStarted qid p.seq).outcome qid p.seq resNotfound 0) := by
  have hc : (s.markStarted qid p.seq).cancellable q.vd (p.w 1) = false := by
    rw [State.markStarted_frame hn]
    exact h
  show execCancel qid s = _
  rw [execCancel, State.startPkt_next hn, hc, if_neg Bool.false_ne_true]

theorem State.completes_cancel {w : Task} (hw : s.task (p.w 1) = some w) (hvd : w.vd = q.vd) (hfin : w.st.final = false) :
    Completes (.cancel qid) s (((s.markStarted qid p.seq).cancelTask (p.w 1)).outcome qid p.seq resOk 0) := by
  have hc : (s.markStarted qid p.seq).cancellable q.vd (p.w 1) = true := by
    simp [State.cancellable, State.markStarted_task hn, hw, hvd, hfin]
  show execCancel qid s = _
  rw [execCancel, State.startPkt_next hn, if_pos hc]

end

/-- A CANCEL of a running task: a cancel that comes after the fc of its dispatch reaches its regions at once, and one of that fc stays pending. -/
theorem State.cancelTask_running_spec {u : State} {id : Nat} {w : Task} (hw : u.task id = some w) (hst : w.st = .running ∨ w.st = .runningTrig)
    (hfate : w.fate = 0) (hcancel : w.cancel = false) :
    u.SameQueues (u.cancelTask id) ∧ (∀ i, i ≠ id → (u.cancelTask id).task i = u.task i) ∧
      (w.since < u.now → (∀ m ∈ w.members, ((u.cancelTask id).region m).cancelAt = some u.now) ∧
        ∃ y, (u.cancelTask id).task id = some y ∧ y.cancel = true ∧ y.grace = none ∧ y.members = w.members ∧
          (y.st = .cancelling ↔ w.st = .running)) ∧
      (u.now ≤ w.since → (∃ y, (u.cancelTask id).task id = some y ∧ y.cancel = true ∧ y.st = w.st ∧ y.members = w.members) ∧
        (u.cancelTask id).cancels = u.cancels ++ [packetCancel u id]) := by
  have hpend : w.pendCancel (packetCancel u id) =
      { w with cancel := true, crossed := w.since == u.now, grace := none, runs := min w.runs 1 } := by
    simp [Task.pendCancel, hcancel, packetCancel]
  rw [State.cancelTask_running hw hst]
  by_cases hlate : w.since < u.now
  · rw [State.cancelRuns_late hfate hcancel hlate]
    obtain ⟨hq, hregions, hid, hother⟩ := State.runningCancel_spec u w (packetCancel u id)
    refine ⟨hq, hother, fun _ => ⟨hregions, _, hid, ?_⟩, fun h => absurd hlate (Nat.not_lt.2 h)⟩
    rw [hpend]
    refine ⟨rfl, rfl, rfl, ?_⟩
    rcases hst with hst | hst <;> simp [hst]
  · rw [State.cancelRuns_crossing hfate hcancel (Nat.le_of_not_lt hlate), hpend]
    exact ⟨.of_eq rfl rfl rfl, fun i hi => State.putTask_task_other _ _ hi, fun h => absurd h hlate,
      fun _ => ⟨⟨_, State.putTask_task _ _ _, rfl, rfl, rfl⟩, rfl⟩⟩

section
variable {s : State} {qid : Nat} {q : Queue} {p : Pkt} (hn : startsNext s qid q p 0x03)
include hn

theorem State.completes_notify (hlink : (s.markStarted qid p.seq).unitLink (p.caps.getD 0 Cap.null) (p.caps.getD 0 Cap.null).cursor.toNat = none)
    {v : State} (hw : (s.markStarted qid p.seq).unitWrite q.vd (p.caps.getD 0 Cap.null) (p.caps.getD 0 Cap.null).cursor.toNat
      (leBytes 8 (p.w 2)) = .ok v) : Completes (.notify qid) s (v.outcome qid p.seq resOk 0) := by
  show execNotify qid s = _
  rw [execNotify, State.startPkt_next hn]
  simp only [hlink, hw]

/-- A NOTIFY whose store a link or its port keeps from memory. -/
theorem State.completes_notify_fault {f : Byte} :
    let u := s.markStarted qid p.seq
    let c := p.caps.getD 0 Cap.null
    (u.unitLink c c.cursor.toNat = some f ∨
      u.unitLink c c.cursor.toNat = none ∧ u.unitWrite q.vd c c.cursor.toNat (leBytes 8 (p.w 2)) = .error f) →
      Completes (.notify qid) s (u.outcome qid p.seq resFault f.toNat) := by
  intro u c h
  show execNotify qid s = _
  rw [execNotify, State.startPkt_next hn]
  rcases h with h | ⟨hlink, hw⟩
  · simp only [u, c] at h
    simp only [h, u]
  · simp only [u, c] at hlink hw
    simp only [hlink, hw, u]

end

/-- Settles O51: each packet by what it starts; its outcome entry, where it has one at once, by what its effect leaves of the journal and the queues.
A CANCEL's cascade may end any task, but makes none, so that a task that is gone stays away. -/
theorem queuePackets : Obligations.QueuePackets := by
  intro s qid q p u
  refine ⟨fun hn b => State.completes_launch hn, fun hn => ⟨fun h => ?_, fun w hw hvd => ⟨fun hst hfate hcancel => ?_, ?_, ?_⟩⟩,
    fun hn => ?_, fun hn => ⟨_, ?_, State.handedOver_startCopy hn⟩, fun hn => ⟨_, ?_, State.handedOver_startCopy hn⟩,
    fun hn => ⟨_, ?_, State.handedOver_startCopy hn⟩, fun hq i hi => ?_⟩
  · obtain ⟨htasks, _⟩ := State.markStarted_fields hn
    exact ⟨_, State.completes_cancel_none hn h, State.outcomeIs_outcome hn (.refl _) _ _, (State.journaled_outcome _ _ _ _ _).tasks.trans htasks⟩
  · have hwu : u.task (p.w 1) = some w := (State.markStarted_task hn _).trans hw
    have hfin : w.st.final = false := by rcases hst with hst | hst <;> rw [hst] <;> rfl
    obtain ⟨_, hnow, hcancels, _⟩ := State.markStarted_fields hn
    obtain ⟨hqs, hother, hlate, hcross⟩ := State.cancelTask_running_spec hwu hst hfate hcancel
    have hj := (u.cancelTask (p.w 1)).journaled_outcome qid p.seq resOk 0
    refine ⟨_, State.completes_cancel hn hw hvd hfin, State.outcomeIs_outcome hn hqs _ _, fun i hi => ?_, fun h => ?_, fun h => ?_⟩
    · rw [hj.task, hother i hi]
      exact State.markStarted_task hn i
    · obtain ⟨hregions, y, hy, hfields⟩ := hlate (hnow ▸ h)
      exact ⟨fun m hm => by rw [hj.region, hregions m hm, hnow], y, (hj.task _).trans hy, hfields⟩
    · obtain ⟨⟨y, hy, hfields⟩, hpend⟩ := hcross (hnow ▸ h)
      refine ⟨⟨y, (hj.task _).trans hy, hfields⟩, ?_⟩
      rw [hj.cancels, hpend, hcancels, packetCancel, hnow]
  · intro hst hqueue hcross
    have hwu : u.task (p.w 1) = some w := (State.markStarted_task hn _).trans hw
    have hfin : w.st.final = false := by rcases hst with hst | hst | ⟨hst, _⟩ <;> rw [hst] <;> rfl
    obtain ⟨_, hnow, _, hheld⟩ := State.markStarted_fields hn
    have hgone := State.cancelTask_gone hwu (by rwa [hheld]) hqueue (by rwa [hnow])
    exact ⟨_, State.completes_cancel hn hw hvd hfin, (State.Journaled.task (State.journaled_outcome _ _ _ _ _) _).trans hgone,
      fun y hy => State.not_pending_of_outcome hy⟩
  · intro hst hfate hcross hhold
    have hwu : u.task (p.w 1) = some w := (State.markStarted_task hn _).trans hw
    have hfin : w.st.final = false := by rw [hst]; rfl
    obtain ⟨_, hnow, _, hheld⟩ := State.markStarted_fields hn
    obtain ⟨hqs, hy⟩ := State.cancelTask_held hwu hst hfate (by rwa [hnow]) (by rwa [hheld])
    exact ⟨_, _, State.completes_cancel hn hw hvd hfin, State.outcomeIs_outcome hn hqs _ _,
      (State.Journaled.task (State.journaled_outcome _ _ _ _ _) _).trans hy, hst, rfl⟩
  · intro c a bs
    refine ⟨?_, fun f h => ?_⟩
    rotate_left
    · obtain ⟨htasks, _⟩ := State.markStarted_fields hn
      exact ⟨_, State.completes_notify_fault hn h, State.outcomeIs_outcome hn (.refl _) _ _, (State.journaled_outcome _ _ _ _ _).tasks.trans htasks⟩
    intro k cm v hlink hk hr hwf hbelow hends
    have hw : u.unitWrite q.vd c a bs = .ok v := by
      have hlen : bs.length = 8 := leBytes_length 8 _
      rw [State.unitWrite_single (by rw [hlen]; exact hk) hr, State.written_of_none fun x hx => ?_]
      exact decide_eq_false_iff_not.2 (Nat.not_le.2 (hends x hx)) ▸ Bool.and_false _
    exact ⟨_, State.completes_notify hn hlink hw, State.notify_stores hn hwf hbelow⟩
  · exact State.startPkt_next hn fun s q p => s.startCopy qid q p
  · exact State.startPkt_next hn fun s q p => s.startCopy qid q p
  · exact State.startPkt_next hn fun s q p => s.startCopy qid q p
  · have hlaunch : execLaunch qid s = .next s := State.startPkt_none hq _ _
    have hcancel : execCancel qid s = .next s := State.startPkt_none hq _ _
    have hnotify : execNotify qid s = .next s := State.startPkt_none hq _ _
    have hcopy : execCopy qid s = .next s := State.startPkt_none hq _ _
    have hstrided : execStrided qid s = .next s := State.startPkt_none hq _ _
    have hfill : execFill qid s = .next s := State.startPkt_none hq _ _
    simp only [List.mem_cons, List.not_mem_nil, or_false] at hi
    rcases hi with rfl | rfl | rfl | rfl | rfl | rfl
    · exact hlaunch
    · exact hcancel
    · exact hnotify
    · exact hcopy
    · exact hstrided
    · exact hfill

end Sys2Proof.Machine

/-! # Proofs: control packets (O52) -/

namespace Sys2Proof.Machine

open Sys2Proof Sys2Proof.Claims

/-- A VD.START packet for virtual device 0. -/
def startPacket : Pkt := { seq := 0, bytes := leBytes 8 0x33, caps := [], taskId := 0, started := false }

/-- A control queue that holds it. -/
def startQueue : Queue := { controlQueue with pend := [startPacket] }

/-- A task queue of virtual device 0, stopped with it. -/
def stoppedQueue : Queue := { controlQueue with kind := 1, state := .stopped }

/-- A virtual device that is stopped. -/
def stoppedVd : Vd :=
  { stopped := true, groups := 1, ptRoot := 0, slotSel := 0, hwBase := 0, hwLen := 0, assigned := 0, ready := List.replicate 8 [],
    aging := List.replicate 8 0, hold := none, pre := [] }

/-- A module whose map of queues has two records under key 0: the control queue's, and one of the stopped device. -/
def twoQueuesZero : State :=
  { State.reset with
    mgc := { State.reset.mgc with boot := .ready }, vds := [(0, stoppedVd)], queues := [(0, startQueue), (0, stoppedQueue)] }

theorem startsNext_startPacket : startsNext twoQueuesZero 0 startQueue startPacket 0x33 :=
  ⟨rfl, rfl, rfl, rfl, by simp [startQueue]⟩

/-- The state after the packet: the device's second record has taken the control queue's place, so that its outcome finds no packet. -/
def twoQueuesStarted : State :=
  let r := (twoQueuesZero.markStarted 0 0).vdStart startPacket
  r.1.outcome 0 0 r.2 0

theorem exec_twoQueuesZero : exec .vdStartPacket twoQueuesZero = .next twoQueuesStarted := rfl

theorem wr_twoQueuesStarted : twoQueuesStarted.jnl.wr = 0 := by decide +kernel

/-- Refutes O52: the statement is for every state, and its clause for VD.START has one outcome entry for the packet. A restart puts the record of each
queue of the device in its place, under its key (R54). Where the map of queues has a second record under key 0, which `AMap.find` does not see, that
record takes the control queue's place, and the packet has no outcome. Every map that the model builds has one record for each key, so that what is
wrong is the clause, which lacks that hypothesis, and not the restart. -/
theorem not_controlPackets : ¬ Obligations.ControlPackets := by
  intro h
  obtain ⟨_, _, _, _, _, _, _, _, _, hstart, _⟩ := h twoQueuesZero startQueue startPacket
  obtain ⟨t, _, hstep, hout, _⟩ := hstart startsNext_startPacket stoppedVd rfl rfl rfl
  obtain ⟨⟨hwr, _⟩, _⟩ := hout
  obtain rfl : twoQueuesStarted = t := Host.Outcome.next.inj (exec_twoQueuesZero.symm.trans hstep)
  exact absurd (wr_twoQueuesStarted.symm.trans hwr) (by decide)

end Sys2Proof.Machine

/-! # Proofs: what the end of tasks leaves of Pacers and heats -/

namespace Sys2Proof.Machine

open Sys2Proof Sys2Proof.Claims

/-! ### The Pacers' registers -/

/-- It is the same region's turn, and no register of any Pacer differs. -/
structure State.SamePacers (s t : State) : Prop where
  cur : t.cur = s.cur
  pacer : ∀ r, (t.region r).pacer = (s.region r).pacer

theorem State.SamePacers.refl (s : State) : s.SamePacers s := ⟨rfl, fun _ => rfl⟩

theorem State.SamePacers.trans {s t u : State} (h1 : s.SamePacers t) (h2 : t.SamePacers u) : s.SamePacers u :=
  ⟨h2.cur.trans h1.cur, fun r => (h2.pacer r).trans (h1.pacer r)⟩

theorem State.SamePacers.of_regions {s t : State} (hc : t.cur = s.cur) (hr : t.regions = s.regions) : s.SamePacers t :=
  ⟨hc, fun r => by rw [State.region, hr, State.region]⟩

theorem State.Wrote.samePacers {s t : State} (h : s.Wrote t) : s.SamePacers t := ⟨h.cur, h.pacer⟩

theorem State.SamePacers.reg_pacer {s t : State} (h : s.SamePacers t) : t.reg.pacer = s.reg.pacer := by
  rw [State.reg, h.cur, h.pacer, State.reg]

theorem State.samePacers_onRegion (s : State) (r : Nat) {f : Region → Region} (hf : ∀ g, (f g).pacer = g.pacer) : s.SamePacers (s.onRegion r f) := by
  refine ⟨rfl, fun q => ?_⟩
  by_cases h : q = r
  · rw [h, State.onRegion_same, hf]
  · rw [State.onRegion_other _ _ h]

/-- An instruction that writes X(d) from a state with the Pacers of s. -/
theorem State.SamePacers.gave_ret {s t : State} (h : s.SamePacers t) (d : XReg) (v : Word) : gave s (t.wx d v).advance d v := by
  have hp := h.reg_pacer
  refine ⟨fun r => ?_, ?_⟩
  · simpa [State.rx, Pacer.rx, hp] using Pacer.rx_wx s.reg.pacer d r v
  · simp [hp, State.pc, State.nextPC]

/-- An instruction that only moves on, with what it leaves to its unit. -/
theorem State.SamePacers.pcOnly {s t : State} (h : s.advance.SamePacers t) : Claims.pcOnly s t := h.reg_pacer.trans s.movedOn_advance.2

/-! ### The heats (R78 to R82, R89) -/

/-- A heat that only the end of tasks has changed: whether HEAT.CLOSE has come, what its siblings have posted and, once it has left OPEN, its decision
are the same. -/
structure Heat.Kept (x y : Heat) : Prop where
  closing : y.closing = x.closing
  hash : ∀ i, (y.sib i).hash = (x.sib i).hash
  decision : x.st ≠ .open_ → y.st = x.st ∧ y.win = x.win ∧ y.decider = x.decider

theorem Heat.Kept.refl (x : Heat) : x.Kept x := ⟨rfl, fun _ => rfl, fun _ => ⟨rfl, rfl, rfl⟩⟩

theorem Heat.Kept.trans {x y z : Heat} (h1 : x.Kept y) (h2 : y.Kept z) : x.Kept z := by
  refine ⟨h2.closing.trans h1.closing, fun i => (h2.hash i).trans (h1.hash i), fun hx => ?_⟩
  obtain ⟨hst, hwin, hd⟩ := h1.decision hx
  obtain ⟨hst', hwin', hd'⟩ := h2.decision (hst ▸ hx)
  exact ⟨hst'.trans hst, hwin'.trans hwin, hd'.trans hd⟩

theorem Heat.sib_setSib_same (x : Heat) {i : Nat} (h : i < x.sibs.length) (b : Sibling) : (x.setSib i b).sib i = b := by
  simp [Heat.setSib, Heat.sib, List.getD, h]

theorem Heat.sib_setSib_other (x : Heat) {i j : Nat} (h : j ≠ i) (b : Sibling) : (x.setSib i b).sib j = x.sib j := by
  simp [Heat.setSib, Heat.sib, List.getD, List.getElem?_set_ne h.symm]

theorem Heat.setSib_beyond (x : Heat) {i : Nat} (h : x.sibs.length ≤ i) (b : Sibling) : x.setSib i b = x := by
  rw [Heat.setSib, List.set_eq_of_length_le h]

theorem Heat.kept_setSib (x : Heat) (i : Nat) {b : Sibling} (hb : b.hash = (x.sib i).hash) : x.Kept (x.setSib i b) := by
  refine ⟨rfl, fun j => ?_, fun _ => ⟨rfl, rfl, rfl⟩⟩
  by_cases hj : j = i
  · subst hj
    rcases Nat.lt_or_ge j x.sibs.length with hlt | hge
    · rw [Heat.sib_setSib_same x hlt, hb]
    · rw [Heat.setSib_beyond x hge]
  · rw [Heat.sib_setSib_other x hj]

/-- No Pacer's register differs, and the heats are there as they were, but for what the end of tasks shows in them. -/
structure State.KeepsHeats (s t : State) : Prop extends s.SamePacers t where
  heat : ∀ h x, s.heat h = some x → ∃ y, t.heat h = some y ∧ x.Kept y

theorem State.KeepsHeats.refl (s : State) : s.KeepsHeats s := ⟨.refl s, fun _ x h => ⟨x, h, .refl x⟩⟩

theorem State.KeepsHeats.trans {s t u : State} (h1 : s.KeepsHeats t) (h2 : t.KeepsHeats u) : s.KeepsHeats u := by
  refine ⟨h1.toSamePacers.trans h2.toSamePacers, fun h x hx => ?_⟩
  obtain ⟨y, hy, hxy⟩ := h1.heat h x hx
  obtain ⟨z, hz, hyz⟩ := h2.heat h y hy
  exact ⟨z, hz, hxy.trans hyz⟩

theorem State.SamePacers.keepsHeats {s t : State} (h : s.SamePacers t) (hh : t.heats = s.heats) : s.KeepsHeats t :=
  ⟨h, fun j x hx => ⟨x, by rwa [State.heat, hh], .refl x⟩⟩

theorem State.Wrote.keepsHeats {s t : State} (h : s.Wrote t) : s.KeepsHeats t := h.samePacers.keepsHeats h.heats

theorem State.Journaled.keepsHeats {s t : State} (h : s.Journaled t) : s.KeepsHeats t := by
  have hc : t.cur = s.cur := by have e := congrArg State.cur h; exact e
  have hh : t.heats = s.heats := by have e := congrArg State.heats h; exact e
  exact (State.SamePacers.of_regions hc h.regions).keepsHeats hh

/-- A change of neither the turn nor the regions nor the heats. -/
theorem State.KeepsHeats.of_fields {s t : State} (hc : t.cur = s.cur) (hr : t.regions = s.regions) (hh : t.heats = s.heats) : s.KeepsHeats t :=
  (State.SamePacers.of_regions hc hr).keepsHeats hh

theorem State.keepsHeats_foldl {α : Type} {f : State → α → State} (hf : ∀ (s : State) (a : α), s.KeepsHeats (f s a)) (l : List α) (s : State) :
    s.KeepsHeats (l.foldl f s) :=
  List.foldlRecOn l f (motive := fun t => s.KeepsHeats t) (.refl s) fun t ht a _ => ht.trans (hf t a)

theorem State.keepsHeats_onRegion (s : State) (r : Nat) {f : Region → Region} (hf : ∀ g, (f g).pacer = g.pacer) : s.KeepsHeats (s.onRegion r f) :=
  (s.samePacers_onRegion r hf).keepsHeats rfl

/-- The record of a heat that is there gives way to one of the same posts and decision. -/
theorem State.keepsHeats_putHeat {s : State} {h : Nat} {x y : Heat} (hx : s.heat h = some x) (hxy : x.Kept y) : s.KeepsHeats (s.putHeat h y) := by
  refine ⟨.of_regions rfl rfl, fun j z hz => ?_⟩
  by_cases hj : j = h
  · subst hj
    obtain rfl : x = z := Option.some.inj (hx.symm.trans hz)
    exact ⟨y, AMap.find_put_same _ _ _, hxy⟩
  · exact ⟨z, (AMap.find_put_other _ _ hj).trans hz, .refl z⟩

theorem State.keepsHeats_onSib (s : State) (h i : Nat) {f : Sibling → Sibling} (hf : ∀ b, (f b).hash = b.hash) : s.KeepsHeats (s.onSib h i f) := by
  unfold State.onSib
  split
  · exact .refl s
  · next x hx => exact State.keepsHeats_putHeat hx (x.kept_setSib i (hf _))

@[simp] theorem State.putHeat_heat (s : State) (h : Nat) (x : Heat) : (s.putHeat h x).heat h = some x := AMap.find_put_same _ _ _

/-- A decision is in the heat's record, and is written to its memory (R81). -/
theorem State.decideHeat_heat {s : State} {h : Nat} {x : Heat} (hx : s.heat h = some x) (st : HeatState) (win : Word) (d : Nat) :
    s.SamePacers (s.decideHeat h st win d) ∧ (s.decideHeat h st win d).heat h = some { x with st := st, win := win, decider := d } := by
  simp only [State.decideHeat, hx]
  have hw := (s.putHeat h { x with st := st, win := win, decider := d }).wrote_writeDecision { x with st := st, win := win, decider := d }
  have hput : s.SamePacers (s.putHeat h { x with st := st, win := win, decider := d }) := .of_regions rfl rfl
  refine ⟨hput.trans hw.samePacers, ?_⟩
  rw [State.heat, hw.heats]
  exact State.putHeat_heat _ _ _

theorem State.keepsHeats_decideHeat {s : State} {h : Nat} {x : Heat} (hx : s.heat h = some x) (hopen : x.st = .open_) (st : HeatState) (win : Word)
    (d : Nat) : s.KeepsHeats (s.decideHeat h st win d) := by
  have hkept : x.Kept { x with st := st, win := win, decider := d } := ⟨rfl, fun _ => rfl, fun hne => absurd hopen hne⟩
  simp only [State.decideHeat, hx]
  exact (State.keepsHeats_putHeat hx hkept).trans (State.wrote_writeDecision _ _).keepsHeats

theorem State.keepsHeats_settleHeat (s : State) (h : Nat) : s.KeepsHeats (s.settleHeat h) := by
  unfold State.settleHeat
  split
  · exact .refl s
  · next x hx =>
    split
    · next hset =>
      have hopen : x.st = .open_ := eq_of_beq (Bool.and_eq_true_iff.1 hset).1
      split
      · exact State.keepsHeats_decideHeat hx hopen _ _ _
      · exact State.keepsHeats_decideHeat hx hopen _ _ _
    · exact .refl s

theorem State.keepsHeats_sibFinal (s : State) (h i fate tiles : Nat) : s.KeepsHeats (s.sibFinal h i fate tiles) :=
  (s.keepsHeats_onSib h i (by intro b; rfl)).trans (State.keepsHeats_settleHeat _ _)

/-! ### Records of tasks and of virtual devices (R64, R68) -/

theorem State.keepsHeats_putTask (s : State) (id : Nat) (t : Task) : s.KeepsHeats (s.putTask id t) := .of_fields rfl rfl rfl

theorem State.keepsHeats_onTask (s : State) (id : Nat) (f : Task → Task) : s.KeepsHeats (s.onTask id f) := by
  unfold State.onTask
  split
  · exact .refl s
  · exact s.keepsHeats_putTask _ _

theorem State.keepsHeats_onVd (s : State) (v : Nat) (f : Vd → Vd) : s.KeepsHeats (s.onVd v f) := by
  obtain ⟨x, h⟩ := s.onVd_frame v f
  rw [h]
  exact .of_fields rfl rfl rfl

theorem State.keepsHeats_taskState (s : State) (id : Nat) (st : TaskState) : s.KeepsHeats (s.taskState id st) := by
  unfold State.taskState
  split
  · exact .refl s
  · exact (s.wrote_writeState _ _).keepsHeats.trans (State.keepsHeats_putTask _ _ _)

theorem State.keepsHeats_makeReady (s : State) (id : Nat) : s.KeepsHeats (s.makeReady id) := by
  have h := (s.keepsHeats_taskState id .ready).trans (State.keepsHeats_onTask _ id (fun t => { t with since := s.now }))
  unfold State.makeReady
  dsimp only
  split
  · exact h
  · exact h.trans (State.keepsHeats_onVd _ _ _)

/-! ### The end of a task (R66, R69, R74, R87) -/

theorem State.keepsHeats_decSucc (s : State) (t : Task) (a : Nat) : s.KeepsHeats (s.decSucc t a) := by
  unfold State.decSucc
  split
  · exact (s.wrote_unitFail _ _ _).keepsHeats
  · next old s1 h =>
    have hw := (State.wrote_unitAtomic h).keepsHeats
    split
    · split
      · exact hw
      · split
        · exact hw.trans (s1.keepsHeats_makeReady _)
        · exact hw
    · exact hw

theorem State.keepsHeats_successors (s : State) (t : Task) (policy : Nat) : s.KeepsHeats (s.successors t policy).1 := by
  have hr := (s.wrote_readSuccs t).keepsHeats
  unfold State.successors
  split
  · split
    · next h => rw [h] at hr; exact hr
    · next s1 l h =>
      rw [h] at hr
      exact hr.trans (State.keepsHeats_foldl (fun u a => u.keepsHeats_decSucc t a) l s1)
  · exact (s.wrote_cascadeKids t).keepsHeats
  · exact .refl s

theorem State.keepsHeats_releaseSib (s : State) (h i : Nat) : s.KeepsHeats (s.releaseSib h i) := by
  unfold State.releaseSib
  split
  · exact .refl s
  · split
    · exact .refl s
    · next x _ _ c _ => exact (s.wrote_releaseWalk x.vd c).keepsHeats.trans (State.keepsHeats_onSib _ _ _ (by intro b; rfl))

theorem State.keepsHeats_freeRegions (s : State) (rs : List Nat) : s.KeepsHeats (s.freeRegions rs) :=
  State.keepsHeats_foldl (fun t r => t.keepsHeats_onRegion r (f := Region.freed) (fun _ => rfl)) rs s

theorem State.keepsHeats_taskOutcome (s : State) (id : Nat) (t : Task) (res cause : Nat) : s.KeepsHeats (s.taskOutcome id t res cause) := by
  unfold State.taskOutcome
  split
  · exact .refl s
  · split
    · have hdraw : s.KeepsHeats s.drawWord.2 := .of_fields rfl rfl rfl
      exact hdraw.trans (State.journaled_raw s.drawWord.2 _ _ _ _ _ _ _ _ _ _).keepsHeats
    · exact (s.journaled_outcome _ _ _ _).keepsHeats

theorem State.keepsHeats_delTask (s : State) (id : Nat) : s.KeepsHeats { s with tasks := AMap.del s.tasks id } := .of_fields rfl rfl rfl

theorem State.keepsHeats_nextRun (s : State) (id : Nat) (t : Task) : s.KeepsHeats (s.nextRun id t) := by
  unfold State.nextRun
  dsimp only
  split
  · exact (s.keepsHeats_putTask _ _).trans (State.keepsHeats_makeReady _ _)
  · split
    · exact (s.wrote_writeState _ _).keepsHeats.trans (State.keepsHeats_delTask _ _)
    · exact (s.keepsHeats_putTask _ _).trans (State.keepsHeats_taskState _ _ _)

theorem State.keepsHeats_endRelease (s : State) (id : Nat) (t : Task) (fate : Nat) : s.KeepsHeats (s.endRelease id t fate) := by
  have hfirst := (s.keepsHeats_freeRegions t.members).trans (State.keepsHeats_onVd _ t.vd (·.forget id))
  unfold State.endRelease
  dsimp only
  split
  · split
    · exact hfirst.trans (State.keepsHeats_releaseSib _ _ _)
    · exact hfirst
  · exact hfirst

theorem State.keepsHeats_endRecord (s : State) (id : Nat) (t : Task) (e : Ending) : s.KeepsHeats (s.endRecord id t e).1 := by
  have hs := s.keepsHeats_successors t (t.policy e)
  unfold State.endRecord
  generalize s.successors t (t.policy e) = r at hs ⊢
  obtain ⟨s4, bad, js⟩ := r
  dsimp only at hs ⊢
  generalize (if bad then (resFault, 0x93) else (e.res, e.cause)) = rc
  have h5 : s.KeepsHeats (if bad then s4.onOutc t (outcWith false rc.1 rc.2) else s4) := by
    split
    · exact hs.trans (s4.wrote_onOutc _ _).keepsHeats
    · exact hs
  generalize (if bad then s4.onOutc t (outcWith false rc.1 rc.2) else s4) = s5 at h5 ⊢
  refine h5.trans ?_
  split
  · exact State.keepsHeats_nextRun _ _ _
  · exact (State.keepsHeats_taskOutcome _ _ _ _ _).trans (State.keepsHeats_delTask _ _)

theorem State.keepsHeats_endTask (s : State) (id : Nat) (e : Ending) : s.KeepsHeats (s.endTask id e).1 := by
  cases ht : s.task id with
  | none => simp only [State.endTask, ht]; exact .refl s
  | some t =>
    have h := ((s.keepsHeats_endRelease id t e.fate).trans (State.wrote_endWrites _ t e).keepsHeats).trans (State.keepsHeats_endRecord _ id t e)
    rw [State.endTask_eq ht]
    dsimp only
    split
    · exact h.trans (State.keepsHeats_sibFinal _ _ _ _ _)
    · exact h

/-! ### Cancels (R71, R72, R81, R89) -/

theorem State.keepsHeats_noteCancel (s : State) (id : Nat) (t : Task) : s.KeepsHeats (s.noteCancel id t) := by
  unfold State.noteCancel
  split
  · exact s.keepsHeats_onSib _ _ (by intro b; rfl)
  · exact .refl s

theorem State.keepsHeats_enterCancelling (s : State) (id : Nat) : s.KeepsHeats (s.enterCancelling id) := by
  unfold State.enterCancelling
  split
  · exact .refl s
  · split
    · exact s.keepsHeats_taskState _ _
    · exact .refl s

theorem State.keepsHeats_runningCancel (s : State) (t : Task) (c : Cancel) : s.KeepsHeats (s.runningCancel t c) :=
  ((s.keepsHeats_putTask _ _).trans (State.keepsHeats_enterCancelling _ _)).trans
    (State.keepsHeats_foldl (fun u r => u.keepsHeats_onRegion r (f := fun g => { g with cancelAt := some s.now }) fun _ => rfl) t.members _)

theorem State.keepsHeats_cancelEnds (s : State) (c : Cancel) (t : Task) (fate : Nat) : s.KeepsHeats (s.cancelEnds c t fate).1 := by
  have hnoted : (s.noteCancel c.task t).KeepsHeats { s.noteCancel c.task t with cancelledAt := some s.now } := .of_fields rfl rfl rfl
  exact (((s.keepsHeats_noteCancel c.task t).trans hnoted).trans (State.keepsHeats_putTask _ _ _)).trans (State.keepsHeats_endTask _ _ _)

theorem State.keepsHeats_endLater (s : State) (id : Nat) (t : Task) : s.KeepsHeats (s.endLater id t) := by
  have hfirst : s.KeepsHeats { s with cancelledAt := some s.now } := .of_fields rfl rfl rfl
  exact (hfirst.trans (State.keepsHeats_onVd _ _ _)).trans (State.keepsHeats_putTask _ _ _)

theorem State.keepsHeats_cancelRuns (s : State) (c : Cancel) (t : Task) : s.KeepsHeats (s.cancelRuns c t) := by
  unfold State.cancelRuns
  split
  · exact .refl s
  · split
    · split
      · exact .refl s
      · have hpend : s.KeepsHeats { s with cancels := s.cancels ++ [{ c with casc := false }] } := .of_fields rfl rfl rfl
        exact hpend.trans (State.keepsHeats_putTask _ _ _)
    · exact (s.keepsHeats_noteCancel c.task t).trans (State.keepsHeats_runningCancel _ _ _)

theorem State.keepsHeats_cancelOne (s : State) (c : Cancel) : s.KeepsHeats (s.cancelOne c).1 := by
  cases ht : s.task c.task with
  | none => simp only [State.cancelOne, ht]; exact .refl s
  | some t =>
    rw [State.cancelOne_eq ht]
    split
    · exact s.keepsHeats_cancelEnds c t 3
    · exact s.keepsHeats_cancelEnds c t 3
    · split
      · exact .refl s
      · split
        · exact (s.keepsHeats_noteCancel c.task t).trans (State.keepsHeats_endLater _ _ _)
        · exact s.keepsHeats_cancelEnds c t 7
    · exact s.keepsHeats_cancelRuns c t
    · exact s.keepsHeats_cancelRuns c t
    · exact .refl s

theorem State.keepsHeats_cascadeWalk (s : State) (c : Cancel) (t : Task) : s.KeepsHeats (s.cascadeWalk c t).1 := by
  have hk := (s.wrote_cascadeKids t).keepsHeats
  unfold State.cascadeWalk
  dsimp only
  split
  · exact hk
  · exact hk.trans (State.keepsHeats_onTask _ _ _)

theorem State.keepsHeats_cancelAll (fuel : Nat) : ∀ (s : State) (seen : List Nat) (cs : List Cancel), s.KeepsHeats (s.cancelAll fuel seen cs) := by
  induction fuel with
  | zero => exact fun s _ _ => .refl s
  | succ fuel ih =>
    intro s seen cs
    cases cs with
    | nil => exact .refl s
    | cons c rest =>
      cases ht : s.task c.task with
      | none => simp only [State.cancelAll, ht]; exact ih s seen rest
      | some t =>
        rw [State.cancelAll_cons ht]
        dsimp only
        refine (State.KeepsHeats.trans ?_ (State.keepsHeats_cancelOne _ c)).trans (ih _ _ _)
        split
        · exact s.keepsHeats_cascadeWalk c t
        · exact .refl s

theorem State.keepsHeats_cancelSlots (s : State) (h : Nat) (is : List Nat) : s.KeepsHeats (s.cancelSlots h is) :=
  State.keepsHeats_foldl (fun t i => t.keepsHeats_onSib h i (fun b => by split <;> rfl)) is s

theorem State.keepsHeats_cancelSiblings (s : State) (h : Nat) (is : List Nat) : s.KeepsHeats (s.cancelSiblings h is) := by
  unfold State.cancelSiblings
  split
  · exact .refl s
  · exact (s.keepsHeats_cancelSlots h is).trans (State.keepsHeats_cancelAll _ _ _ _)

end Sys2Proof.Machine

/-! # Proofs: heats and ballots (O41) -/

namespace Sys2Proof.Machine

open Sys2Proof Sys2Proof.Claims

/-! ### HEAT.OPEN (R78) -/

theorem AMap.find_eq_none_iff {α : Type} {m : AMap α} {k : Nat} : AMap.find m k = none ↔ k ∉ m.map (·.1) := by
  induction m with
  | nil => simp [AMap.find]
  | cons p m ih =>
    obtain ⟨j, v⟩ := p
    simp only [AMap.find, List.map_cons, List.mem_cons, not_or]
    split
    · next h => simp [h]
    · next h => simp [h, ih]

theorem State.heat_eq_none_iff (s : State) (h : Nat) : s.heat h = none ↔ (!(s.heats.map (·.1)).contains h) = true := by
  rw [State.heat, AMap.find_eq_none_iff]
  simp

theorem State.leastFree_heat {s : State} {h : Nat} (hfree : s.heat h = none) (hlt : h < 256) (hleast : ∀ j < h, s.heat j ≠ none) :
    leastFree (s.heats.map (·.1)) 256 = some h := by
  rw [leastFree, List.find?_range_eq_some]
  refine ⟨(s.heat_eq_none_iff h).1 hfree, List.mem_range.2 hlt, fun j hj => ?_⟩
  have hused := mt (s.heat_eq_none_iff j).2 (hleast j hj)
  simpa using hused

theorem State.leastFree_none {s : State} (h : ∀ j < 256, s.heat j ≠ none) : leastFree (s.heats.map (·.1)) 256 = none := by
  rw [leastFree, List.find?_range_eq_none]
  intro j hj
  have hused := mt (s.heat_eq_none_iff j).2 (h j hj)
  simpa using hused

section
variable {s : State} {d b : XReg} {ca : CReg}

theorem State.heatOpen_opens (hok : heatOperandsOk (s.rx b).toNat (s.rc ca) = true) {h : Nat} (hfree : s.heat h = none) (hlt : h < 256)
    (hleast : ∀ j < h, s.heat j ≠ none) :
    exec (.heatOpen d ca b) s = (s.putHeat h (mkHeat s.heatVd (s.rx b).toNat (s.rc ca))).ret d (BitVec.ofNat 64 h) := by
  simp [exec, execHeatOpen, hok, State.leastFree_heat hfree hlt hleast]

theorem State.heatOpen_full (hok : heatOperandsOk (s.rx b).toNat (s.rc ca) = true) (hfull : ∀ j < 256, s.heat j ≠ none) :
    exec (.heatOpen d ca b) s = s.ret d (BitVec.allOnes 64) := by
  simp [exec, execHeatOpen, hok, State.leastFree_none hfull]

theorem State.heatOpen_refused (hbad : heatOperandsOk (s.rx b).toNat (s.rc ca) = false) :
    exec (.heatOpen d ca b) s = s.drawWord.2.fail 0x94 s.drawWord.1 := by
  simp [exec, execHeatOpen, hbad]

end

/-! ### HEAT.CLOSE (R89) -/

theorem State.exec_heatClose {s : State} {a : XReg} {x : Heat} (hx : s.heatFor (s.rx a) = some x) :
    exec (.heatClose a) s = .next (s.advance.closeHeat (s.rx a).toNat x) := by
  simp only [exec, execHeatClose, hx]

theorem State.exec_heatClose_none {s : State} {a : XReg} (h : s.heatFor (s.rx a) = none) : exec (.heatClose a) s = s.fail 0x94 (s.rx a) := by
  simp only [exec, execHeatClose, h]

/-- A close of a heat whose accounting record is written frees its id. -/
theorem State.closeHeat_done (s : State) (h : Nat) {x : Heat} (hd : x.done = true) : s.closeHeat h x = { s with heats := AMap.del s.heats h } :=
  if_pos hd

/-- Any other close stands in the heat's record; of an open heat it is an abandonment, which cancels its siblings. -/
theorem State.closeHeat_live (s : State) (h : Nat) {x : Heat} (hd : x.done = false) :
    s.SamePacers (s.closeHeat h x) ∧
      ∃ y, (s.closeHeat h x).heat h = some y ∧ y.closing = true ∧ y.st = if x.st = .open_ then .abandoned else x.st := by
  have hclosing := s.putHeat_heat h { x with closing := true }
  have hput : s.SamePacers (s.putHeat h { x with closing := true }) := .of_regions rfl rfl
  by_cases hopen : x.st = .open_
  · have he : s.closeHeat h x = ((s.putHeat h { x with closing := true }).decideHeat h .abandoned 0 0xFF).cancelSiblings h (x.losers none) := by
      simp [State.closeHeat, hd, hopen]
    obtain ⟨hdecided, hy⟩ := State.decideHeat_heat hclosing .abandoned 0 0xFF
    have hkeeps := State.keepsHeats_cancelSiblings ((s.putHeat h { x with closing := true }).decideHeat h .abandoned 0 0xFF) h (x.losers none)
    obtain ⟨z, hz, hkept⟩ := hkeeps.heat h _ hy
    obtain ⟨hst, _⟩ := hkept.decision (by simp)
    rw [he, if_pos hopen]
    exact ⟨(hput.trans hdecided).trans hkeeps.toSamePacers, z, hz, hkept.closing, hst⟩
  · have he : s.closeHeat h x = s.putHeat h { x with closing := true } := by
      simp [State.closeHeat, hd, hopen]
    rw [he, if_neg hopen]
    exact ⟨hput, _, hclosing, rfl, rfl⟩

/-! ### A post at the Podium (R80 to R82) -/

/-- The status that a post of a hash has: decided before, no room in the table, the quorum, or none of these (R287). -/
def Heat.postStatus (x : Heat) (hash : Word) : Nat :=
  let e := x.table.find? (fun e => e.1 == hash)
  if x.st ≠ .open_ then 2 else if e = none ∧ 16 ≤ x.table.length then 3 else if ((e.map (·.2.1)).getD 0) + 1 = x.q then 1 else 0

/-- The heat in whose entry of sibling i a post of a hash stands, with its slot of the table, and late where it came after the decision (R80). -/
def Heat.noted (x : Heat) (i : Nat) (hash : Word) (slot : Nat) (late : Bool) : Heat :=
  x.setSib i { x.sib i with hash := some hash, slot := slot, late := late, settled := true }

theorem Heat.noted_hash {x : Heat} {i : Nat} (hi : i < x.sibs.length) (hash : Word) (slot : Nat) (late : Bool) :
    ((x.noted i hash slot late).sib i).hash = some hash := by
  rw [Heat.noted, Heat.sib_setSib_same x hi]

/-- What a post of a hash by sibling i leaves of heat h, and of the Pacers: the status is in r. -/
structure State.Posted (s : State) (h i : Nat) (x : Heat) (hash : Word) (r : State × Nat) : Prop where
  pacers : s.SamePacers r.1
  heat : ∃ y, r.1.heat h = some y ∧ (y.sib i).hash = some hash ∧ (r.2 = 1 → y.st = .decided ∧ y.win = hash ∧ y.decider = i) ∧
    (r.2 = 2 → y.st = x.st)

/-- A state whose heat h holds the post and is then kept; the status says nothing of a decision. -/
theorem State.Posted.of_keeps {s t : State} {h i n : Nat} {x z : Heat} {hash : Word} (hz : (z.sib i).hash = some hash)
    (hk : (s.putHeat h z).KeepsHeats t) (hn1 : n ≠ 1) (hn2 : n ≠ 2) : s.Posted h i x hash (t, n) := by
  obtain ⟨y, hy, hkept⟩ := hk.heat h z (State.putHeat_heat _ _ _)
  have hput : s.SamePacers (s.putHeat h z) := .of_regions rfl rfl
  exact ⟨hput.trans hk.toSamePacers, y, hy, (hkept.hash i).trans hz, fun he => absurd he hn1, fun he => absurd he hn2⟩

/-- A post that the table counts: the n-th of its hash. -/
theorem State.count_posted {s : State} {h i slot n : Nat} {x y : Heat} {hash : Word} {note : Heat → Nat → Bool → Heat}
    (hz : ((note y slot false).sib i).hash = some hash) :
    s.Posted h i x hash (State.applyPost.count s h i hash y slot n note) ∧
      (State.applyPost.count s h i hash y slot n note).2 = if n = y.q then 1 else 0 := by
  unfold State.applyPost.count
  generalize note y slot false = z at hz
  simp only [beq_iff_eq]
  by_cases hn : n = y.q
  · rw [if_pos hn, if_pos hn]
    obtain ⟨hp, hy⟩ := State.decideHeat_heat (s.putHeat_heat h z) .decided hash i
    have hk := State.keepsHeats_cancelSiblings ((s.putHeat h z).decideHeat h .decided hash i) h (z.losers (some hash))
    obtain ⟨w, hw, hkept⟩ := hk.heat h _ hy
    have hput : s.SamePacers (s.putHeat h z) := .of_regions rfl rfl
    exact ⟨⟨(hput.trans hp).trans hk.toSamePacers, w, hw, (hkept.hash i).trans hz, fun _ => hkept.decision (by simp), fun he => by cases he⟩,
      rfl⟩
  · rw [if_neg hn, if_neg hn]
    exact ⟨.of_keeps hz (State.keepsHeats_settleHeat _ h) (by decide) (by decide), rfl⟩

section
variable (s : State) (h i : Nat) {x : Heat} (hash : Word)

/-- A heat after a sibling has posted in the current fc (R80). -/
def State.inFc (s : State) (i : Nat) (x : Heat) : Heat := { x with postAt := some (s.now, i) }

theorem State.applyPost_late (hst : x.st ≠ .open_) : s.applyPost h i x hash =
    (s.putHeat h ((s.inFc i x).noted i hash ((x.table.findIdx? (fun e => e.1 == hash)).getD 0x10) true), 2) := by
  simp [State.applyPost, State.inFc, Heat.noted, hst]

theorem State.applyPost_full (hst : x.st = .open_) (hidx : x.table.findIdx? (fun e => e.1 == hash) = none) (hfull : 16 ≤ x.table.length) :
    s.applyPost h i x hash = ((s.putHeat h ((s.inFc i x).noted i hash 0x10 false)).settleHeat h, 3) := by
  simp [State.applyPost, State.inFc, Heat.noted, hst, hidx, hfull]

theorem State.applyPost_first (hst : x.st = .open_) (hidx : x.table.findIdx? (fun e => e.1 == hash) = none) (hroom : ¬16 ≤ x.table.length) :
    s.applyPost h i x hash = State.applyPost.count s h i hash { s.inFc i x with table := x.table ++ [(hash, 1, i)] } x.table.length 1
      (fun z slot late => z.noted i hash slot late) := by
  simp [State.applyPost, State.inFc, Heat.noted, hst, hidx, hroom]

theorem State.applyPost_again {j : Nat} (hst : x.st = .open_) (hidx : x.table.findIdx? (fun e => e.1 == hash) = some j) :
    let e := x.table.getD j (hash, 0, i)
    s.applyPost h i x hash = State.applyPost.count s h i hash { s.inFc i x with table := x.table.set j (hash, e.2.1 + 1, min e.2.2 i) } j (e.2.1 + 1)
      (fun z slot late => z.noted i hash slot late) := by
  simp [State.applyPost, State.inFc, Heat.noted, hst, hidx]

end

/-- The entry that a hash has in the table, by its index. -/
theorem find?_eq_getElem?_of_findIdx? {α : Type} {p : α → Bool} {l : List α} {j : Nat} (h : l.findIdx? p = some j) : l.find? p = l[j]? := by
  obtain ⟨hlt, hp, hbefore⟩ := List.findIdx?_eq_some_iff_getElem.1 h
  rw [List.getElem?_eq_getElem hlt, List.find?_eq_some_iff_getElem]
  exact ⟨hp, j, hlt, rfl, fun k hk => by simpa using hbefore k hk⟩

/-- A post by a sibling of heat h: what it leaves, and its status. -/
theorem State.applyPost_posted (s : State) (h : Nat) {i : Nat} {x : Heat} (hi : i < x.sibs.length) (hash : Word) :
    s.Posted h i x hash (s.applyPost h i x hash) ∧ (s.applyPost h i x hash).2 = x.postStatus hash := by
  have hnoted : ∀ (y : Heat) slot late, y.sibs = x.sibs → ((y.noted i hash slot late).sib i).hash = some hash :=
    fun y slot late hy => Heat.noted_hash (hy ▸ hi) hash slot late
  unfold Heat.postStatus
  by_cases hopen : x.st = .open_
  · rw [if_neg (not_not.2 hopen)]
    cases hidx : x.table.findIdx? (fun e => e.1 == hash) with
    | none =>
      have hnone : x.table.find? (fun e => e.1 == hash) = none := List.find?_eq_none.2 (by simpa using List.findIdx?_eq_none_iff.1 hidx)
      rw [hnone]
      by_cases hfull : 16 ≤ x.table.length
      · rw [State.applyPost_full s h i hash hopen hidx hfull, if_pos ⟨rfl, hfull⟩]
        exact ⟨.of_keeps (hnoted (s.inFc i x) _ _ rfl) (State.keepsHeats_settleHeat _ h) (by decide) (by decide), rfl⟩
      · rw [State.applyPost_first s h i hash hopen hidx hfull, if_neg fun hf => hfull hf.2]
        exact State.count_posted (hnoted _ _ _ rfl)
    | some j =>
      have hlt : j < x.table.length := (List.findIdx?_eq_some_iff_getElem.1 hidx).1
      have he : x.table.getD j (hash, 0, i) = x.table[j] := by simp [List.getD, hlt]
      rw [State.applyPost_again s h i hash hopen hidx, he, find?_eq_getElem?_of_findIdx? hidx, List.getElem?_eq_getElem hlt,
        if_neg fun hf => (by cases hf.1)]
      exact State.count_posted (hnoted _ _ _ rfl)
  · rw [if_pos hopen, State.applyPost_late s h i hash hopen]
    exact ⟨⟨.of_regions rfl rfl, _, State.putHeat_heat _ _ _, hnoted _ _ _ rfl, fun he => (by cases he), fun _ => rfl⟩, rfl⟩

/-! ### BALLOT.POST (R80, R287) -/

/-- A task that is a sibling has its place in its heat. -/
theorem State.sib_lt_of_meSib {s : State} {h i : Nat} {x : Heat} (hme : s.meSib = some (h, i)) (hx : s.heat h = some x) : i < x.sibs.length := by
  obtain ⟨id, _, hid⟩ := Option.bind_eq_some_iff.1 hme
  obtain ⟨t, _, hsib⟩ := Option.bind_eq_some_iff.1 hid
  unfold State.sibOf at hsib
  split at hsib
  · cases hsib
  · split at hsib
    · cases hsib
    · next y hy =>
      split at hsib
      · next htask =>
        cases hsib
        obtain rfl : x = y := Option.some.inj (hx.symm.trans hy)
        by_contra hge
        simp [Heat.sib, List.getD, List.getElem?_eq_none (Nat.le_of_not_lt hge), Sibling.empty] at htask
      · cases hsib

/-- A sibling of a higher index has posted in the same fc (R80, log 78). -/
theorem Heat.postedAfter_iff (x : Heat) (now i : Nat) :
    x.postAt.any (fun p => p.1 == now && p.2 > i) = true ↔ ∃ j, x.postAt = some (now, j) ∧ i < j := by
  cases x.postAt with
  | none => simp
  | some p =>
    obtain ⟨n, j⟩ := p
    simp only [Option.any_some, Bool.and_eq_true, beq_iff_eq, decide_eq_true_eq, Option.some.injEq, Prod.mk.injEq]
    constructor
    · rintro ⟨rfl, hj⟩
      exact ⟨j, ⟨rfl, rfl⟩, hj⟩
    · rintro ⟨k, ⟨rfl, rfl⟩, hk⟩
      exact ⟨rfl, hk⟩

section
variable {s : State} {d a : XReg} {h i : Nat} {x : Heat} (hm : s.reg.pacer.mode = false) (hme : s.meSib = some (h, i)) (hx : s.heat h = some x)
include hm hme hx

theorem State.exec_ballotPost : exec (.ballotPost d a) s =
    if (x.sib i).hash.isSome then s.fail 0x98 (BitVec.ofNat 64 h)
    else if !s.released 4 then s.block
    else if x.postAt.any (fun p => p.1 == s.now && p.2 > i) then s.block
    else (s.applyPost h i x (s.rx a)).1.ret d (BitVec.ofNat 64 (s.applyPost h i x (s.rx a)).2) := by
  have hsib : (if s.sup then none else s.reg.task.bind (fun id => (s.task id).bind (fun t => s.sibOf id t))) = some (h, i) := by
    rw [State.sup, hm]
    exact hme
  simp only [exec, execBallotPost, hsib, hx]

theorem State.ballotPost_again (hp : (x.sib i).hash ≠ none) : exec (.ballotPost d a) s = s.fail 0x98 (BitVec.ofNat 64 h) := by
  rw [State.exec_ballotPost hm hme hx, if_pos (Option.isSome_iff_ne_none.2 hp)]

theorem State.ballotPost_waits (hp : (x.sib i).hash = none) (hw : s.released 4 = false ∨ ∃ j, x.postAt = some (s.now, j) ∧ i < j) :
    exec (.ballotPost d a) s = s.block := by
  rw [State.exec_ballotPost hm hme hx, if_neg (by simp [hp])]
  rcases hw with hr | hafter
  · rw [if_pos (by simp [hr])]
  · rw [if_pos ((x.postedAfter_iff s.now i).2 hafter), ite_self]

theorem State.ballotPost_posts (hp : (x.sib i).hash = none) (hr : s.released 4 = true) (hafter : ¬∃ j, x.postAt = some (s.now, j) ∧ i < j) :
    exec (.ballotPost d a) s = (s.applyPost h i x (s.rx a)).1.ret d (BitVec.ofNat 64 (s.applyPost h i x (s.rx a)).2) := by
  rw [State.exec_ballotPost hm hme hx, if_neg (by simp [hp]), if_neg (by simp [hr]), if_neg (mt (x.postedAfter_iff s.now i).1 hafter)]

end

/-! ### BALLOT.POLL (R84, R287) -/

/-- X(d) and then X(e) written, and execution continuing at NextPC. -/
theorem State.wx_wx_advance (s : State) (d e : XReg) (v w : Word) :
    s.inX ((s.wx d v).wx e w).advance s.nextPC ∧
      ∀ r, ((s.wx d v).wx e w).advance.rx r = if r = e ∧ e ≠ 0 then w else if r = d ∧ d ≠ 0 then v else s.rx r := by
  have hone : ((s.wx d v).wx e w).advance = s.onPacer (fun p => { (p.wx d v).wx e w with pcc := p.pcc.withCursor s.nextPC }) := by
    simp [State.pc, State.nextPC]
  rw [hone]
  refine ⟨⟨s.inPacer_onPacer _, by simp, by simp⟩, fun r => ?_⟩
  have hrx : (s.onPacer (fun p => { (p.wx d v).wx e w with pcc := p.pcc.withCursor s.nextPC })).rx r = ((s.reg.pacer.wx d v).wx e w).rx r := by
    simp [State.rx, Pacer.rx]
  rw [hrx, Pacer.rx_wx, Pacer.rx_wx]
  rfl

theorem succ_ne_of_even {d : XReg} (h : d.getLsbD 0 = false) : d + 1 ≠ 0 ∧ d + 1 ≠ d := by
  revert d
  decide

section
variable {s : State} {d a : XReg}

theorem State.ballotPoll_reads {x : Heat} (hd : d.getLsbD 0 = false) (hc : s.cancelPending s.cur = false)
    (hx : (if s.reg.pacer.mode then s.heat (s.rx a).toNat else s.heatFor (s.rx a)) = some x) :
    exec (.ballotPoll d a) s = .next (((s.wx d x.win).wx (d + 1)
      (BitVec.ofNat 64 (x.st.code + (if s.reg.pacer.mode then 0xFF else s.mySlot (s.rx a).toNat) * 256))).advance) := by
  have heven : (d.toNat % 2 == 1) = false := by
    rw [BitVec.getLsbD, Nat.testBit_zero] at hd
    simpa using hd
  have hsup : (if s.sup then s.heat (s.rx a).toNat else s.heatFor (s.rx a)) = some x := hx
  simp only [exec, execBallotPoll, heven, hc, hsup]
  rfl

theorem State.ballotPoll_odd (hd : d.getLsbD 0 = true) : exec (.ballotPoll d a) s = s.fail0 0x0E (.ballotPoll d a) := by
  have hodd : (d.toNat % 2 == 1) = true := by
    rw [BitVec.getLsbD, Nat.testBit_zero] at hd
    simpa using hd
  simp only [exec, execBallotPoll, hodd, if_true]

end

/-! ### The accounting record (R88) -/

theorem State.exec_accounting {s : State} {h : Nat} {x : Heat} (hx : s.heat h = some x) (ha : x.accountable = false) :
    exec (.heatAccountingWrite h) s = .next s := by
  simp [exec, execHeatAccountingWrite, State.account, hx, ha]

/-- The record is written; then the heat is done, or its id free. -/
theorem State.account_done {s : State} {h : Nat} {x : Heat} (hx : s.heat h = some x) (ha : x.accountable = true) :
    s.SamePacers (s.account h) ∧
      (s.account h).heats = if x.closing then AMap.del s.heats h else AMap.put s.heats h { x with done := true } := by
  have hentries := State.wrote_foldl (f := fun (t : State) i => t.unitTry 1 x.vd x.rec_ (x.rec_.cursor.toNat + 0x40 + 32 * i) (x.sib i).bytes)
    (fun t i => t.wrote_unitTry _ _ _ _ _) (List.range x.n) s
  have hwrote := (hentries.trans (State.wrote_unitTry _ 1 x.vd x.rec_ (x.rec_.cursor.toNat + 1) x.header)).trans
    (State.wrote_unitTry _ 1 x.vd x.rec_ x.rec_.cursor.toNat (leBytes 1 (0x80 + x.st.code)))
  simp only [State.account, hx, ha, Bool.not_true, Bool.false_eq_true, if_false]
  generalize State.unitTry _ 1 x.vd x.rec_ x.rec_.cursor.toNat (leBytes 1 (0x80 + x.st.code)) = u at hwrote
  split
  · exact ⟨hwrote.samePacers.trans (.of_regions rfl rfl), congrArg (AMap.del · h) hwrote.heats⟩
  · exact ⟨hwrote.samePacers.trans (.of_regions rfl rfl), by simp only [State.putHeat, hwrote.heats]⟩

/-! ### The obligation -/

/-- Settles O41: each instruction by its cases. What a close or a decision does to siblings ends tasks and cancels running ones, which leaves every Pacer's
registers, and of the heat its decision and its posts, as they were. -/
theorem heatsAndBallots : Obligations.HeatsAndBallots := by
  intro s d a b ca
  refine ⟨fun hok => ⟨fun h hfree hlt hleast => ?_, fun hfull => ?_⟩, fun hbad hu => ?_, fun x hx => ?_, fun hx hu => ?_, ?_, ?_, ?_, ?_⟩
  · have hstep := State.heatOpen_opens (d := d) hok hfree hlt hleast
    obtain ⟨t, ht, hw⟩ := (s.putHeat h (mkHeat s.heatVd (s.rx b).toNat (s.rc ca))).ret_wroteX d (BitVec.ofNat 64 h)
    exact ⟨t, hstep.trans ht, hw⟩
  · have hstep := State.heatOpen_full (d := d) hok hfull
    obtain ⟨t, ht, hw⟩ := s.ret_wroteX d (BitVec.allOnes 64)
    exact ⟨t, hstep.trans ht, hw⟩
  · obtain ⟨t, ht, he⟩ := s.drawWord.2.fail_entered 0x94 s.drawWord.1 hu
    exact ⟨t, (State.heatOpen_refused hbad).trans ht, he⟩
  · refine ⟨_, State.exec_heatClose hx, ?_⟩
    cases hd : x.done with
    | true =>
      rw [State.closeHeat_done _ _ hd]
      exact ⟨s.movedOn_advance.2, fun _ => rfl, fun hf => by cases hf⟩
    | false =>
      obtain ⟨hp, hy⟩ := s.advance.closeHeat_live (s.rx a).toNat hd
      exact ⟨hp.pcOnly, fun hf => (by cases hf), fun _ => hy⟩
  · obtain ⟨t, ht, he⟩ := s.fail_entered 0x94 (s.rx a) hu
    exact ⟨t, (State.exec_heatClose_none hx).trans ht, he⟩
  · intro h i x hm hme hx
    refine ⟨fun hp hr hafter => ?_, fun hp hw => ?_, fun hp => ?_⟩
    · obtain ⟨⟨hpac, y, hy, hhash, hone, htwo⟩, hstatus⟩ := s.applyPost_posted h (State.sib_lt_of_meSib hme hx) (s.rx a)
      have hstep := State.ballotPost_posts (d := d) (a := a) hm hme hx hp hr hafter
      rw [hstatus] at hstep hone htwo
      exact ⟨_, y, hstep, hpac.gave_ret d _, hy, hhash, hone, htwo⟩
    · obtain ⟨t, ht, hw'⟩ := s.block_waits
      exact ⟨t, (State.ballotPost_waits hm hme hx hp hw).trans ht, hw'⟩
    · obtain ⟨t, ht, he⟩ := s.fail_entered 0x98 (BitVec.ofNat 64 h) (.inl hm)
      exact ⟨t, (State.ballotPost_again hm hme hx hp).trans ht, he⟩
  · intro x hd hc hx
    obtain ⟨hne0, hne⟩ := succ_ne_of_even hd
    have hstep := State.ballotPoll_reads hd hc hx
    generalize BitVec.ofNat 64 (x.st.code + (if s.reg.pacer.mode then 0xFF else s.mySlot (s.rx a).toNat) * 256) = w at hstep ⊢
    obtain ⟨hin, hregs⟩ := s.wx_wx_advance d (d + 1) x.win w
    refine ⟨_, hstep, hin, fun r => (hregs r).trans ?_⟩
    by_cases hr : r = d + 1
    · subst hr
      rw [if_pos ⟨rfl, hne0⟩, if_neg (fun h => hne h.1), if_pos rfl]
    · rw [if_neg (fun h => hr h.1), if_neg hr]
  · intro hd hu
    obtain ⟨t, ht, he⟩ := s.fail0_entered 0x0E (.ballotPoll d a) hu
    exact ⟨t, (State.ballotPoll_odd hd).trans ht, he⟩
  · intro h x hx
    refine ⟨fun ha => ?_, State.exec_accounting hx⟩
    obtain ⟨hp, hh⟩ := State.account_done hx ha
    exact ⟨_, rfl, hp.reg_pacer, hh⟩

end Sys2Proof.Machine

/-! # Proofs: sequences (O42) -/

namespace Sys2Proof.Machine

open Sys2Proof Sys2Proof.Claims

/-! ### An empty ordering machine (R168) -/

theorem State.flush_of_idle {s : State} (h : s.reqs = []) (sts : List Stage) (p : Port) (fuel : Nat) : s.flush sts p fuel = s := by
  have hnone : (sts.flatMap fun st => s.reqs.filter fun q => q.stage == st && q.port == p) = [] := by simp [h]
  cases fuel with
  | zero => rfl
  | succ fuel => simp only [State.flush, hnone, State.tryApply, State.tryPast]

theorem State.flushFor_of_idle {s : State} (h : s.reqs = []) (ps : List Piece) : s.flushFor ps = s :=
  foldl_of_fixed fun p _ => State.flush_of_idle h _ (portOf p.key) _

theorem State.flushPacer_of_idle {s : State} (h : s.reqs = []) : s.flushPacer = s := by
  simp [State.flushPacer, h]

/-- A direct read leaves the note of a watched address alone. -/
theorem State.fetchData_frame {s s1 : State} {c : Cap} {a n perms : Nat} {spaces : List Nat} {bs : List Byte} (h : s.reqs = [])
    (hf : s.fetchData c a n perms spaces = .ok (s1, bs)) : s.SamePacers s1 ∧ s1.unitVd = s.unitVd := by
  unfold State.fetchData at hf
  split at hf
  · cases hf
  · next ps _ =>
    rw [State.flushFor_of_idle h] at hf
    cases hr : s.readNow ps with
    | error f => simp [hr, Except.map] at hf
    | ok x =>
      simp only [hr, Except.map, Except.ok.injEq, Prod.mk.injEq] at hf
      obtain ⟨rfl, _⟩ := hf
      rcases s.noteAccess_frame (BitVec.ofNat 64 a) n with he | he
      · rw [he]; exact ⟨.refl s, rfl⟩
      · rw [he]
        exact ⟨s.samePacers_onRegion s.cur (f := fun g => { g with dataBrk := some (BitVec.ofNat 64 a) }) (fun _ => rfl), rfl⟩

/-! ### What the Prefix Index matches (R91) -/

/-- The path of a node that is found, and its model. -/
theorem State.nodeAt_some {s : State} {vd : Nat} {pool : Cap} {model : BitVec 32} {path : List (BitVec 32)} {n : IdxNode}
    (h : s.nodeAt vd pool model path = some n) : n.path = path ∧ n.model = model := by
  have hp := List.find?_some h
  simp only [Bool.and_eq_true, beq_iff_eq] at hp
  exact ⟨hp.2, hp.1.2⟩

theorem State.matched_length (s : State) (vd : Nat) (q : Sqd) (toks : List (BitVec 32)) (m : Nat) : ∀ j, (s.matched vd q toks m j).length ≤ m := by
  induction m with
  | zero => exact fun _ => Nat.le_refl 0
  | succ m ih =>
    intro j
    rw [State.matched]
    split
    · exact Nat.succ_le_succ (ih _)
    · exact Nat.zero_le _

/-- Each block that is matched is one of the tokens up to its end. -/
theorem State.matched_path {s : State} {vd : Nat} {q : Sqd} {toks : List (BitVec 32)} {y : IdxNode} (m : Nat) :
    ∀ {j i : Nat}, (s.matched vd q toks m j)[i]? = some y → y.path = toks.take (64 * (j + i + 1)) ∧ y.model = q.model := by
  induction m with
  | zero => intro j i h; cases h
  | succ m ih =>
    intro j i h
    rw [State.matched] at h
    split at h
    · next n hn =>
      cases i with
      | zero =>
        cases h
        exact State.nodeAt_some hn
      | succ i =>
        rw [List.getElem?_cons_succ] at h
        rw [show j + (i + 1) + 1 = j + 1 + i + 1 by omega]
        exact ih h
    · cases h

/-! ### The transaction of an admission (R87, R91) -/

theorem wrote_unitSeq {s t : State} {fs : List (Nat × (State → Except Byte State))} (hf : ∀ x ∈ fs, ∀ u v, x.2 u = .ok v → u.Wrote v)
    (h : unitSeq s fs = .ok t) : s.Wrote t := by
  induction fs generalizing s with
  | nil =>
    cases h
    exact .refl _
  | cons x fs ih =>
    obtain ⟨a, f⟩ := x
    simp only [unitSeq] at h
    split at h
    · cases h
    · next u hx =>
      exact (hf (a, f) List.mem_cons_self _ u hx).trans (ih (fun x hx => hf x (List.mem_cons_of_mem _ hx)) h)

theorem State.wrote_map_unitAtomic {s t : State} {vd : Nat} {c : Cap} {a n : Nat} {f : Nat → Nat}
    (h : (s.unitAtomic vd c a n f).map (·.2) = .ok t) : s.Wrote t := by
  cases hu : s.unitAtomic vd c a n f with
  | error e => rw [hu] at h; cases h
  | ok r =>
    rw [hu] at h
    cases h
    exact State.wrote_unitAtomic hu

theorem State.wrote_setIndexed {s t : State} {vd : Nat} {p : Pool} {b : Nat} {v : Bool} (h : s.setIndexed vd p b v = .ok t) : s.Wrote t :=
  State.wrote_map_unitAtomic h

theorem State.wrote_admitSeq {s t : State} {vd : Nat} {q : Sqd} {p : Pool} {blocks : List Nat} (h : s.admitSeq vd q p blocks none = .ok t) :
    s.Wrote t := by
  refine wrote_unitSeq (fun x hx u v hv => ?_) h
  simp only [List.append_nil, List.mem_append, List.mem_map] at hx
  rcases hx with (⟨b, _, rfl⟩ | hx) | hx
  · exact State.wrote_map_unitAtomic hv
  · split at hx
    · cases hx
    · rw [List.mem_singleton.1 hx] at hv
      exact State.wrote_unitWrite hv
  · simp only [List.mem_cons, List.not_mem_nil, or_false] at hx
    rcases hx with rfl | rfl
    · exact State.wrote_unitWrite hv
    · exact State.wrote_unitWrite hv

/-! ### Publishing (R90, R92) -/

theorem State.samePacers_index (s : State) (l : List IdxNode) : s.SamePacers { s with index := l } := .of_regions rfl rfl

theorem State.wrote_evictable (ns : List IdxNode) : ∀ s : State, s.Wrote (s.evictable ns).1 := by
  induction ns with
  | nil => exact .refl
  | cons n ns ih =>
    intro s
    rw [State.evictable]
    split
    · exact ih s
    · split
      · split
        · exact .refl s
        · exact ih s
      · exact ih s
      · exact (s.wrote_unitFail _ _ _).trans (ih _)

theorem State.samePacers_makeRoom (s : State) : s.SamePacers s.makeRoom.1 := by
  have he := (s.wrote_evictable s.index).samePacers
  unfold State.makeRoom
  split
  · exact .refl s
  · split
    · next h => rw [h] at he; exact he
    · next t n p h =>
      rw [h] at he
      split
      · exact he.trans (State.wrote_unitFail _ _ _ _).samePacers
      · next u _ hu =>
        cases hi : t.setIndexed n.vd p n.block false with
        | error f => rw [hi] at hu; cases hu
        | ok v =>
          rw [hi] at hu
          exact ((he.trans (State.wrote_setIndexed hi).samePacers).trans (State.wrote_dropRef hu).samePacers).trans (State.samePacers_index _ _)

theorem State.samePacers_insertNode {s t : State} {vd : Nat} {q : Sqd} {p : Pool} {path : List (BitVec 32)} {b : Nat}
    (h : s.insertNode vd q p path b = .ok t) : s.SamePacers t := by
  unfold State.insertNode at h
  split at h
  · cases h
  · next s1 h1 =>
    cases h
    refine (wrote_unitSeq (fun x hx u v hv => ?_) h1).samePacers.trans (State.samePacers_index _ _)
    simp only [List.mem_cons, List.not_mem_nil, or_false] at hx
    rcases hx with rfl | rfl
    · exact State.wrote_map_unitAtomic hv
    · exact State.wrote_setIndexed hv

/-- A block is published, or not: at most one insertion more. -/
theorem State.publishOne_spec (s : State) (vd : Nat) (q : Sqd) (p : Pool) (path : List (BitVec 32)) (b : Nat) (w : Published) :
    s.SamePacers (s.publishOne vd q p path b w).1 ∧ (s.publishOne vd q p path b w).2.count ≤ w.count + 1 := by
  have hroom := s.samePacers_makeRoom
  unfold State.publishOne
  split
  · exact ⟨(s.wrote_unitFail _ _ _).samePacers, Nat.le_succ _⟩
  · split
    · exact ⟨.refl s, Nat.le_succ _⟩
    · split
      · next h => rw [h] at hroom; exact ⟨hroom, Nat.le_succ _⟩
      · next s1 h =>
        rw [h] at hroom
        split
        · exact ⟨hroom.trans (State.wrote_unitFail _ _ _ _).samePacers, Nat.le_succ _⟩
        · next hi => exact ⟨hroom.trans (State.samePacers_insertNode hi), Nat.le_refl _⟩

theorem State.publish_spec (vd : Nat) (q : Sqd) (p : Pool) (toks : List (BitVec 32)) (k : Nat) : ∀ (s : State) (j : Nat) (w : Published),
    s.SamePacers (s.publish vd q p toks k j w).1 ∧ (s.publish vd q p toks k j w).2.count ≤ w.count + k := by
  induction k with
  | zero => exact fun s _ w => ⟨.refl s, Nat.le_refl _⟩
  | succ k ih =>
    intro s j w
    rw [State.publish]
    dsimp only
    split
    · next f _ =>
      obtain ⟨hp, hc⟩ := ih (s.unitFail 2 f (q.at_ (0x40 + 4 * j))) (j + 1) (w.fail f (q.at_ (0x40 + 4 * j)))
      exact ⟨(s.wrote_unitFail _ _ _).samePacers.trans hp, hc.trans (Nat.le_succ _)⟩
    · next b _ =>
      split
      · split
        · obtain ⟨hp, hc⟩ := ih s (j + 1) w
          exact ⟨hp, hc.trans (Nat.le_succ _)⟩
        · exact ⟨.refl s, Nat.le_add_right _ _⟩
      · obtain ⟨hp1, hc1⟩ := s.publishOne_spec vd q p (toks.take (64 * (j + 1))) b w
        obtain ⟨hp, hc⟩ := ih (s.publishOne vd q p (toks.take (64 * (j + 1))) b w).1 (j + 1) (s.publishOne vd q p (toks.take (64 * (j + 1))) b w).2
        exact ⟨hp1.trans hp, by omega⟩

/-! ### The checks before the effect (R288) -/

theorem State.toSqd_ok {s : State} {c : Cap} {perms : Nat} (ha : c.cursor.toNat % 64 = 0)
    {x : Nat × List Piece} (hx : s.access c c.cursor.toNat 64 perms kindRead memSpaces Use.read = .ok x) (i : Instr) (k : Out) :
    s.toSqd i c perms k = k := by
  simp [State.toSqd, ha, hx]

theorem State.withSqd_ok {s : State} {c : Cap} {q : Sqd} (h : s.readSqd s.unitVd c = .ok q) (k : Sqd → Out) : s.withSqd c k = k q := by
  simp only [State.withSqd, h]

theorem State.withPool_ok {s : State} {q : Sqd} {p : Pool} (h : s.readPool s.unitVd q.pool = .ok p) (k : Pool → Out) : s.withPool q k = k p := by
  simp only [State.withPool, h]

/-! ### SEQ.ADMIT (R87, R91, R288) -/

theorem State.hasBound_of_alone {s : State} (h : s.meSib = none) : s.hasBound = false := by
  simp only [State.hasBound, h]

theorem State.wx_advance_mem (s : State) (d : XReg) (v : Word) : (s.wx d v).advance.mem = s.mem := rfl

/-- The state in which an admission leaves the device: the nodes that it matched are the last ones matched. -/
def State.admitted (s : State) (hit : List IdxNode) : State :=
  { s with index := s.index.filter (fun x => !hit.contains x) ++ hit.map (fun (x : IdxNode) => { x with used := s.now }) }

theorem State.mem_index_admitted (s : State) {hit : List IdxNode} {y : IdxNode} (h : y ∈ hit) :
    y ∈ (s.admitted hit).index.map (fun z => { z with used := y.used }) :=
  List.mem_map.2 ⟨{ y with used := s.now }, List.mem_append_right _ (List.mem_map.2 ⟨y, h, rfl⟩), rfl⟩

section
variable {s s1 : State} {d : XReg} {ca cb : CReg} {x : Nat × List Piece} {q : Sqd} {p : Pool} {bs : List Byte}
  (hidle : s.reqs = []) (halign : (s.rc ca).cursor.toNat % 64 = 0) (hmode : s.reg.pacer.mode = false)
  (hx : s.access (s.rc ca) (s.rc ca).cursor.toNat 64 (permLoad + permStore) kindRead memSpaces .read = .ok x)
  (hq : s.readSqd s.unitVd (s.rc ca) = .ok q) (hgood : q.bad = false) (hp : s.readPool s.unitVd q.pool = .ok p)
include hidle halign hmode hx hq hgood hp

theorem State.exec_seqAdmit {n : Nat} {s2 : State} (halone : s.meSib = none) (htop : (s.rc cb).top = (s.rc cb).cursor.toNat + 4 * n) (hlo : 1 ≤ n)
    (hhi : n ≤ 262144) (hraw : (s.rc cb).checkRaw (s.rc cb).cursor.toNat (4 * n) permLoad kindRead = none) (hst : q.st = 0)
    (hf : s.fetchData (s.rc cb) (s.rc cb).cursor.toNat (4 * n) permLoad recordSpaces = .ok (s1, bs))
    (ha : s1.admitSeq s.unitVd q p ((s1.matched s.unitVd q (tokenIds bs n) (min ((n - 1) / 64) q.room) 0).map (·.block)) none = .ok s2) :
    exec (.seqAdmit d ca cb) s =
      let hit := s1.matched s.unitVd q (tokenIds bs n) (min ((n - 1) / 64) q.room) 0
      (s2.admitted hit).ret d (BitVec.ofNat 64 (64 * hit.length)) := by
  have hspan : ((s.rc cb).top - (s.rc cb).cursor.toNat).toNat = 4 * n := by omega
  have hdiv : 4 * n / 4 = n := by omega
  have hmod : (4 * n % 4 != 0) = false := by simp
  have hlen : (decide (n < 1) || decide (n > 262144)) = false := by simp; omega
  have hbusy : (q.st != 0 || q.bad || s.hasBound) = false := by simp [hst, hgood, State.hasBound_of_alone halone]
  have hvd := (State.fetchData_frame hidle hf).2
  simp only [exec, execSeqAdmit, State.sup, hmode, State.flushPacer_of_idle hidle, hspan, hdiv, State.toSqd_ok halign hx, hraw, hmod, hlen,
    State.withSqd_ok hq, hbusy, State.withPool_ok hp, hf, hvd, halone, ha]
  rfl

/-! ### SEQ.RELEASE (R87, R92, R288) -/

theorem State.exec_seqRelease {s2 s3 : State} {n : Published} {w : Walk} (hle : (s.rx d).toNat ≤ q.nblk) (hst : q.st = 1)
    (hraw : (if (s.rx d).toNat == 0 then none else (s.rc cb).checkRaw (s.rc cb).cursor.toNat (256 * (s.rx d).toNat) permLoad kindRead) = none)
    (hf : (if (s.rx d).toNat == 0 then .ok (s, []) else s.fetchData (s.rc cb) (s.rc cb).cursor.toNat (256 * (s.rx d).toNat) permLoad recordSpaces) =
      .ok (s1, bs)) (hvd : s1.unitVd = s.unitVd)
    (hpub : s1.publish s.unitVd q p (tokenIds bs (64 * (s.rx d).toNat)) (s.rx d).toNat 0 { count := 0, first := none } = (s2, n))
    (hfirst : n.first = none) (hwalk : s2.walkBlocks 2 s.unitVd q p q.nblk 0 { freed := 0, fault := false, first := none } = (s3, w))
    (hwf : w.first = none) :
    exec (.seqRelease d ca cb) s =
      ((s3.unitTry 2 s.unitVd q.cap (q.at_ 0x20) (leBytes 4 2)).ownRelease q w).ret d (BitVec.ofNat 64 n.count) := by
  have hst' : (q.st != 1) = false := by simp [hst]
  simp only [exec, execSeqRelease, State.sup, hmode, State.flushPacer_of_idle hidle, State.toSqd_ok halign hx, State.withSqd_ok hq,
    if_neg (Nat.not_lt.2 hle), hraw, hst', hgood, State.withPool_ok hp, hf, hvd, hpub, hwalk, hfirst, hwf]
  rfl

end

/-- What a release writes of its sibling's record leaves memory and the Pacers. -/
theorem State.ownRelease_frame (s : State) (q : Sqd) (w : Walk) : s.SamePacers (s.ownRelease q w) ∧ (s.ownRelease q w).mem = s.mem := by
  unfold State.ownRelease
  split
  · next h j _ =>
    obtain ⟨m, he⟩ := s.onSib_frame h j (fun b =>
      if b.sqd.any (fun c => c.spaceAt == q.cap.spaceAt && c.cursor == q.cap.cursor) then { b with relfault := b.relfault || w.fault } else b)
    rw [he]
    exact ⟨.of_regions rfl rfl, rfl⟩
  · exact ⟨.refl s, rfl⟩

/-- What the walk of a release and its last writes leave of Pacers and memory. -/
theorem State.released_frame {s s2 s3 : State} {vd : Nat} {q : Sqd} {p : Pool} {w0 w : Walk} (h : s.SamePacers s2)
    (hwalk : s2.walkBlocks 2 vd q p q.nblk 0 w0 = (s3, w)) :
    let t := s3.unitTry 2 vd q.cap (q.at_ 0x20) (leBytes 4 2)
    s.SamePacers (t.ownRelease q w) ∧ (t.ownRelease q w).mem = t.mem := by
  have hwalked := State.wrote_walkBlocks 2 vd q p q.nblk s2 0 w0
  rw [hwalk] at hwalked
  have hfreed := (hwalked.trans (s3.wrote_unitTry 2 vd q.cap (q.at_ 0x20) (leBytes 4 2))).samePacers
  obtain ⟨hown, hmem⟩ := (s3.unitTry 2 vd q.cap (q.at_ 0x20) (leBytes 4 2)).ownRelease_frame q w
  exact ⟨(h.trans hfreed).trans hown, hmem⟩

/-! ### KV.SLOT (R94, R288) -/

/-- The value that stands for a position: its block and slot, beyond the sequence, or not kept. -/
def KvRes.value : KvRes → Word
  | .kept blk sl => BitVec.ofNat 64 (blk * 256 + sl)
  | .beyond => BitVec.allOnes 64
  | .notKept => BitVec.allOnes 64 - 1

theorem State.exec_kvSlot {s : State} {d b : XReg} {ca : CReg} {x : Nat × List Piece} {r : KvRes} (hidle : s.reqs = [])
    (halign : (s.rc ca).cursor.toNat % 64 = 0)
    (hx : s.access (s.rc ca) (s.rc ca).cursor.toNat 64 permLoad kindRead memSpaces .read = .ok x)
    (hr : s.kvSlot s.unitVd (s.rc ca) (s.rx b).toNat = .ok r) : exec (.kvSlot d ca b) s = s.ret d r.value := by
  simp only [exec, execKvSlot, State.flushPacer_of_idle hidle, State.toSqd_ok halign hx, hr]
  cases r <;> rfl

/-! ### The obligation -/

/-- Settles O42: each instruction with its checks passed; an admission by what the index matches, a release by what it publishes and then walks. -/
theorem sequences : Obligations.Sequences := by
  intro s d b ca cb x q p c tc v hidle halign
  refine ⟨fun hmode hx hq hgood hp halone => ⟨?_, ?_, ?_⟩, fun r hx hr => ?_⟩
  · intro n s1 bs s2 htop hlo hhi hraw hst hf hit ha
    have hstep := State.exec_seqAdmit (d := d) hidle halign hmode hx hq hgood hp halone htop hlo hhi hraw hst hf ha
    have hpac : s.SamePacers (s2.admitted hit) :=
      ((State.fetchData_frame hidle hf).1.trans (State.wrote_admitSeq ha).samePacers).trans (s2.samePacers_index _)
    refine ⟨_, hstep, hpac.gave_ret d _, rfl, (State.matched_length _ _ _ _ _ _).trans (Nat.min_le_left _ _), fun j y hy => ?_⟩
    obtain ⟨hpath, hmodel⟩ := State.matched_path _ hy
    rw [Nat.zero_add] at hpath
    exact ⟨hpath, hmodel, s2.mem_index_admitted (List.mem_of_getElem? hy)⟩
  · intro k s1 bs s2 s3 n w hk hst hle hne hraw hf hpub hfirst hwalk hwf
    subst hk
    have hne' : ((s.rx d).toNat == 0) = false := by simpa using hne
    obtain ⟨hfetched, hvd⟩ := State.fetchData_frame hidle hf
    have hstep := State.exec_seqRelease hidle halign hmode hx hq hgood hp hle hst (by rw [hne']; exact hraw) (by rw [hne']; exact hf) hvd hpub hfirst
      hwalk hwf
    obtain ⟨hpublished, hcount⟩ := State.publish_spec v q p (tokenIds bs (64 * (s.rx d).toNat)) (s.rx d).toNat s1 0 { count := 0, first := none }
    rw [hpub] at hpublished hcount
    obtain ⟨hpac, hmem⟩ := State.released_frame (hfetched.trans hpublished) hwalk
    exact ⟨_, hstep, hpac.gave_ret d _, by simpa using hcount, (State.wx_advance_mem _ d _).trans hmem⟩
  · intro s3 w hd hst hwalk hwf
    have hzero : (s.rx d).toNat = 0 := by rw [hd]; rfl
    have hstep : exec (.seqRelease d ca cb) s = ((s3.unitTry 2 v q.cap (q.at_ 0x20) (leBytes 4 2)).ownRelease q w).ret d 0 :=
      State.exec_seqRelease (s1 := s) (bs := []) (n := { count := 0, first := none }) hidle halign hmode hx hq hgood hp (by omega) hst
        (by rw [hzero]; rfl) (by rw [hzero]; rfl) rfl (by rw [hzero]; rfl) rfl hwalk hwf
    obtain ⟨hpac, hmem⟩ := State.released_frame (.refl s) hwalk
    exact ⟨_, hstep, hpac.gave_ret d 0, (State.wx_advance_mem _ d 0).trans hmem⟩
  · obtain ⟨t, ht, hw⟩ := s.ret_wroteX d r.value
    exact ⟨t, (State.exec_kvSlot hidle halign hx hr).trans ht, hw⟩

end Sys2Proof.Machine

/-! # Proofs: system registers (O17) -/

namespace Sys2Proof.Machine

open Sys2Proof Sys2Proof.Claims

/-- SETS of a register that is not the PC leaves the fetch capability. -/
theorem Pacer.sysWrite_pcc (p : Pacer) (n : Nat) (v : Word) : (p.sysWrite n v).pcc = p.pcc := by
  unfold Pacer.sysWrite
  split
  case h_11 => split <;> rfl
  all_goals rfl

section
variable {s : State} {d a : XReg} {num : BitVec 12}

theorem State.exec_gets (hl : sysListed num.toNat = true) (hm : s.reg.pacer.mode = true ∨ sysSupOnly num.toNat = false) :
    exec (.gets d num) s = s.ret d (s.sysRead num.toNat) := by
  show execGets d num s = _
  rcases hm with hm | hm <;> simp [execGets, State.sup, hl, hm]

theorem State.exec_gets_unlisted (hl : sysListed num.toNat = false) : exec (.gets d num) s = s.fail0 0x06 (.gets d num) := by
  show execGets d num s = _
  simp [execGets, hl]

theorem State.exec_gets_supervisor (hl : sysListed num.toNat = true) (hm : s.reg.pacer.mode = false) (ho : sysSupOnly num.toNat = true) :
    exec (.gets d num) s = s.fail0 0x05 (.gets d num) := by
  show execGets d num s = _
  simp [execGets, State.sup, hl, hm, ho]

theorem State.exec_sets (hl : sysListed num.toNat = true) (hr : sysRoSup num.toNat = false)
    (hm : s.reg.pacer.mode = true ∨ sysSupOnly num.toNat = false ∧ sysRoTask num.toNat = false) :
    exec (.sets a num) s = .next ((s.onPacer (·.sysWrite num.toNat (s.rx a))).advance) := by
  show execSets a num s = _
  rcases hm with hm | ⟨ho, ht⟩
  · simp [execSets, State.sup, hl, hr, hm]
  · simp [execSets, hl, hr, ho, ht]

theorem State.exec_sets_unlisted (hl : sysListed num.toNat = false) : exec (.sets a num) s = s.fail0 0x06 (.sets a num) := by
  show execSets a num s = _
  simp [execSets, hl]

theorem State.exec_sets_readOnly (hl : sysListed num.toNat = true) (hr : sysRoSup num.toNat = true ∨
    s.reg.pacer.mode = false ∧ (sysSupOnly num.toNat = true ∨ sysRoTask num.toNat = true)) :
    exec (.sets a num) s = s.fail0 0x07 (.sets a num) := by
  show execSets a num s = _
  rcases hr with hr | ⟨hm, ho | ht⟩ <;> simp [execSets, State.sup, *]

end

/-- A change of the Pacer that leaves its fetch capability, and NextPC. -/
theorem State.reg_onPacer_advance (s : State) {f : Pacer → Pacer} (hf : (f s.reg.pacer).pcc = s.reg.pacer.pcc) :
    s.inPacer (s.onPacer f).advance ∧
      (s.onPacer f).advance.reg.pacer = { f s.reg.pacer with pcc := s.reg.pacer.pcc.withCursor s.nextPC } := by
  have he : (s.onPacer f).advance = s.onPacer (fun p => { f p with pcc := (f p).pcc.withCursor (s.pc + 4) }) := by
    simp [State.pc, hf]
  rw [he]
  exact ⟨s.inPacer_onPacer _, by simp [hf, State.nextPC]⟩

/-- An instruction that ends in a class-0 fault which MASK does not hide. -/
theorem State.faults_of_exec {s : State} (h : s.unmasked) {i : Instr} {c : Byte} (he : exec i s = s.fail0 c i) : Faults i s c := by
  obtain ⟨t, ht, hin⟩ := s.fail0_entered c i h
  exact ⟨t, he.trans ht, hin⟩

/-- Settles O17: each outcome of GETS and SETS by its own condition; a write leaves the fetch capability, so that NextPC is that of the state before. -/
theorem systemRegisters : Obligations.SystemRegisters := by
  intro s d a num n sup
  refine ⟨fun hl hm => ?_, fun hl hr hm => ?_, fun hu hl => ?_, fun hl hm ho => ?_, fun hu hl hr => ?_⟩
  · obtain ⟨t, ht, hw⟩ := s.ret_wroteX d (s.sysRead n)
    exact ⟨t, (State.exec_gets hl hm).trans ht, hw⟩
  · exact ⟨_, State.exec_sets hl hr hm, s.reg_onPacer_advance (Pacer.sysWrite_pcc _ _ _)⟩
  · exact ⟨State.faults_of_exec hu (State.exec_gets_unlisted hl), State.faults_of_exec hu (State.exec_sets_unlisted hl)⟩
  · exact State.faults_of_exec (.inl hm) (State.exec_gets_supervisor hl hm ho)
  · exact State.faults_of_exec hu (State.exec_sets_readOnly hl hr)

end Sys2Proof.Machine

/-! # Proofs: a Pacer's turn runs what it fetches (O60) -/

namespace Sys2Proof.Machine

open Sys2Proof Sys2Proof.Claims

/-! ### The turn (R97, R124, R127, R129) -/

/-- At a boundary of a running region with no fault, no stop and no debug event pending, the Pacer goes on with its next instruction. -/
theorem State.pacerTurn_of_quiet {v : State} (hrun : v.reg.run = .on) (hstop : v.reg.stop = none) (hpend : v.reg.pend = none)
    (hwait : v.reg.wait = .none) (hdebug : v.debug = none) : v.pacerTurn = v.fetchExec := by
  simp [State.pacerTurn, State.faultDue, State.goOn, hrun, hstop, hpend, hwait, hdebug]

/-- The state in which a turn's unit takes its step: the turn's fc have passed, cancels are committed and its events have befallen the module. -/
def State.turnStart (s : State) (t : Turn) : State := { ((s.tick t.fc).commitCancels).events t.events with cur := t.region }

theorem step_of_pacerTurn {s : State} {turn : Turn} {rest : List Turn} (ha : s.agenda = turn :: rest) (hact : turn.act = none)
    (hready : (({ s with agenda := rest } : State).turnStart turn).mgc.boot = .ready) :
    step s = (({ s with agenda := rest } : State).turnStart turn).pacerTurn := by
  simp only [step, State.nextTurn, ha, State.runTurn, hact]
  exact if_pos (beq_iff_eq.2 hready)

theorem State.fetchExec_ok {v u : State} {i : Instr} (h : v.fetch = .ok (u, i)) : v.fetchExec = exec i u.begin := by
  simp only [State.fetchExec, h]

theorem State.fetchExec_error {v : State} {f : Byte} {x : Word} (h : v.fetch = .error (f, x)) :
    v.fetchExec = exec (.fetchAndDecodeFault f x) v := by
  simp only [State.fetchExec, h]

/-! ### The words of an instruction (R203, R204, R207) -/

/-- A word is read back from its bytes. -/
theorem leWord_wordBytes {w : Nat} (h : w < 2 ^ 32) :
    leWord (BitVec.ofNat 8 w) (BitVec.ofNat 8 (w / 2 ^ 8)) (BitVec.ofNat 8 (w / 2 ^ 16)) (BitVec.ofNat 8 (w / 2 ^ 24)) = w := by
  simp only [leWord, BitVec.toNat_ofNat]
  omega

theorem decode_wordBytes_one {w : Nat} (h : w < 2 ^ 32) {i : Instr} (hd : decodeFirst w = .one i) (more : List Byte) :
    decode (wordBytes w ++ more) = .ok (i, more) := by
  simp only [wordBytes, List.cons_append, List.nil_append, decode, leWord_wordBytes h, hd]

theorem decode_wordBytes_bad {w : Nat} (h : w < 2 ^ 32) {c : Byte} (hd : decodeFirst w = .bad c) (more : List Byte) :
    decode (wordBytes w ++ more) = .error (.cause c) := by
  simp only [wordBytes, List.cons_append, List.nil_append, decode, leWord_wordBytes h, hd]

/-- Only LIMM takes a second word: bytes that give another instruction give it by their first word. -/
theorem decodeFirst_of_decode {w : Nat} (h : w < 2 ^ 32) {more rest : List Byte} {i : Instr} (hd : decode (wordBytes w ++ more) = .ok (i, rest))
    (hi : ∀ d n, i ≠ .limm d n) : decodeFirst w = .one i := by
  cases hf : decodeFirst w with
  | one j =>
    rw [decode_wordBytes_one h hf] at hd
    cases hd
    rfl
  | bad c =>
    rw [decode_wordBytes_bad h hf] at hd
    cases hd
  | limm d =>
    simp only [wordBytes, List.cons_append, List.nil_append, decode, leWord_wordBytes h, hf] at hd
    split at hd
    · cases hd
      exact absurd rfl (hi _ _)
    · cases hd

/-- Two words that give LIMM without a rest: the first is LIMM's, and the second the value. -/
theorem decodeFirst_of_decode_limm {w w2 : Nat} (h : w < 2 ^ 32) (h2 : w2 < 2 ^ 32) {d : XReg} {n : BitVec 32}
    (hd : decode (wordBytes w ++ wordBytes w2) = .ok (.limm d n, [])) : decodeFirst w = .limm d ∧ n = BitVec.ofNat 32 w2 := by
  cases hf : decodeFirst w with
  | one j =>
    rw [decode_wordBytes_one h hf] at hd
    simp [wordBytes] at hd
  | bad c =>
    rw [decode_wordBytes_bad h hf] at hd
    cases hd
  | limm e =>
    simp only [wordBytes, List.cons_append, List.nil_append, decode, leWord_wordBytes h, leWord_wordBytes h2, hf] at hd
    cases hd
    exact ⟨rfl, rfl⟩

theorem State.fetch_one {v u : State} {w : Nat} {i : Instr} (hw : v.fetchWord v.reg.pacer.pcc v.pc = .ok (u, w)) (hd : decodeFirst w = .one i) :
    v.fetch = .ok (u, i) := by
  simp only [State.fetch, hw, hd]

theorem State.fetch_limm {v u u2 : State} {w w2 : Nat} {d : XReg} (hw : v.fetchWord v.reg.pacer.pcc v.pc = .ok (u, w))
    (hw2 : u.fetchWord u.reg.pacer.pcc (u.pc + 4) = .ok (u2, w2)) (hd : decodeFirst w = .limm d) :
    v.fetch = .ok (u2, .limm d (BitVec.ofNat 32 w2)) := by
  simp only [State.fetch, hw, hd, hw2]

/-- A fetch whose checks pass, with no line kept: the word that memory holds, and nothing but cached translations differs. -/
theorem State.fetchWord_ok {v : State} {c : Cap} {a : Word} {sp x k : Nat} {cm : Bool} (ha : a.toNat % 4 = 0)
    (hc : c.check a.toNat 4 permExec kindExec = .ok (sp, x)) (hsp : memSpaces.contains sp = true)
    (hk : v.keyOf v.cur v.vd v.sup sp x 4 .exec 0x34 = .ok (k, cm)) (hi : v.icacheOn = false) (hb : v.anyBad k 4 = false) :
    ∃ e, v.fetchWord c a = .ok ({ v with tlb := e }, leNat (v.rd k 4)) := by
  obtain ⟨e, he⟩ := v.walked_frame sp x 4
  refine ⟨e, ?_⟩
  have hline : (v.walked sp x 4).fillLine k = { v with tlb := e } := by simp [State.fillLine, he, hi]
  simp only [State.fetchWord, ha, hc, hsp, hk, hi, hb, hline, bne_self_eq_false, Bool.not_true, Bool.false_eq_true, if_false]

/-- Settles O60: the turn is the Pacer's, which goes on to fetch; what it fetches is what the first word decodes to, LIMM with the second. -/
theorem stepRunsDecoded : Obligations.StepRunsDecoded := by
  intro s turn rest ha hact v c hready hrun hstop hpend hwait hdebug
  have hstep : step s = v.fetchExec :=
    (step_of_pacerTurn ha hact hready).trans (State.pacerTurn_of_quiet hrun hstop hpend hwait hdebug)
  refine ⟨fun u i h => hstep.trans (State.fetchExec_ok h), fun f x h => hstep.trans (State.fetchExec_error h),
    fun u w i more hw hlt hd hi => State.fetch_one hw (decodeFirst_of_decode hlt hd hi), fun u w u2 w2 d n hw hw2 hlt hlt2 hd => ?_,
    fun sp x k cm hpc hc hsp hk hi hb => ?_⟩
  · obtain ⟨hf, rfl⟩ := decodeFirst_of_decode_limm hlt hlt2 hd
    exact State.fetch_limm hw hw2 hf
  · obtain ⟨e, he⟩ := State.fetchWord_ok hpc hc hsp hk hi hb
    exact ⟨_, he, rfl, rfl⟩

end Sys2Proof.Machine

/-! # Proofs: the rules of a region's slots, engines and configurations -/

namespace Sys2Proof.Machine

open Sys2Proof Sys2Proof.Claims

/-! ### Finite maps -/

/-- A map in which every record changes by its key. -/
theorem AMap.find_mapKV {α : Type} (m : AMap α) (f : Nat → α → α) (k : Nat) :
    AMap.find (m.map (fun p => (p.1, f p.1 p.2))) k = (AMap.find m k).map (f k) := by
  induction m with
  | nil => rfl
  | cons p m ih =>
    simp only [List.map_cons, AMap.find]
    split
    · next h => rw [h]; rfl
    · exact ih

/-! ### Slots (R110, R112) -/

@[simp] theorem Region.setSlot_slot (g : Region) (k : Nat) (x : Slot) : (g.setSlot k x).slot k = x := AMap.findD_put_same _ _ _ _

theorem Region.setSlot_slot_other (g : Region) {k j : Nat} (x : Slot) (h : j ≠ k) : (g.setSlot k x).slot j = g.slot j :=
  AMap.findD_put_other _ _ _ h

theorem Region.slot_of_find_none {g : Region} {k : Nat} (h : (AMap.find g.slots k).isSome = false) : g.slot k = Slot.empty := by
  rw [Region.slot, AMap.findD, Option.isSome_eq_false_iff.1 h |> Option.isNone_iff_eq_none.1]
  rfl

/-! ### Engines (R115) -/

@[simp] theorem Region.setEngine_engine (g : Region) (se : Nat) (e : Engine) : (g.setEngine se e).engine se = e := AMap.findD_put_same _ _ _ _

theorem Region.setEngine_engine_other (g : Region) {se j : Nat} (e : Engine) (h : j ≠ se) : (g.setEngine se e).engine j = g.engine j :=
  AMap.findD_put_other _ _ _ h

@[simp] theorem Region.setEngine_slots (g : Region) (se : Nat) (e : Engine) : (g.setEngine se e).slots = g.slots := rfl
@[simp] theorem Region.setEngine_slot (g : Region) (se : Nat) (e : Engine) (k : Nat) : (g.setEngine se e).slot k = g.slot k := rfl
@[simp] theorem Region.setEngine_insts (g : Region) (se : Nat) (e : Engine) : (g.setEngine se e).insts = g.insts := rfl
@[simp] theorem Region.setEngine_pacer (g : Region) (se : Nat) (e : Engine) : (g.setEngine se e).pacer = g.pacer := rfl

/-! ### The current region -/

@[simp] theorem State.onRegion_cur_eq (s : State) (f : Region → Region) : s.onRegion s.cur f = s.onReg f := rfl

theorem State.here_onReg (s : State) (f : Region → Region) : s.here (s.onReg f) := s.here_setReg _

theorem State.here_onRegion (s : State) (f : Region → Region) : s.here (s.onRegion s.cur f) := s.here_setReg _

/-! ### Faults of the Field (R127) -/

/-- A fault that freezes the Field, of the current region. -/
theorem State.fieldFaulted_pendFault (s : State) (c : Byte) (v : Word) : s.fieldFaulted (s.pendFault s.cur c v true) c v := by
  refine ⟨s.here_setReg _, ?_⟩
  have hr : (s.pendFault s.cur c v true).reg = s.reg.pendFault s.now c v true := s.setRegion_same s.cur _
  rw [hr]
  cases hp : s.reg.pend with
  | none => simp [Region.pendFault, hp]
  | some g => simp [Region.pendFault, hp]

/-- A fault of an engine without a detail. -/
theorem State.fieldFaulted_engineFault (s : State) (se : Nat) (c : Byte) : s.fieldFaulted (s.engineFault s.cur se c none) c (BitVec.ofNat 64 se) := by
  have h : s.engineFault s.cur se c none = s.pendFault s.cur c (BitVec.ofNat 64 se) true := by
    unfold State.engineFault Region.engineFault State.pendFault
    cases s.reg.pend <;> rfl
  exact h ▸ s.fieldFaulted_pendFault c _

end Sys2Proof.Machine
/-! # Proofs: the configuration cache (O30) -/

namespace Sys2Proof.Machine

open Sys2Proof Sys2Proof.Claims

theorem State.exec_cacheSoftError {s : State} {k : Nat} (h : (AMap.find s.reg.slots k).isSome = true) :
    exec (.cacheSoftError k) s = .next (s.onReg (fun g => g.setSlot k { g.slot k with block := none })) := by
  show execCacheSoftError k s = _
  rw [execCacheSoftError, if_pos h]

/-- A refetch of a stored block that is read, and that passes its checks. -/
theorem State.refetch_ok {s s1 : State} {r k : Nat} {b : Block} {bytes : List Byte} (hb : ((s.region r).slot k).block = none)
    (hst : ((s.region r).slot k).stored = true) (hread : s.readBlock ((s.region r).slot k).store = .ok (s1, b, bytes))
    (hchk : blockFault b bytes (some (((s.region r).slot k).blkid, ((s.region r).slot k).crc)) = none) :
    s.refetch r k = (s1.onRegion r (fun g => g.setSlot k { g.slot k with block := some b }), true) := by
  simp [State.refetch, hb, hst, hread, hchk]

theorem State.exec_configRefetch {s : State} {k : Nat} (hf : s.reg.frozen = false) (hw : ∃ se < 8, (s.reg.engine se).waiting k = true) :
    exec (.configRefetch k) s = .next (s.refetch s.cur k).1 := by
  show execConfigRefetch k s = _
  have hany : (List.range 8).any (fun se => (s.reg.engine se).waiting k) = true := by
    simpa only [List.any_eq_true, List.mem_range] using hw
  simp only [execConfigRefetch, hf, hany, Bool.not_false, Bool.and_self, if_true]

/-- Settles O30: the step of each row, and of the refetch the outcome of a block that is read and passes its checks. -/
theorem configurationCache : Obligations.ConfigurationCache := by
  refine ⟨fun s k hk => ⟨_, State.exec_cacheSoftError hk, s.here_onReg _, by rw [State.onReg_reg]; rfl, fun j => ?_⟩,
    fun s k s1 b bytes hf hw hb hst hread hchk => ⟨_, ?_, rfl⟩⟩
  · rw [State.onReg_reg]
    split
    · next h => rw [h, Region.setSlot_slot]
    · next h => exact Region.setSlot_slot_other _ _ h
  · exact (State.exec_configRefetch hf hw).trans (congrArg (fun x : State × Bool => Host.Outcome.next x.1) (State.refetch_ok hb hst hread hchk))

end Sys2Proof.Machine

/-! # Proofs: runs of the controller (O32) -/

namespace Sys2Proof.Machine

open Sys2Proof Sys2Proof.Claims

/-- A run may start its next iteration: one that is not over, whose node has a place for it. -/
theorem Ctl.mayIterate_idle {c : Ctl} {x : CtlRun} (hflight : x.flight = []) (hn : x.next < (c.node x.node).iters)
    (hd : (c.node x.node).kind = .pipe → 0 < (c.node x.node).depth) : c.mayIterate x = true := by
  cases hk : (c.node x.node).kind with
  | pipe => simp [Ctl.mayIterate, hk, hn, hflight, hd hk]
  | seq => simp [Ctl.mayIterate, hk, hn, hflight]
  | strm => simp [Ctl.mayIterate, hk, hn, hflight]

section
variable {c : Ctl} {x : CtlRun} (hruns : c.runs = [x]) (hflight : x.flight = [])
include hruns hflight

theorem Ctl.finish_last (hn : (c.node x.node).iters ≤ x.next) (hpar : x.parent = none) (hstack : c.stack = []) :
    c.finish = some { c with runs := [], nodes := [] } := by
  simp [Ctl.finish, hruns, hflight, hn, hpar, hstack]

theorem Ctl.finish_none (hkids : (c.node x.node).kids ≠ []) (hn : x.next < (c.node x.node).iters) : c.finish = none := by
  simp [Ctl.finish, hruns, hflight, hn, hkids]

variable {s : State} {r : Nat} (hf : (s.region r).frozen = false) (hc : (s.region r).ctl = c)
include hf hc

/-- The controller whose only run has nothing in flight ends that run, if it is over. -/
theorem State.controller_finish {d : Ctl} (h : c.finish = some d) : s.controller r = s.onRegion r (fun g => { g with ctl := d }) := by
  simp [State.controller, hf, hc, hruns, hflight, h]

/-- It starts the run's next iteration, if it is not over. -/
theorem State.controller_iterate (h : c.finish = none) (hit : c.mayIterate x = true) :
    s.controller r = s.onRegion r (fun g => { g with ctl := { c with
      runs := [{ x with flight := [(x.next, (c.node x.node).kids.map (fun _ => KidSt.waiting))], next := x.next + 1 }] } }) := by
  simp [State.controller, hf, hc, hruns, hflight, h, hit]

end

/-- Settles O32: a run whose flight is empty has no iteration to end and no child to start; the controller ends it, or starts its next iteration. -/
theorem controllerRuns : Obligations.ControllerRuns := by
  intro s x c n hf hruns hflight hkids
  refine ⟨fun hn hd => ?_, fun hn hpar hstack => ?_⟩
  · have he := State.controller_iterate hruns hflight hf rfl (Ctl.finish_none hruns hflight hkids hn) (Ctl.mayIterate_idle hflight hn hd)
    exact ⟨_, congrArg Host.Outcome.next he, s.here_onRegion _, s.onRegion_same _ _⟩
  · have he := State.controller_finish hruns hflight hf rfl (Ctl.finish_last hruns hflight hn hpar hstack)
    exact ⟨_, congrArg Host.Outcome.next he, s.here_onRegion _, s.onRegion_same _ _⟩

end Sys2Proof.Machine

/-! # Proofs: routers and rounds (O28) -/

namespace Sys2Proof.Machine

open Sys2Proof Sys2Proof.Claims

/-! ### Routers (R103) -/

theorem LinkSt.move_free {l : LinkSt} {t : Token} {b : List Token} (hb : l.buf = t :: b) (hq : l.q.length < l.slots) (stamp : Nat) :
    l.move stamp = { l with q := l.q ++ [{ t with stamp := stamp }], buf := b } := by
  simp [LinkSt.move, hb, hq]

/-- A link of the oldest configuration moves its token. -/
theorem moveLink_first {i : Inst} (rest : List Inst) {n stamp : Nat} (h : n < i.links.length) :
    moveLink stamp (i :: rest) n = { i with links := i.links.set n (i.links[n].move stamp) } :: rest := by
  rw [moveLink, if_pos h, List.modify_eq_set_getElem?]
  simp [h]

theorem State.exec_routerMove {s : State} (hf : s.reg.frozen = false) (n : Nat) :
    exec (.routerMove n) s = .next (s.onReg (fun g => { g with insts := moveLink s.stamp g.insts n })) := by
  show execRouterMove n s = _
  simp [execRouterMove, hf]

theorem State.exec_routerMove_frozen {s : State} (hf : s.reg.frozen = true) (n : Nat) : exec (.routerMove n) s = .next s := by
  show execRouterMove n s = _
  simp [execRouterMove, hf]

/-! ### Rounds (R115, R116, R317) -/

theorem State.roundStart_frozen {s : State} {r : Nat} (hf : (s.region r).frozen = true) (se : Nat) : s.roundStart r se = s := by
  unfold State.roundStart
  dsimp only
  split
  · split
    · rfl
    · rw [if_pos hf]
  · rfl

section
variable {s : State} {r se k n : Nat} {rest : List (Nat × Nat)} {reg : RoundReg} (hf : (s.region r).frozen = false)
  (hr : ((s.region r).engine se).round = none) (hc : ((s.region r).engine se).cmds = (k, n) :: rest)
  (hreg : (((s.region r).engine se).slot k).reg = some reg)
include hf hr hc hreg

/-- The parameters that are due at the next round of engine se for slot k. -/
def Region.dueParms (g : Region) (se k : Nat) : List Parm :=
  ((g.engine se).slot k).parms.takeWhile (fun p => p.after ≤ ((g.engine se).slot k).started)

/-- Engine se has begun a round of slot k under a round register. -/
def Engine.begun (e : Engine) (k : Nat) (due : List Parm) (reg : RoundReg) (cmds : List (Nat × Nat)) : Engine :=
  { e.setSlot k { e.slot k with reg := some reg, parms := (e.slot k).parms.drop due.length, started := (e.slot k).started + 1 } with
    cmds := cmds, round := some { slot := k, reg := reg, i := 0, todo := [], look := none, stores := 0, ended := false } }

theorem State.roundStart_begins (hok : (((s.region r).dueParms se k).foldl RoundReg.take reg).startOk = true) :
    s.roundStart r se = s.onRegion r (fun g => g.setEngine se (((s.region r).engine se).begun k ((s.region r).dueParms se k)
      (((s.region r).dueParms se k).foldl RoundReg.take reg) (if n ≤ 1 then rest else (k, n - 1) :: rest))) := by
  simp only [Region.dueParms] at hok ⊢
  simp only [State.roundStart, hr, hc, hreg, hf, hok, Bool.not_true, Bool.false_eq_true, if_false]
  rfl

theorem State.roundStart_faults (hok : (((s.region r).dueParms se k).foldl RoundReg.take reg).startOk = false) :
    s.roundStart r se = s.engineFault r se 0x61 none := by
  simp only [Region.dueParms] at hok
  simp only [State.roundStart, hr, hc, hreg, hf, hok, Bool.not_false, Bool.false_eq_true, if_false, if_true]

end

/-- Settles O28: a router's move and the start of a round, each by its own equation. -/
theorem routersAndRounds : Obligations.RoutersAndRounds := by
  refine ⟨?_, fun s n hf => ⟨State.exec_routerMove_frozen hf n, congrArg Host.Outcome.next (State.roundStart_frozen hf n)⟩, ?_⟩
  · intro s n i rest t b hf hi h hb l hq
    refine ⟨_, State.exec_routerMove hf n, s.here_onReg _, ?_⟩
    rw [State.onReg_reg, hi, moveLink_first rest h, LinkSt.move_free hb hq]
  · intro s se k n rest reg e es due hf hr hc hreg
    refine ⟨fun hok => ?_, fun hok => ?_⟩
    · refine ⟨_, congrArg Host.Outcome.next (State.roundStart_begins hf hr hc hreg hok), s.here_onRegion _, ?_⟩
      rw [State.onRegion_cur_eq, State.onReg_reg]
      refine ⟨?_, ?_, rfl, rfl, rfl, fun j hj => Region.setEngine_engine_other _ _ hj⟩ <;> rw [Region.setEngine_engine] <;> rfl
    · exact ⟨_, congrArg Host.Outcome.next (State.roundStart_faults hf hr hc hreg hok), s.fieldFaulted_engineFault se 0x61⟩

end Sys2Proof.Machine

/-! # Proofs: firings of the Field's elements (O24) -/

namespace Sys2Proof.Machine

open Sys2Proof Sys2Proof.Claims

/-! ### Markers and the oldest configuration that can fire (R101, R127, R135) -/

/-- Where no input owes a marker, none is met. -/
theorem State.marks_of_none_owed {s : State} {r : Nat} (h : (s.region r).snap.owed = []) (fuel : Nat) : s.marks r fuel = s := by
  cases fuel with
  | zero => rfl
  | succ fuel => simp [State.marks, h]

theorem State.fireFirst_frozen {s : State} {r : Nat} (hf : (s.region r).frozen = true) (hat : (s.region r).frozeAt ≠ some s.now)
    (elem : Inst → Option Nat) (side : Option Bool) : s.fireFirst r elem side = s := by
  simp [State.fireFirst, hf, hat]

section
variable {s : State} {r : Nat} {i : Inst} {rest : List Inst} {elem : Inst → Option Nat} {e : Nat} {side : Option Bool}
  (hf : (s.region r).frozen = false) (hi : (s.region r).insts = i :: rest) (he : elem i = some e)
include hf hi he

/-- The element of the oldest configuration fires, with those that must fire with it. -/
theorem State.fireFirst_commits {ps : List Pick} (h : s.firing r i e side = .ok (some ps)) : s.fireFirst r elem side = s.commit r i ps := by
  simp [State.fireFirst, hf, hi, he, State.fireIn, h]

/-- A fault that its tokens raise is that of the element that raises it. -/
theorem State.fireFirst_faults {x : Nat} {c : Byte} (h : s.firing r i e side = .error (x, c)) :
    s.fireFirst r elem side = s.elemFault r i.slot x c := by
  simp [State.fireFirst, hf, hi, he, State.fireIn, h]

end

theorem Inst.elemAt_some {i : Inst} {kind op e : Nat} (he : e < i.block.elems.length) (hk : (i.block.el e).kind = kind)
    (ho : (i.block.el e).op = op) : i.elemAt kind op e = some e := by
  simp [Inst.elemAt, he, hk, ho]

/-! ### A runtime fault of an element (R127, R295) -/

/-- The low byte of an element fault's TVAL is not above the element's index. -/
theorem elemTval_lt {e x : Nat} (h : e < x) (slot : Nat) : (BitVec.ofNat 64 (e + slot * 256)).toNat % 256 < x := by
  rw [BitVec.toNat_ofNat]
  omega

theorem State.onRegion_onRegion (s : State) (f g : Region → Region) :
    (s.onRegion s.cur f).onRegion s.cur g = s.onReg (fun r => g (f r)) := s.onReg_twice f g

/-- A fault of an element, of the current region: the first that is pending; one that another is pending before; and one that arose in the fc of
that other one, at an element of lower index. -/
theorem State.fieldFaulted_elemFault (s : State) (slot e : Nat) (c : Byte) :
    s.fieldFaulted (s.elemFault s.cur slot e c) c (BitVec.ofNat 64 (e + slot * 256)) := by
  unfold State.elemFault State.pendFault
  cases hp : (s.region s.cur).pend with
  | none =>
    have hp' : s.reg.pend = none := hp
    simp only [State.onRegion_onRegion]
    exact ⟨s.here_onReg _, by simp [Region.pendFault, hp']⟩
  | some p =>
    have hp' : s.reg.pend = some p := hp
    dsimp only
    split
    · next hx =>
      obtain ⟨x, hx, hlow⟩ := Option.any_eq_true _ _ |>.1 hx
      obtain ⟨hnow, hlt⟩ : x.2 = s.now ∧ e < x.1 := by simpa using hlow
      rw [State.onRegion_onRegion]
      refine ⟨s.here_onReg _, by simp [Region.pendFault, hp'], by simp [Region.pendFault, hp'], _, by rw [State.onReg_reg], ?_⟩
      rw [hp']
      exact ⟨rfl, .inr ⟨rfl, rfl, x.1, hnow ▸ hx, elemTval_lt hlt slot⟩⟩
    · exact s.fieldFaulted_pendFault c _

/-! ### The rows of elements (R214) -/

theorem exec_elemTable : ∀ p ∈ elemTable, ∀ e s, exec (p.1 e) s = s.elemStep p.2.1 p.2.2 e := by
  simp only [elemTable, List.cons_append, List.nil_append, List.forall_mem_cons, List.not_mem_nil, false_imp_iff, implies_true, and_true]
  and_intros <;> intros <;> rfl

/-- The step of an element where no input owes a marker. -/
theorem exec_elem {p : (Nat → Instr) × Nat × Nat} (hp : p ∈ elemTable) {s : State} (hm : s.reg.snap.owed = []) (e : Nat) :
    exec (p.1 e) s = .next (s.fireFirst s.cur (·.elemAt p.2.1 p.2.2 e) none) := by
  rw [exec_elemTable p hp, State.elemStep, State.marks_of_none_owed hm]

theorem elementsFire : ElementsFire := by
  intro p hp s e i rest hf hm hi he hk ho
  have hat := Inst.elemAt_some he hk ho
  refine ⟨fun ps h => ?_, fun x c h => ⟨_, ?_, s.fieldFaulted_elemFault i.slot x c⟩⟩
  · exact (exec_elem hp hm e).trans (congrArg Host.Outcome.next (State.fireFirst_commits hf hi hat h))
  · exact (exec_elem hp hm e).trans (congrArg Host.Outcome.next (State.fireFirst_faults hf hi hat h))

theorem frozenFieldRests : FrozenFieldRests := by
  intro p hp s e hf hat hm
  exact (exec_elem hp hm e).trans (congrArg Host.Outcome.next (State.fireFirst_frozen hf hat _ _))

/-- Settles O24: where no marker is owed, the step of a row of the table is a firing of the oldest configuration, its fault, or in a frozen Field nothing. -/
theorem fieldFirings : Obligations.FieldFirings := ⟨elementsFire, frozenFieldRests⟩

/-! # Proofs: the units of address generators (O26) -/

theorem exec_agTable : ∀ p ∈ agTable, ∀ se fetch s, exec (p.1 se fetch) s = .next ((s.marks s.cur 300).agStep p.2 se fetch) := by
  simp only [agTable, List.forall_mem_cons, List.not_mem_nil, false_imp_iff, implies_true, and_true]
  and_intros <;> intros <;> rfl

section
variable {p : (Nat → Bool → Instr) × Nat} (hp : p ∈ agTable) {s : State} (hm : s.reg.snap.owed = []) (se : Nat)
include hp hm

/-- The engine's step reads for its round where it can. -/
theorem completes_ag_read (h : s.engineRead s.cur se p.2 ≠ s) : Completes (p.1 se true) s (s.engineRead s.cur se p.2) := by
  refine (exec_agTable p hp se true s).trans (congrArg Host.Outcome.next ?_)
  simp [State.marks_of_none_owed hm, State.agStep, h]

/-- Where it reads nothing, its element takes in an index, a position or a parameter. -/
theorem completes_ag_fetch (h : s.engineRead s.cur se p.2 = s) : Completes (p.1 se true) s (s.fireFirst s.cur (·.agOf se p.2) (some false)) := by
  refine (exec_agTable p hp se true s).trans (congrArg Host.Outcome.next ?_)
  simp [State.marks_of_none_owed hm, State.agStep, h]

/-- The Field's step passes a token between the engine and the Field. -/
theorem completes_ag_field : Completes (p.1 se false) s (s.fireFirst s.cur (·.agOf se p.2) (some true)) := by
  refine (exec_agTable p hp se false s).trans (congrArg Host.Outcome.next ?_)
  simp [State.marks_of_none_owed hm, State.agStep]

end

/-- Settles O26: the engine's side of the step first, then the firing of its element in the oldest configuration. -/
theorem addressGenerators : Obligations.AddressGenerators := by
  intro p hp s se hf hm
  refine ⟨completes_ag_read hp hm se, fun e i rest ps hi he => ⟨fun h => ?_, fun h hread => ?_⟩⟩
  · exact State.fireFirst_commits (elem := (·.agOf se p.2)) hf hi he h ▸ completes_ag_field hp hm se
  · exact State.fireFirst_commits (elem := (·.agOf se p.2)) hf hi he h ▸ completes_ag_fetch hp hm se hread

end Sys2Proof.Machine

/-! # Proofs: what requests at their ports leave of the regions (R167, R177) -/

namespace Sys2Proof.Machine

open Sys2Proof Sys2Proof.Claims

/-- Of the regions nothing but the waits of their Pacers differs between s and t, and the turn is the same region's. -/
structure State.OnlyWaits (s t : State) : Prop where
  cur : t.cur = s.cur
  region : ∀ r, ∃ w, t.region r = { s.region r with wait := w }

theorem State.OnlyWaits.refl (s : State) : s.OnlyWaits s := ⟨rfl, fun r => ⟨(s.region r).wait, rfl⟩⟩

theorem State.OnlyWaits.trans {s t u : State} (h1 : s.OnlyWaits t) (h2 : t.OnlyWaits u) : s.OnlyWaits u := by
  refine ⟨h2.cur.trans h1.cur, fun r => ?_⟩
  obtain ⟨w, hw⟩ := h1.region r
  obtain ⟨v, hv⟩ := h2.region r
  exact ⟨v, by rw [hv, hw]⟩

theorem State.OnlyWaits.of_regions {s t : State} (hc : t.cur = s.cur) (hr : t.regions = s.regions) : s.OnlyWaits t :=
  ⟨hc, fun r => ⟨(s.region r).wait, by rw [State.region, hr]; rfl⟩⟩

/-- The record of the region whose turn it is. -/
theorem State.OnlyWaits.reg {s t : State} (h : s.OnlyWaits t) : ∃ w, t.reg = { s.reg with wait := w } := by
  rw [State.reg, h.cur]
  exact h.region s.cur

theorem Region.Woken.wait {g h : Region} (w : g.Woken h) : ∃ x, h = { g with wait := x } := by
  rcases w with rfl | ⟨_, rfl⟩
  · exact ⟨h.wait, rfl⟩
  · exact ⟨_, rfl⟩

theorem State.Wrote.onlyWaits {s t : State} (h : s.Wrote t) : s.OnlyWaits t := ⟨h.cur, fun r => (h.woken r).wait⟩

theorem State.onlyWaits_foldl {α : Type} {f : State → α → State} (hf : ∀ (s : State) (a : α), s.OnlyWaits (f s a)) (l : List α) :
    ∀ s : State, s.OnlyWaits (l.foldl f s) := by
  induction l with
  | nil => exact .refl
  | cons a l ih => exact fun s => (hf s a).trans (ih (f s a))

/-! ### Responses and reports -/

theorem State.onlyWaits_dropReq (s : State) (q : Req) : s.OnlyWaits (s.dropReq q) := .of_regions rfl rfl
theorem State.onlyWaits_respond (s : State) (q : Req) (bs : List Byte) (f : Bool) : s.OnlyWaits (s.respond q bs f) := .of_regions rfl rfl
theorem State.onlyWaits_report (s : State) (q : Req) (c : Byte) : s.OnlyWaits (s.report q c) := .of_regions rfl rfl

theorem State.onlyWaits_finish (s : State) (q : Req) : s.OnlyWaits (s.finish q) := by
  unfold State.finish
  split
  · exact s.onlyWaits_respond _ _ _
  · exact .refl s

theorem State.onlyWaits_pacerWait (s : State) (i : Issuer) (w : Wait) : s.OnlyWaits (s.pacerWait i w) := by
  unfold State.pacerWait
  split
  · next r =>
    refine ⟨rfl, fun j => ?_⟩
    by_cases hj : j = r
    · subst hj
      exact ⟨w, State.onRegion_same _ _ _⟩
    · exact ⟨(s.region j).wait, State.onRegion_other _ _ hj⟩
  · exact .refl s

theorem State.onlyWaits_answer {s : State} (q : Req) {r : Except Byte State} (h : ∀ t, r = .ok t → s.OnlyWaits t) : s.OnlyWaits (s.answer q r) := by
  unfold State.answer
  split
  · exact s.onlyWaits_report _ _
  · next t => exact (h t rfl).trans (t.onlyWaits_finish q)

/-! ### Writes, atomics and groups (R148, R275, R276) -/

theorem State.onlyWaits_applyWrite (s : State) (k : Nat) (bs : List (Byte × Byte)) (c : Bool) : s.OnlyWaits (s.applyWrite k bs c) :=
  (s.wrote_applyWrite k bs c).onlyWaits

theorem State.onlyWaits_setFull (s : State) (k : Nat) (v : Bool) : s.OnlyWaits (s.setFull k v) := .of_regions rfl rfl

theorem State.onlyWaits_setTag (s : State) (k : Nat) (v : Bool) : s.OnlyWaits (s.setTag k v) := .of_regions rfl rfl

theorem State.onlyWaits_decls (s : State) (d : AMap Decl) : s.OnlyWaits { s with decls := d } := .of_regions rfl rfl

theorem State.onlyWaits_feAfter (s : State) (k n : Nat) (a : FeAct) : s.OnlyWaits (s.feAfter k n a) := by
  unfold State.feAfter
  split
  · split
    · exact .refl s
    · exact State.onlyWaits_foldl (fun t _ => t.onlyWaits_setFull _ _) _ s
    · exact State.onlyWaits_foldl (fun t _ => t.onlyWaits_setFull _ _) _ s
  · exact .refl s

theorem State.onlyWaits_applyStore (s : State) (q : Req) (bs : List (Byte × Byte)) (fe : FeAct) : s.OnlyWaits (s.applyStore q bs fe) := by
  unfold State.applyStore
  refine iteInduction (fun _ => s.onlyWaits_report _ _) fun _ => ?_
  generalize (if fe == .waitEmpty then s.metaFault q.key else none).or (s.refuses q.key bs q.cmpr 1) = refusal
  cases refusal with
  | some c => exact s.onlyWaits_report _ _
  | none => exact ((s.onlyWaits_applyWrite _ _ _).trans (State.onlyWaits_feAfter _ _ _ _)).trans (State.onlyWaits_finish _ q)

theorem State.onlyWaits_atomicAt {s t : State} {k n old : Nat} {c : Bool} {f : Nat → Nat} (h : s.atomicAt k n c f = .ok (t, old)) : s.OnlyWaits t := by
  unfold State.atomicAt at h
  dsimp only at h
  split at h
  · cases h
  · cases h
    exact s.onlyWaits_applyWrite _ _ _

theorem State.onlyWaits_redStep (s : State) (q : Req) (op : RedOp) (n : Nat) (rm : BitVec 3) (v : Word) : s.OnlyWaits (s.redStep q op n rm v) := by
  unfold State.redStep
  split
  · exact s.onlyWaits_report _ _
  · next t _ h => exact (State.onlyWaits_atomicAt h).trans (t.onlyWaits_finish q)

theorem State.onlyWaits_groups (s : State) (gs : List Group) : s.OnlyWaits { s with groups := gs } := .of_regions rfl rfl

theorem State.onlyWaits_runGroup (key fuel : Nat) : ∀ s : State, s.OnlyWaits (s.runGroup key fuel) := by
  induction fuel with
  | zero => exact .refl
  | succ fuel ih =>
    intro s
    unfold State.runGroup
    split
    · exact .refl s
    · split
      · exact .of_regions rfl rfl
      · split
        · exact .refl s
        · refine State.OnlyWaits.trans ?_ (ih _)
          split
          · exact (s.onlyWaits_groups _).trans (State.onlyWaits_redStep _ _ _ _ _ _)
          · exact .of_regions rfl rfl

theorem State.onlyWaits_applyOrd {s t : State} {q : Req} {rank n : Nat} (h : s.applyOrd q rank n = some t) : s.OnlyWaits t := by
  unfold State.applyOrd at h
  split at h
  · split at h
    · cases h
      exact s.onlyWaits_report _ _
    · cases h
      exact (s.onlyWaits_groups _).trans (State.onlyWaits_runGroup _ _ _)
  · split at h
    · cases h
    · cases h
      exact (s.onlyWaits_groups _).trans (State.onlyWaits_runGroup _ _ _)

/-! ### Sync objects (R278 to R282, R286) -/

theorem ok_of_map {ε α β : Type} {r : Except ε α} {f : α → β} {b : β} (h : r.map f = .ok b) : ∃ a, r = .ok a ∧ f a = b := by
  cases r with
  | error e => cases h
  | ok a => exact ⟨a, rfl, Except.ok.inj h⟩

theorem ok_of_bind {ε α β : Type} {r : Except ε α} {f : α → Except ε β} {b : β} (h : r.bind f = .ok b) : ∃ a, r = .ok a ∧ f a = .ok b := by
  cases r with
  | error e => cases h
  | ok a => exact ⟨a, rfl, h⟩

theorem State.onlyWaits_setObj {s t : State} {k a b : Nat} {c : Bool} (h : s.setObj k a b c = .ok t) : s.OnlyWaits t :=
  State.setObj_ok h ▸ s.onlyWaits_applyWrite _ _ _

/-- A sync object's own transaction, and what follows it in the records of its port. -/
theorem State.onlyWaits_setObj_map {α : Type} {s : State} {k a b : Nat} {c : Bool} {f : State → α} {x : α} (h : (s.setObj k a b c).map f = .ok x) :
    ∃ u, s.OnlyWaits u ∧ f u = x := by
  obtain ⟨u, hu, hx⟩ := ok_of_map h
  exact ⟨u, State.onlyWaits_setObj hu, hx⟩

theorem State.onlyWaits_setLive (s : State) (k : Nat) (v : Bool) : s.OnlyWaits (s.setLive k v) := .of_regions rfl rfl

theorem State.onlyWaits_arrive {s t : State} {k n g : Nat} {c : Bool} (h : s.arrive k n c = .ok (t, g)) : s.OnlyWaits t := by
  unfold State.arrive at h
  split at h
  · cases h
  · dsimp only at h
    split at h
    · cases h
    · split at h <;>
      · obtain ⟨u, hu, hx⟩ := State.onlyWaits_setObj_map h
        cases hx
        exact hu

theorem State.onlyWaits_barDrop {s t : State} {k : Nat} {c : Bool} (h : s.barDrop k c = .ok t) : s.OnlyWaits t := by
  unfold State.barDrop at h
  split at h
  · cases h
  · dsimp only at h
    split at h
    · cases h
    · split at h
      · obtain ⟨u, hu, rfl⟩ := State.onlyWaits_setObj_map h
        exact hu.trans (u.onlyWaits_setLive _ _)
      · split at h <;> exact State.onlyWaits_setObj h

theorem State.onlyWaits_acquire (s : State) (q : Req) (region : Nat) (task : BitVec 32) : s.OnlyWaits (s.acquire q region task) := by
  unfold State.acquire
  split
  · exact s.onlyWaits_report _ _
  · dsimp only
    split
    · split
      · exact s.onlyWaits_report _ _
      · next t h => exact (State.onlyWaits_setObj h).trans (t.onlyWaits_respond _ _ _)
    · split
      · split
        · exact s.onlyWaits_report _ _
        · next t h => exact (State.onlyWaits_setObj h).trans (.of_regions rfl rfl)
      · exact s.onlyWaits_pacerWait _ _

theorem State.onlyWaits_releaseBaton {s t : State} {k region : Nat} {task : BitVec 32} {c : Bool} (h : s.releaseBaton k region task c = .ok t) :
    s.OnlyWaits t := by
  unfold State.releaseBaton at h
  split at h
  · cases h
  · dsimp only at h
    split at h
    · cases h
    · split at h
      · obtain ⟨u, hu, rfl⟩ := State.onlyWaits_setObj_map h
        exact hu.trans (.of_regions rfl rfl)
      · exact State.onlyWaits_setObj h

theorem State.onlyWaits_allocBaton (s : State) (q : Req) (scope : Nat) : s.OnlyWaits (s.allocBaton q scope) := by
  unfold State.allocBaton
  split
  · exact s.onlyWaits_report _ _
  · split
    · exact s.onlyWaits_report _ _
    · dsimp only
      split
      · exact s.onlyWaits_respond _ _ _
      · split
        · exact s.onlyWaits_report _ _
        · next t h => exact (State.onlyWaits_setObj h).trans (.of_regions rfl rfl)

theorem State.onlyWaits_freeBaton {s t : State} {k region : Nat} {task : BitVec 32} {c : Bool} (h : s.freeBaton k region task c = .ok t) :
    s.OnlyWaits t := by
  unfold State.freeBaton at h
  split at h
  · cases h
  · split at h
    · cases h
    · split at h
      · cases h
      · split at h
        · cases h
        · obtain ⟨u, hu, rfl⟩ := State.onlyWaits_setObj_map h
          exact hu.trans (.of_regions rfl rfl)

theorem State.onlyWaits_putTask (s : State) (id : Nat) (t : Task) : s.OnlyWaits (s.putTask id t) := .of_regions rfl rfl

theorem State.onlyWaits_onTask (s : State) (id : Nat) (f : Task → Task) : s.OnlyWaits (s.onTask id f) := by
  unfold State.onTask
  split
  · exact .refl s
  · exact s.onlyWaits_putTask _ _

theorem State.onlyWaits_onVd (s : State) (v : Nat) (f : Vd → Vd) : s.OnlyWaits (s.onVd v f) := by
  obtain ⟨x, hx⟩ := s.onVd_frame v f
  exact hx ▸ .of_regions rfl rfl

theorem State.onlyWaits_makeReady (s : State) (id : Nat) : s.OnlyWaits (s.makeReady id) := by
  have hstate : s.OnlyWaits (s.taskState id .ready) := by
    unfold State.taskState
    split
    · exact .refl s
    · exact (s.wrote_writeState _ _).onlyWaits.trans (State.onlyWaits_putTask _ _ _)
  unfold State.makeReady
  dsimp only
  split
  · exact hstate.trans (State.onlyWaits_onTask _ _ _)
  · exact (hstate.trans (State.onlyWaits_onTask _ _ _)).trans (State.onlyWaits_onVd _ _ _)

theorem State.onlyWaits_acceptRun (s : State) (id n : Nat) : s.OnlyWaits (s.acceptRun id n) := by
  unfold State.acceptRun
  split
  · exact .refl s
  · dsimp only
    split
    · split
      · exact (s.onlyWaits_onTask _ _).trans (State.onlyWaits_makeReady _ _)
      · exact s.onlyWaits_onTask _ _
    · exact s.onlyWaits_onTask _ _

theorem State.onlyWaits_post {s t : State} {k : Nat} {c : Bool} (h : s.post k c = .ok t) : s.OnlyWaits t := by
  unfold State.post at h
  split at h
  · cases h
  · split at h
    · cases h
    · split at h
      · cases h
        exact s.onlyWaits_acceptRun _ _
      · dsimp only at h
        split at h
        · cases h
        · exact State.onlyWaits_setObj h

/-! ### APPLY (R167, R176) -/

theorem State.onlyWaits_bankRow {s t : State} {q : Req} {id : Nat} (h : s.bankRow q id = some t) : s.OnlyWaits t := by
  unfold State.bankRow at h
  split at h
  · cases h
    exact .refl s
  · split at h
    · cases h
    · split at h
      · cases h
        exact s.onlyWaits_report _ _
      · split at h
        · cases h
          exact s.onlyWaits_report _ _
        · cases h
          exact s.onlyWaits_respond _ _ _

theorem State.onlyWaits_atomicAt_map {s t : State} {k n : Nat} {c : Bool} {f : Nat → Nat} (h : (s.atomicAt k n c f).map (·.1) = .ok t) : s.OnlyWaits t := by
  obtain ⟨x, hx, rfl⟩ := ok_of_map h
  exact State.onlyWaits_atomicAt hx

/-- What a request that its port serves leaves of the regions, whatever its act is. -/
theorem State.onlyWaits_applyAct {s t : State} {q : Req} (h : s.applyAct q = some t) : s.OnlyWaits t := by
  unfold State.applyAct at h
  cases hact : q.act <;> simp only [hact] at h
  case read n =>
    split at h <;> cases h
    · exact s.onlyWaits_report _ _
    · exact s.onlyWaits_respond _ _ _
  case readFe n take =>
    split_ifs at h <;> cases h
    · exact s.onlyWaits_report _ _
    · exact s.onlyWaits_report _ _
    · exact s.onlyWaits_report _ _
    · exact (s.onlyWaits_setFull _ _).trans (State.onlyWaits_respond _ _ _ _)
    · exact s.onlyWaits_respond _ _ _
  case write bs fe =>
    split at h <;> cases h
    exact s.onlyWaits_applyStore _ _ _
  case writeDone bs =>
    split at h <;> cases h
    · exact s.onlyWaits_report _ _
    · exact (s.onlyWaits_applyWrite _ _ _).trans (State.onlyWaits_respond _ _ _ _)
  case capRead =>
    split_ifs at h <;> cases h
    · exact s.onlyWaits_report _ _
    · exact s.onlyWaits_report _ _
    · exact s.onlyWaits_respond _ _ _
  case capWrite bs tag =>
    split at h
    · cases h
      exact s.onlyWaits_report _ _
    · split_ifs at h <;> cases h
      · exact ((s.onlyWaits_applyWrite _ _ _).trans (State.onlyWaits_setTag _ _ _)).trans (State.onlyWaits_finish _ _)
      · exact (s.onlyWaits_applyWrite _ _ _).trans (State.onlyWaits_finish _ _)
  case amo op size v cmp =>
    split at h <;> cases h
    · exact s.onlyWaits_report _ _
    · next u _ hu => exact (State.onlyWaits_atomicAt hu).trans (u.onlyWaits_respond _ _ _)
  case red op size rm v =>
    cases h
    exact s.onlyWaits_redStep _ _ _ _ _
  case redOrd => exact State.onlyWaits_applyOrd h
  case waitv v =>
    split_ifs at h <;> cases h
    · exact s.onlyWaits_report _ _
    · exact s.onlyWaits_report _ _
    · exact s.onlyWaits_report _ _
    · exact s.onlyWaits_respond _ _ _
    · exact s.onlyWaits_pacerWait _ _
  case barInit count =>
    split at h
    · cases h
      exact s.onlyWaits_report _ _
    · split at h <;> cases h
      · exact s.onlyWaits_report _ _
      · refine s.onlyWaits_answer q fun u hu => ?_
        obtain ⟨x, hx, rfl⟩ := State.onlyWaits_setObj_map hu
        exact hx.trans (x.onlyWaits_setLive _ _)
  case barArrive n =>
    split at h <;> cases h
    · exact s.onlyWaits_report _ _
    · next u _ hu => exact (State.onlyWaits_arrive hu).trans (u.onlyWaits_respond _ _ _)
  case barWait g =>
    split at h
    · cases h
      exact s.onlyWaits_report _ _
    · split at h <;> cases h
      · exact s.onlyWaits_respond _ _ _
      · exact s.onlyWaits_pacerWait _ _
  case barDrop =>
    cases h
    exact s.onlyWaits_answer q fun _ => State.onlyWaits_barDrop
  case batonAlloc scope =>
    cases h
    exact s.onlyWaits_allocBaton _ _
  case batonAcq r task =>
    split at h
    · split at h <;> cases h
      exact s.onlyWaits_acquire _ _ _
    · cases h
      exact s.onlyWaits_acquire _ _ _
  case batonRel r task =>
    cases h
    exact s.onlyWaits_answer q fun _ => State.onlyWaits_releaseBaton
  case batonFree r task =>
    cases h
    exact s.onlyWaits_answer q fun _ => State.onlyWaits_freeBaton
  case trigPost =>
    cases h
    exact s.onlyWaits_answer q fun _ => State.onlyWaits_post
  case derived id idxs =>
    split at h
    · cases h
      exact s.onlyWaits_report _ _
    · split at h <;> cases h
      · exact s.onlyWaits_report _ _
      · exact s.onlyWaits_decls _
  case dsync ids =>
    split at h
    · split at h
      · cases h
        exact s.onlyWaits_respond _ _ _
      · split at h <;> cases h
        · exact s.onlyWaits_report _ _
        · exact s.onlyWaits_decls _
    · cases h
      exact s.onlyWaits_respond _ _ _
  case claim n =>
    split at h
    · cases h
      exact s.onlyWaits_report _ _
    · split at h <;> cases h
      · exact s.onlyWaits_respond _ _ _
      · exact (s.onlyWaits_applyWrite _ _ _).trans (State.onlyWaits_respond _ _ _ _)
  case orBit bit =>
    cases h
    exact s.onlyWaits_answer q fun _ => State.onlyWaits_atomicAt_map
  case failChunk bit cause =>
    cases h
    refine s.onlyWaits_answer q fun u hu => ?_
    split at hu
    · cases hu
    · next v _ hv => exact (State.onlyWaits_atomicAt hv).trans (State.onlyWaits_atomicAt_map hu)
  case wred => cases h
  case combined e v size who =>
    split at h <;> cases h
    · exact State.onlyWaits_foldl (fun u _ => u.onlyWaits_report _ _) _ s
    · next u _ hu =>
      obtain ⟨x, hx, hxu⟩ := ok_of_bind hu
      exact ((State.onlyWaits_atomicAt hx).trans (State.onlyWaits_atomicAt hxu)).trans (u.wrote_written _).onlyWaits
  case bankRow => exact State.onlyWaits_bankRow h

theorem State.onlyWaits_applyReq {s t : State} {q : Req} (h : s.applyReq q = some t) : s.OnlyWaits t := by
  unfold State.applyReq at h
  split at h
  · cases h
    exact (s.onlyWaits_dropReq q).trans (State.onlyWaits_report _ _ _)
  · obtain ⟨u, hu, rfl⟩ := Option.map_eq_some_iff.1 h
    refine ((s.onlyWaits_dropReq q).trans (State.onlyWaits_applyAct hu)).trans ?_
    split
    · exact (u.wrote_deadQueues _).onlyWaits
    · exact .refl u

theorem State.onlyWaits_tryPast (qs : List Req) : ∀ {s t : State} {shut : List Nat}, s.tryPast shut qs = some t → s.OnlyWaits t := by
  induction qs with
  | nil =>
    intro s t shut h
    cases h
  | cons q qs ih =>
    intro s t shut h
    unfold State.tryPast at h
    split at h
    · exact ih h
    · split at h
      · next hq =>
        cases h
        exact State.onlyWaits_applyReq hq
      · exact ih h

theorem State.onlyWaits_flush (sts : List Stage) (p : Port) (fuel : Nat) : ∀ s : State, s.OnlyWaits (s.flush sts p fuel) := by
  induction fuel with
  | zero => exact .refl
  | succ fuel ih =>
    intro s
    unfold State.flush
    split
    · exact .refl s
    · next t h => exact (State.onlyWaits_tryPast _ h).trans (ih t)

/-- What a Pacer finds at the ports of an access (R168): of the regions its earlier requests change nothing but waits. -/
theorem State.onlyWaits_flushFor (s : State) (ps : List Piece) : s.OnlyWaits (s.flushFor ps) :=
  State.onlyWaits_foldl (fun t _ => State.onlyWaits_flush _ _ _ t) ps s

end Sys2Proof.Machine

/-! # Proofs: CFG.LOAD, CFG.EVICT and CFG.QUERY (O19) -/

namespace Sys2Proof.Machine

open Sys2Proof Sys2Proof.Claims

/-! ### A region whose engines all change (R108, R257) -/

/-- Each of the eight engines changed by f. -/
def Region.onEngines (g : Region) (f : Engine → Engine) : Region :=
  (List.range 8).foldl (fun (h : Region) se => h.setEngine se (f (h.engine se))) g

section
variable (f : Engine → Engine)

theorem Region.foldl_setEngine_frame (l : List Nat) : ∀ g : Region,
    ∃ m, l.foldl (fun (h : Region) se => h.setEngine se (f (h.engine se))) g = { g with engines := m } := by
  induction l with
  | nil => exact fun g => ⟨g.engines, rfl⟩
  | cons a l ih => exact fun g => ih (g.setEngine a (f (g.engine a)))

theorem Region.foldl_setEngine_other {j : Nat} (l : List Nat) : ∀ g : Region, j ∉ l →
    (l.foldl (fun (h : Region) se => h.setEngine se (f (h.engine se))) g).engine j = g.engine j := by
  induction l with
  | nil => exact fun _ _ => rfl
  | cons a l ih =>
    intro g hj
    rw [List.foldl_cons, ih _ (fun h => hj (List.mem_cons_of_mem _ h)), Region.setEngine_engine_other _ _ (fun h => hj (List.mem_cons.2 (.inl h)))]

theorem Region.foldl_setEngine_mem {j : Nat} (l : List Nat) : ∀ g : Region, l.Nodup → j ∈ l →
    (l.foldl (fun (h : Region) se => h.setEngine se (f (h.engine se))) g).engine j = f (g.engine j) := by
  induction l with
  | nil => exact fun _ _ h => absurd h List.not_mem_nil
  | cons a l ih =>
    intro g hl hj
    obtain ⟨ha, hl⟩ := List.nodup_cons.1 hl
    rw [List.foldl_cons]
    by_cases h : j = a
    · subst h
      rw [Region.foldl_setEngine_other f l _ ha, Region.setEngine_engine]
    · rw [ih _ hl ((List.mem_cons.1 hj).resolve_left h), Region.setEngine_engine_other _ _ h]

theorem Region.onEngines_frame (g : Region) : ∃ m, g.onEngines f = { g with engines := m } := Region.foldl_setEngine_frame f _ g

theorem Region.onEngines_engine (g : Region) {se : Nat} (h : se < 8) : (g.onEngines f).engine se = f (g.engine se) :=
  Region.foldl_setEngine_mem f _ g List.nodup_range (List.mem_range.2 h)

end

/-! ### What a slot loses -/

theorem Region.loseSlot_eq (g : Region) (k : Nat) : g.loseSlot k =
    ({ g with slots := AMap.del g.slots k } : Region).onEngines (fun e => { e.dropSlot k with slots := AMap.del e.slots k }) := rfl

theorem Region.loseSlot_frame (g : Region) (k : Nat) : ∃ m, g.loseSlot k = { g with slots := AMap.del g.slots k, engines := m } := by
  rw [Region.loseSlot_eq]
  exact Region.onEngines_frame _ _

theorem Region.replaceSlot_frame (g : Region) (k : Nat) :
    ∃ m, g.replaceSlot k = { g with slots := AMap.put g.slots k { Slot.empty with ctl := (g.slot k).ctl }, engines := m } :=
  Region.foldl_setEngine_frame (fun e => (e.dropSlot k).setSlot k
    { EngSlot.empty with parms := (e.slot k).dropRounds.parms, started := (e.slot k).started, commanded := (e.slot k).started }) _ _

@[simp] theorem Region.loseSlot_slot (g : Region) (k : Nat) : (g.loseSlot k).slot k = Slot.empty := by
  obtain ⟨m, h⟩ := g.loseSlot_frame k
  rw [h, Region.slot, AMap.findD, AMap.find_del_same]
  rfl

theorem Region.loseSlot_slot_other (g : Region) {k j : Nat} (hj : j ≠ k) : (g.loseSlot k).slot j = g.slot j := by
  obtain ⟨m, h⟩ := g.loseSlot_frame k
  rw [h, Region.slot, AMap.findD, AMap.find_del_other _ hj]
  rfl

@[simp] theorem Region.loseSlot_pacer (g : Region) (k : Nat) : (g.loseSlot k).pacer = g.pacer := by
  obtain ⟨m, h⟩ := g.loseSlot_frame k
  rw [h]

@[simp] theorem Region.loseSlot_pend (g : Region) (k : Nat) : (g.loseSlot k).pend = g.pend := by
  obtain ⟨m, h⟩ := g.loseSlot_frame k
  rw [h]

theorem Region.loseSlot_engSlot (g : Region) (k : Nat) {se : Nat} (h : se < 8) : (g.loseSlot k).engSlot se k = EngSlot.empty := by
  rw [Region.loseSlot_eq, Region.engSlot, Region.onEngines_engine _ _ h, Engine.slot, AMap.findD, AMap.find_del_same]
  rfl

/-! ### The Field of the current region changed, and NextPC -/

/-- The region with another Field. -/
def Region.withField (g h : Region) : Region :=
  { g with slots := h.slots, engines := h.engines, insts := h.insts, ctl := h.ctl, snap := h.snap }

theorem State.reg_onReg_advance (s : State) (f : Region → Region) :
    (s.onReg f).advance.reg = { f s.reg with pacer := (s.onReg f).advance.reg.pacer } := by simp

theorem State.inField_onReg (s : State) {f : Region → Region} (hf : f s.reg = s.reg.withField (f s.reg)) : s.inField (s.onReg f).advance := by
  have hp : (f s.reg).pacer = s.reg.pacer := by rw [hf]; rfl
  refine ⟨s.movedOn_onReg hp, ?_⟩
  rw [State.reg_onReg_advance, hf]
  rfl

theorem State.slot_onReg_advance (s : State) (f : Region → Region) (k : Nat) : (s.onReg f).advance.reg.slot k = (f s.reg).slot k := by
  rw [State.reg_onReg_advance]
  rfl

theorem State.insts_onReg_advance (s : State) (f : Region → Region) : (s.onReg f).advance.reg.insts = (f s.reg).insts := by
  rw [State.reg_onReg_advance]

/-- What a trap entry leaves of the Field. -/
theorem State.entered_slots {s t : State} {c : Byte} {v : Word} (h : s.entered t c v) : t.reg.slots = s.reg.slots ∧ t.reg.engines = s.reg.engines := by
  obtain ⟨-, -, hreg, -⟩ := h
  exact ⟨(congrArg Region.slots hreg :), (congrArg Region.engines hreg :)⟩

/-! ### The outcomes of CFG.LOAD (R256, R257) -/

theorem State.within_le (s : State) (i : Instr) {v : BitVec 5} {n : Nat} (h : v.toNat ≤ n) (k : State → Out) : s.within i v n k = k s := if_pos h

/-- The slot as it takes a block. -/
def Region.loadSlot (k : Nat) (c : Cap) (b : Block) (g : Region) : Region :=
  ({ g.replaceSlot k with insts := g.insts.filter (fun i => i.slot != k) } : Region).setSlot k
    { Slot.empty with stored := true, store := c, blkid := b.blkid, crc := b.crc, block := some b, ctl := (g.slot k).ctl }

theorem Region.loadSlot_eq_withField (k : Nat) (c : Cap) (b : Block) (g : Region) : g.loadSlot k c b = g.withField (g.loadSlot k c b) := by
  obtain ⟨m, h⟩ := g.replaceSlot_frame k
  simp only [Region.loadSlot, h]
  rfl

theorem Region.loadSlot_slot_other (c : Cap) (b : Block) (g : Region) {k j : Nat} (hj : j ≠ k) : (g.loadSlot k c b).slot j = g.slot j := by
  obtain ⟨m, h⟩ := g.replaceSlot_frame k
  simp only [Region.loadSlot, h]
  rw [Region.setSlot_slot_other _ _ hj]
  exact AMap.findD_put_other _ _ _ hj

section
variable {s : State} {ca : CReg} {slot : BitVec 5} (hk : slot.toNat ≤ 7)
include hk

theorem State.exec_cfgLoad_busy (ha : (s.rc ca).cursor.toNat % 16 = 0) (hb : s.reg.armed slot.toNat = true ∨ s.reg.slotBusy slot.toNat = true) :
    exec (.cfgLoad ca slot) s = s.fail0 0x0F (.cfgLoad ca slot) := by
  show execCfgLoad ca slot s = _
  have hor : (s.reg.armed slot.toNat || s.reg.slotBusy slot.toNat) = true := by simpa using hb
  simp only [execCfgLoad, State.within_le _ _ hk, ha, hor, bne_self_eq_false, Bool.false_eq_true, if_false, if_true]

variable (ha : (s.rc ca).cursor.toNat % 16 = 0) (harm : s.reg.armed slot.toNat = false) (hbusy : s.reg.slotBusy slot.toNat = false)
include ha harm hbusy

theorem State.exec_cfgLoad_ok {s1 : State} {b : Block} {bytes : List Byte} (hr : s.readBlock (s.rc ca) = .ok (s1, b, bytes))
    (hc : blockFault b bytes none = none) : exec (.cfgLoad ca slot) s = .next ((s1.onReg (·.loadSlot slot.toNat (s.rc ca) b)).advance) := by
  show execCfgLoad ca slot s = _
  simp only [execCfgLoad, State.within_le _ _ hk, ha, harm, hbusy, hr, hc, bne_self_eq_false, Bool.or_self, Bool.false_eq_true, if_false]
  rfl

theorem State.exec_cfgLoad_bad {s1 : State} {b : Block} {bytes : List Byte} {f : Byte} (hr : s.readBlock (s.rc ca) = .ok (s1, b, bytes))
    (hc : blockFault b bytes none = some f) :
    exec (.cfgLoad ca slot) s = (s1.onReg (·.loseSlot slot.toNat)).fail f (BitVec.ofNat 64 slot.toNat) := by
  show execCfgLoad ca slot s = _
  simp only [execCfgLoad, State.within_le _ _ hk, ha, harm, hbusy, hr, hc, bne_self_eq_false, Bool.or_self, Bool.false_eq_true, if_false]

/-- A port cannot give the block's header: the fault is deferred. -/
theorem State.exec_cfgLoad_port {sp : Nat} {ps : List Piece} {p : Piece} {f : Byte} (hr : s.readBlock (s.rc ca) = .error (f, (s.rc ca).cursor.toNat))
    (hacc : (s.onReg (·.loseSlot slot.toNat)).access (s.rc ca) (s.rc ca).cursor.toNat 16 (permLoad + permEngine) kindRead memSpaces .read = .ok (sp, ps))
    (hp : ((s.onReg (·.loseSlot slot.toNat)).flushFor ps).foundAt ps f = some p) :
    ∃ v, exec (.cfgLoad ca slot) s = ((s.onReg (·.loseSlot slot.toNat)).flushFor ps).deferred f v := by
  refine ⟨((s.onReg (·.loseSlot slot.toNat)).flushFor ps).tvalOf (portOf p.key) (BitVec.ofNat 64 (p.va.toNat / 16 * 16)) f, ?_⟩
  show execCfgLoad ca slot s = _
  have hmod : (s.rc ca).cursor.toNat % 2 ^ 64 = (s.rc ca).cursor.toNat := Nat.mod_eq_of_lt (s.rc ca).cursor.isLt
  simp only [execCfgLoad, State.within_le _ _ hk, ha, harm, hbusy, hr, State.failRead, hmod, hacc, hp, beq_self_eq_true, bne_self_eq_false, Bool.or_self,
    Bool.false_eq_true, if_false, if_true]

end

/-! ### A deferred store fault (R236, R256) -/

theorem Region.pendFault_pend (g : Region) (now : Nat) (c : Byte) (v : Word) (b : Bool) :
    ∃ f, (g.pendFault now c v b).pend = some f ∧ (g.pend = none → f.cause = c) := by
  cases hp : g.pend <;> simp [Region.pendFault, hp]

theorem Region.pendFault_slot (g : Region) (now : Nat) (c : Byte) (v : Word) (b : Bool) (k : Nat) : (g.pendFault now c v b).slot k = g.slot k := by
  cases hp : g.pend <;> simp only [Region.pendFault, hp] <;> rfl

theorem Region.pendFault_pcc (g : Region) (now : Nat) (c : Byte) (v : Word) (b : Bool) : (g.pendFault now c v b).pacer.pcc = g.pacer.pcc := by
  cases hp : g.pend <;> simp only [Region.pendFault, hp]

/-- An instruction that completes with a fault found at its port. -/
theorem State.deferred_spec (s : State) (c : Byte) (v : Word) : ∃ t g, s.deferred c v = .next t ∧ (∀ k, t.reg.slot k = s.reg.slot k) ∧
    t.reg.pend = some g ∧ (s.reg.pend = none → g.cause = c) ∧ t.reg.pacer.pcc = s.reg.pacer.pcc.withCursor s.nextPC := by
  have hreg : (s.pendFault s.cur c v false).reg = s.reg.pendFault s.now c v false := s.onRegion_same _ _
  obtain ⟨g, hg, hcause⟩ := s.reg.pendFault_pend s.now c v false
  refine ⟨_, g, rfl, fun k => ?_, ?_, hcause, ?_⟩
  · rw [← s.reg.pendFault_slot s.now c v false k, ← hreg, State.advance_def, State.onPacer_reg]
    rfl
  · rw [← hg, ← hreg, State.advance_def, State.onPacer_reg]
  · simp [State.pc, State.nextPC, hreg, Region.pendFault_pcc]

/-- A slot that has been emptied is empty after the Pacer's earlier requests have taken effect, and no fault has come. -/
theorem State.flushed_loseSlot (s : State) (k : Nat) (ps : List Piece) : let u := (s.onReg (·.loseSlot k)).flushFor ps
    u.reg.slot k = Slot.empty ∧ u.reg.pend = s.reg.pend ∧ u.reg.pacer = s.reg.pacer := by
  obtain ⟨w, hw⟩ := ((s.onReg (·.loseSlot k)).onlyWaits_flushFor ps).reg
  rw [State.onReg_reg] at hw
  dsimp only
  rw [hw]
  exact ⟨s.reg.loseSlot_slot k, s.reg.loseSlot_pend k, s.reg.loseSlot_pacer k⟩

/-! ### CFG.EVICT and CFG.QUERY (R258, R261) -/

theorem State.exec_cfgEvict {s : State} {slot : BitVec 5} (hk : slot.toNat ≤ 7) (ht : s.reg.inTree slot.toNat = false) :
    exec (.cfgEvict slot) s = .next ((if (AMap.find s.reg.slots slot.toNat).isSome then
      s.onReg (fun g => g.setSlot slot.toNat { g.slot slot.toNat with block := none }) else s).advance) := by
  show execCfgEvict slot s = _
  simp only [execCfgEvict, State.within_le _ _ hk, ht, Bool.false_eq_true, if_false]

theorem State.exec_cfgEvict_inTree {s : State} {slot : BitVec 5} (hk : slot.toNat ≤ 7) (ht : s.reg.inTree slot.toNat = true) :
    exec (.cfgEvict slot) s = s.fail0 0x0F (.cfgEvict slot) := by
  show execCfgEvict slot s = _
  simp only [execCfgEvict, State.within_le _ _ hk, ht, if_true]

theorem State.exec_cfgQuery {s : State} {slot : BitVec 5} (hk : slot.toNat ≤ 7) (d : XReg) :
    exec (.cfgQuery d slot) s = s.ret d (s.reg.status slot.toNat) := by
  show execCfgQuery d slot s = _
  rw [execCfgQuery, State.within_le _ _ hk]

/-- The block's residency ends: nothing else of the slot changes, and nothing at all where the cache has no record of it. -/
theorem State.evicted (s : State) (k : Nat) :
    let t := (if (AMap.find s.reg.slots k).isSome then s.onReg (fun g => g.setSlot k { g.slot k with block := none }) else s).advance
    s.inField t ∧ (∀ j, t.reg.slot j = if j = k then { s.reg.slot k with block := none } else s.reg.slot j) ∧ t.reg.insts = s.reg.insts := by
  dsimp only
  split
  · refine ⟨s.inField_onReg rfl, fun j => ?_, s.insts_onReg_advance _⟩
    rw [State.slot_onReg_advance]
    split
    · next h => rw [h, Region.setSlot_slot]
    · next h => exact Region.setSlot_slot_other _ _ h
  · next hnone =>
    have hslot := Region.slot_of_find_none (Bool.not_eq_true _ ▸ hnone)
    refine ⟨⟨s.movedOn_advance, by simp⟩, fun j => ?_, by simp⟩
    have hj : s.advance.reg.slot j = s.reg.slot j := by rw [State.advance_def, State.onPacer_reg]; rfl
    rw [hj]
    split
    · next h => rw [h, hslot]; rfl
    · rfl

/-- Settles O19: CFG.LOAD by what reading and checking the block give, CFG.EVICT and CFG.QUERY by their equations. -/
theorem configurations : Obligations.Configurations := by
  intro s ca d slot k c hk
  refine ⟨fun s1 b bytes ha harm hbusy hr hc => ?_, fun s1 b bytes f ha harm hbusy hr hc hu => ?_, ?_,
    fun ha hb hu => State.faults_of_exec hu (State.exec_cfgLoad_busy hk ha hb), fun ht => ?_,
    fun ht hu => State.faults_of_exec hu (State.exec_cfgEvict_inTree hk ht), ?_⟩
  · refine ⟨_, State.exec_cfgLoad_ok hk ha harm hbusy hr hc, s1.inField_onReg (Region.loadSlot_eq_withField _ _ _ _), ?_, fun j hj => ?_, ?_⟩
    · rw [State.slot_onReg_advance]
      exact Region.setSlot_slot _ _ _
    · rw [State.slot_onReg_advance]
      exact Region.loadSlot_slot_other _ _ _ hj
    · exact s1.insts_onReg_advance _
  · obtain ⟨t, ht, hin⟩ := (s1.onReg (·.loseSlot k)).fail_entered f (BitVec.ofNat 64 k) (by
      simpa only [State.unmasked, State.onReg_reg, Region.loseSlot_pacer] using hu)
    obtain ⟨hslots, heng⟩ := State.entered_slots hin
    rw [State.onReg_reg] at hslots heng
    have hslot : ∀ j, t.reg.slot j = (s1.reg.loseSlot k).slot j := fun j => by rw [Region.slot, hslots, Region.slot]
    refine ⟨t, (State.exec_cfgLoad_bad hk ha harm hbusy hr hc).trans ht, hin, ?_, fun se hse => ?_, fun j hj => ?_⟩
    · rw [hslot, Region.loseSlot_slot]
    · rw [Region.engSlot, Region.engine, heng]
      exact Region.loseSlot_engSlot _ _ hse
    · rw [hslot, Region.loseSlot_slot_other _ hj]
  · intro sp ps p f u ha harm hbusy hr hacc hp
    obtain ⟨v, hv⟩ := State.exec_cfgLoad_port hk ha harm hbusy hr hacc hp
    obtain ⟨hslot, hpend, hpacer⟩ := s.flushed_loseSlot k ps
    obtain ⟨t, g, ht, hts, htp, hcause, hpcc⟩ := u.deferred_spec f v
    refine ⟨t, g, hv.trans ht, (hts k).trans hslot, htp, fun h => hcause (hpend.trans h), hpcc.trans ?_⟩
    rw [State.nextPC, State.pc, hpacer]
    rfl
  · exact ⟨_, State.exec_cfgEvict hk ht, s.evicted k⟩
  · obtain ⟨t, ht, hw⟩ := s.ret_wroteX d (s.reg.status k)
    exact ⟨t, (State.exec_cfgQuery hk d).trans ht, hw⟩

end Sys2Proof.Machine

/-! # Proofs: what the engines of address generators request (O27) -/

namespace Sys2Proof.Machine

open Sys2Proof Sys2Proof.Claims

/-! ### An engine's access (R141, R144) -/

/-- Translation does not look at the regions: an engine's access is the same while its region keeps its task. -/
theorem State.engPieces_of_here {s u : State} (h : s.here u) (ht : u.reg.task = s.reg.task) (c : Cap) (a n perms kind : Nat) (spaces : List Nat)
    (use : Use) : u.engPieces s.cur c a n perms kind spaces use = s.engPieces s.cur c a n perms kind spaces use := by
  have hu : u = { s with regions := u.regions } := by rw [← h.1]
  have hcur : u.cur = s.cur := by rw [hu]
  have ht' : (u.region s.cur).task = (s.region s.cur).task := by
    have ht2 : (u.region u.cur).task = (s.region s.cur).task := ht
    rwa [hcur] at ht2
  unfold State.engPieces
  rw [ht', hu]
  rfl

/-! ### Requests of an engine enter CQ (R165) -/

/-- The key and effect of a request that is created. -/
def NewReq.effect (r : NewReq) : Nat × Act := (r.key, r.act)

theorem State.enter_spec (s : State) (i : Issuer) (st : Stage) (rs : List NewReq) :
    ∃ qs : List Req, (s.enter i st rs).1 = { s with reqs := s.reqs ++ qs, stamp := s.stamp + rs.length } ∧ (s.enter i st rs).2 = qs.map (·.stamp) ∧
      qs.map (fun q => (q.issuer, q.stage, q.key, q.act)) = rs.map (fun r => (i, st, r.effect.1, r.effect.2)) := by
  refine ⟨_, rfl, rfl, List.ext_getElem (by simp) fun j _ _ => by simp [NewReq.effect]⟩

/-- Requests of engine se enter CQ, and the engine changes with their stamps; u differs from s in the current region at most. -/
theorem State.enter_sends {s u : State} (h : s.here u) (hp : u.reg.pacer = s.reg.pacer) (k se : Nat) (rs : List NewReq) (f : List Nat → Engine → Engine) :
    ∃ qs, let sent := u.enter (.engine s.cur k se) (.cq s.cur k se) rs
      let t := sent.1.onEngine s.cur se (f sent.2)
      engineSends s t k se qs (rs.map NewReq.effect) ∧ t.reg.engine se = f (qs.map (·.stamp)) (u.reg.engine se) := by
  obtain ⟨qs, hst, hids, hqs⟩ := u.enter_spec (.engine s.cur k se) (.cq s.cur k se) rs
  have hu : u = { s with regions := u.regions } := by rw [← h.1]
  have hcur : u.cur = s.cur := by rw [hu]
  have hreqs : u.reqs = s.reqs := by rw [hu]
  have hmem : u.mem = s.mem := by rw [hu]
  refine ⟨qs, ?_⟩
  dsimp only
  rw [hst, hids, State.onEngine, ← hcur, show u.cur = ({ u with reqs := u.reqs ++ qs, stamp := u.stamp + rs.length } : State).cur from rfl,
    State.onRegion_cur_eq]
  refine ⟨⟨?_, ?_, ?_, hmem, fun r hr => ?_⟩, ?_⟩
  · simp [hreqs]
  · rw [hqs, List.map_map]
    rfl
  · rw [State.onReg_reg]
    exact hp
  · exact (State.onReg_other _ _ (hcur ▸ hr)).trans (h.2 r hr)
  · rw [State.onReg_reg, Region.setEngine_engine]
    rfl

/-! ### Reads (R318 to R321) -/

section
variable {s : State} {se : Nat} {e' : Engine} {cap : Cap} {a perms : Nat} {ps : List Piece}

/-- The request for a granule with an effect. -/
def engineReq (p : Piece) (act : Act) : NewReq := { key := p.key, va := p.va, port := portOf p.key, cmpr := p.cmpr, act := act }

/-- A token's read, of an engine that has gone on to its next token. -/
theorem State.issueRead_sends (h : s.engPieces s.cur cap a 256 perms kindRead engSpaces .read = .ok ps) (k mfmt : Nat) (act : Act) (last : Bool) :
    ∃ t qs, (s.onRegion s.cur (fun g => g.setEngine se e')).issueRead s.cur se k cap a perms mfmt act last = .ok t ∧
      engineSends s t k se qs (ps.map (granuleRead act)) ∧ t.reg.engine se =
        { e' with fetches := e'.fetches ++ [{ slot := k, ids := qs.map (·.stamp), got := [], zero := false, last := last, mfmt := mfmt }] } := by
  have hhere : s.here (s.onRegion s.cur (fun g => g.setEngine se e')) := s.here_onRegion _
  have hps := (State.engPieces_of_here hhere (by rw [State.onRegion_cur_eq, State.onReg_reg]; rfl) cap a 256 perms kindRead engSpaces .read).trans h
  obtain ⟨qs, hsends, heng⟩ := State.enter_sends hhere (by rw [State.onRegion_cur_eq, State.onReg_reg]; rfl) k se
    (ps.map (fun p => engineReq p (granuleRead act p).2))
    (fun ids e => { e with fetches := e.fetches ++ [{ slot := k, ids := ids, got := [], zero := false, last := last, mfmt := mfmt }] })
  refine ⟨_, qs, ?_, ?_, heng.trans ?_⟩
  · rw [State.issueRead, hps]
    rfl
  · rw [List.map_map] at hsends
    exact hsends
  · rw [State.onRegion_cur_eq, State.onReg_reg, Region.setEngine_engine]

theorem engineSends_ne {t : State} {k : Nat} {qs : List Req} {acts : List (Nat × Act)} (h : engineSends s t k se qs acts) (hne : acts ≠ []) : t ≠ s := by
  rintro rfl
  obtain ⟨hreqs, hacts, -⟩ := h
  have hq : qs = [] := List.self_eq_append_right.1 hreqs
  rw [hq] at hacts
  exact hne (List.map_eq_nil_iff.1 hacts.symm)

end

section
variable {s t : State} {r se op : Nat} {rd : Round} (hf : (s.region r).frozen = false) (hr : ((s.region r).engine se).round = some rd)
  (hlook : rd.look = none) (hplace : ((s.region r).engine se).place rd.slot = true) (hw : rd.reg.writes = false) (hop : rd.reg.op = op)
include hf hr hlook hplace hw hop

/-- The engine of an RD, RDFE or RING reads its next token, which is not the round's last. -/
theorem State.engineRead_next (h3 : op ≠ 3) (h5 : op ≠ 5) (hlast : rd.i + 1 ≠ rd.reg.count)
    (h : (s.onRegion r (fun g => g.setEngine se { (s.region r).engine se with round := some { rd with i := rd.i + 1 } })).issueRead r se rd.slot rd.reg.cap
      (rd.reg.addr rd.i) (rd.reg.readPerms rd.i).1 rd.reg.mfmt (rd.reg.readPerms rd.i).2 false = .ok t) : s.engineRead r se op = t := by
  have hl : (rd.i + 1 == rd.reg.count) = false := by simpa using hlast
  simp only [State.engineRead, hr, hf, hop, hlook, hw, hplace, h3, h5, hl, bne_self_eq_false, beq_eq_false_iff_ne.2, Bool.or_self, Bool.not_true,
    Bool.false_eq_true, if_false, ne_eq, not_false_eq_true]
  simp only [hlook] at h
  rw [h]

/-- That of a GATHER or SURV reads the next token of its row. -/
theorem State.engineRead_todo {a : Word} {cap : Cap} {rest : List (Option (Word × Cap) × Bool)} (h35 : op = 3 ∨ op = 5)
    (htodo : rd.todo = (some (a, cap), false) :: rest)
    (h : (s.onRegion r (fun g => g.setEngine se { (s.region r).engine se with round := some { rd with todo := rest } })).issueRead r se rd.slot cap a.toNat
      (if op == 5 then permLoad else permLoad + permEngine) rd.reg.mfmt (.read 16) false = .ok t) : s.engineRead r se op = t := by
  have h35' : (op == 3 || op == 5) = true := by simpa using h35
  simp only [State.engineRead, hr, hf, hop, hlook, hw, hplace, h35', htodo, bne_self_eq_false, Bool.or_self, Bool.not_true,
    Bool.false_eq_true, if_false, if_true]
  simp only [hlook] at h
  rw [h]

end

theorem engineReads : EngineReads := by
  intro s se rd e hf hm hr hlook hplace hw keeps
  have hne : ∀ {f : Piece → Nat × Act} {ps : List Piece}, ps ≠ [] → ps.map f ≠ [] := fun h hn => h (List.map_eq_nil_iff.1 hn)
  refine ⟨?_, ?_⟩
  · intro p hp ps
    dsimp only
    intro hop hlast hps hps0
    obtain ⟨hag, h3, h5⟩ : ((fun se f => p.1 se f, p.2) ∈ agTable) ∧ p.2 ≠ 3 ∧ p.2 ≠ 5 := by
      fin_cases hp <;> simp [agTable]
    obtain ⟨t, qs, ht, hsends, heng⟩ := State.issueRead_sends (se := se) (e' := { e with round := some { rd with i := rd.i + 1 } }) hps rd.slot rd.reg.mfmt
      (rd.reg.readPerms rd.i).2 false
    have hread := State.engineRead_next hf hr hlook hplace hw hop h3 h5 hlast ht
    refine ⟨t, qs, ?_, hsends, by rw [heng], by rw [heng]⟩
    exact hread ▸ completes_ag_read hag hm se (hread ▸ engineSends_ne hsends (hne hps0))
  · intro p hp a cap rest ps hop htodo hps hps0
    obtain ⟨hag, h35, hperms⟩ : ((fun se f => p.1 se f, p.2.1) ∈ agTable) ∧ (p.2.1 = 3 ∨ p.2.1 = 5) ∧
        p.2.2 = if p.2.1 == 5 then permLoad else permLoad + permEngine := by
      fin_cases hp <;> simp [agTable]
    rw [hperms] at hps
    obtain ⟨t, qs, ht, hsends, heng⟩ := State.issueRead_sends (se := se) (e' := { e with round := some { rd with todo := rest } }) hps rd.slot rd.reg.mfmt
      (.read 16) false
    have hread := State.engineRead_todo hf hr hlook hplace hw hop h35 htodo ht
    refine ⟨t, qs, ?_, hsends, by rw [heng], by rw [heng]⟩
    exact hread ▸ completes_ag_read hag hm se (hread ▸ engineSends_ne hsends (hne hps0))

/-! ### Stores (R318, R319, R321) -/

/-- The requests of a token's stores. -/
def laneReqs (fe : FeAct) : List Piece → List (Byte × Byte) → List NewReq
  | [], _ => []
  | p :: ps, bs => (if (bs.take p.size).any (fun b => b.2 != 0) then [engineReq p (.write (bs.take p.size) fe)] else []) ++ laneReqs fe ps (bs.drop p.size)

theorem laneReqs_effect (fe : FeAct) (ps : List Piece) (bs : List (Byte × Byte)) : (laneReqs fe ps bs).map NewReq.effect = laneStores fe ps bs := by
  induction ps generalizing bs with
  | nil => rfl
  | cons p ps ih =>
    rw [laneReqs, laneStores, List.map_append, ih]
    split <;> rfl

/-- The stores of a token enter CQ. -/
theorem State.issueStore_ok {s : State} {r : Nat} {cap : Cap} {a perms : Nat} {ps : List Piece}
    (h : s.engPieces r cap a 256 perms kindWrite engSpaces .store = .ok ps) (se k mfmt : Nat) (wait : Bool) (t : Token) :
    let rs := laneReqs (if wait then .waitEmpty else .setFull) ps (tokenBytes mfmt t)
    s.issueStore r se k cap a perms mfmt wait t = .ok ((s.enter (.engine r k se) (.cq r k se) rs).1, rs.length) := by
  have hgo : ∀ (ps : List Piece) (bs : List (Byte × Byte)) (rs : List NewReq),
      (ps.foldl (fun (acc : List NewReq × List (Byte × Byte)) p =>
        (if (acc.2.take p.size).any (fun b => b.2 != 0) then
          acc.1 ++ [{ key := p.key, va := p.va, port := portOf p.key, cmpr := p.cmpr,
                      act := .write (acc.2.take p.size) (if wait then .waitEmpty else .setFull) }]
         else acc.1, acc.2.drop p.size)) (rs, bs)).1 = rs ++ laneReqs (if wait then .waitEmpty else .setFull) ps bs := by
    intro ps
    induction ps with
    | nil => intro bs rs; exact (List.append_nil rs).symm
    | cons p ps ih =>
      intro bs rs
      rw [List.foldl_cons, ih, laneReqs]
      split
      · exact List.append_assoc _ _ _
      · rfl
  dsimp only
  rw [State.issueStore, h]
  dsimp only
  rw [hgo, List.nil_append]

section
variable {s s1 : State} {r k se n : Nat} {t : Token} {rd : Round} (hr : ((s.region r).engine se).round = some rd)
include hr

/-- The engine of a WR or RING stores a token that is not the round's last. -/
theorem State.engineStore_next (h5 : rd.reg.op ≠ 5) (hlast : rd.i + 1 ≠ rd.reg.count)
    (h : s.issueStore r se k rd.reg.cap (rd.reg.addr rd.i) (permStore + permEngine) rd.reg.mfmt rd.reg.wait t = .ok (s1, n)) :
    (s.engineStore r k se t).1 = s1.onEngine r se (fun en => { en with round := some { rd with i := rd.i + 1, stores := rd.stores + n } }) := by
  simp [State.engineStore, hr, h5, h, hlast]

/-- The engine of a SURV stores the next token of its row. -/
theorem State.engineStore_todo {a : Word} {cap : Cap} {rest : List (Option (Word × Cap) × Bool)} (h5 : rd.reg.op = 5)
    (htodo : rd.todo = (some (a, cap), false) :: rest) (h : s.issueStore r se k cap a.toNat permStore rd.reg.mfmt false t = .ok (s1, n)) :
    (s.engineStore r k se t).1 = s1.onEngine r se (fun en => { en with round := some { rd with todo := rest, stores := rd.stores + n } }) := by
  simp [State.engineStore, hr, h5, h, htodo]

end

/-! ### An element whose links all have slots fires alone (R101) -/

/-- No direct link touches element e. -/
def Inst.slotted (i : Inst) (e : Nat) : Prop := ∀ m ∈ i.links, m.direct = true → m.src ≠ e ∧ m.dst ≠ e

section
variable {i : Inst} {e : Nat} (h : i.slotted e)
include h

theorem Inst.joined_slotted (fuel : Nat) : i.joined fuel [e] = [e] := by
  cases fuel with
  | zero => rfl
  | succ fuel =>
    have hmore : i.links.flatMap (fun l => if l.direct then (if [e].contains l.src then [l.dst] else if [e].contains l.dst then [l.src] else []) else []) = [] := by
      refine List.flatMap_eq_nil_iff.2 fun l hl => ?_
      cases hd : l.direct with
      | false => rfl
      | true =>
        obtain ⟨hs, hd'⟩ := h l hl hd
        simp [hs, hd']
    rw [Inst.joined, hmore]
    rfl

theorem Inst.sorted_slotted (fuel : Nat) : i.sorted fuel [e] = [e] := by
  cases fuel with
  | zero => rfl
  | succ fuel =>
    have hfree : i.links.any (fun l => l.direct && l.dst == e && [e].contains l.src) = false := by
      refine List.any_eq_false.2 fun l hl => ?_
      cases hd : l.direct with
      | false => simp
      | true => simp [(h l hl hd).2]
    have hrest : i.sorted fuel [] = [] := by cases fuel <;> rfl
    simp only [Inst.sorted, List.find?_cons, hfree, Bool.not_false, List.filter_cons, List.filter_nil, bne_self_eq_false, Bool.false_eq_true, if_false, hrest]

theorem Inst.offered_slotted (ps : List Pick) : i.offered ps e = [] := by
  refine List.flatMap_eq_nil_iff.2 fun l hl => ?_
  cases hd : l.direct with
  | false => simp
  | true => simp [(h l hl hd).2]

/-- A port's input is the head of its link. -/
theorem Inst.inputs_slotted {port : Nat} {l : LinkSt} (hl : i.inLink e port = some l) : i.inputs [] e port = l.head := by
  have hmem := List.mem_of_find?_eq_some hl
  have hdst : l.dst = e := by
    have := List.find?_some hl
    simp only [Bool.and_eq_true, beq_iff_eq] at this
    exact this.1
  have hdir : l.direct = false := by
    cases hd : l.direct with
    | false => rfl
    | true => exact absurd hdst (h l hmem hd).2
  simp [Inst.inputs, hl, hdir]

/-- The one alternative that an element has, which emits no token, is its firing. -/
theorem State.firing_slotted {s : State} {r : Nat} {side : Option Bool} {alt : Alt} (halts : s.alts r i e side (i.inputs [] e) = [.ok alt])
    (h0 : alt.f.o0 = none) (h1 : alt.f.o1 = none) (hask : alt.ask = false) : s.firing r i e side = .ok (some [⟨e, alt⟩]) := by
  have hemit : i.canEmit e alt.f = true := by
    refine List.all_eq_true.2 fun l _ => ?_
    simp [h0, h1]
  rw [State.firing, Inst.joined_slotted h, Inst.sorted_slotted h]
  have hp : i.withPicks [] = i := rfl
  simp [State.search, Inst.offered_slotted h, hp, halts, hemit, hask]

end

/-! ### The firing of an element that stores (R318) -/

theorem Inst.agOf_spec {i : Inst} {se op e : Nat} (h : i.agOf se op = some e) :
    (i.block.el e).kind = 4 ∧ (i.block.el e).op = op ∧ (i.block.el e).se = se := by
  have := List.find?_some h
  simp only [Bool.and_eq_true, beq_iff_eq] at this
  obtain ⟨⟨hk, ho⟩, hs⟩ := this
  exact ⟨hk, ho, hs⟩

/-- The alternative of an element that stores a token: it takes the token at its port in, and its engine stores it. -/
def storeAlt (r k se port : Nat) (st : ElemSt) (t : Token) : Alt :=
  { f := { reads := [port], st := st, o0 := none, o1 := none }, eff := fun u => (u.engineStore r k se t).1 }

section
variable {s : State} {r se op e : Nat} {i : Inst} {rd : Round} {t : Token} {inp : Inputs}
  (hag : i.agOf se op = some e) (hw : (i.block.el e).agWrite = true) (htaken : (i.el e).taken = true) (hout : (i.el e).out0 = [])
  (hr : ((s.region r).engine se).round = some rd) (hslot : rd.slot = i.slot) (hop : rd.reg.op = op) (htodo : op = 5 → rd.todo ≠ [])
  (hin : inp (if op == 5 then 2 else 0) = some t)
include hag hw htaken hout hr hslot hop htodo hin

theorem State.alts_stores : ∃ st, s.alts r i e (some true) inp = [.ok (storeAlt r i.slot se (if op == 5 then 2 else 0) st t)] := by
  obtain ⟨hk, ho, hse⟩ := Inst.agOf_spec hag
  have hgo : (rd.slot != i.slot || rd.reg.op != op || (op == 5 && rd.todo.isEmpty)) = false := by
    simpa [hslot, hop] using htodo
  simp only [State.alts, htaken, hk, State.agField, hw, ho, hse, hout, hr, hin, hgo, Bool.not_true, Bool.false_eq_true, if_false, if_true, List.isEmpty_nil,
    beq_self_eq_true, List.append_nil]
  exact ⟨_, rfl⟩

end

/-! ### What a firing leaves before its effect (R101, R135) -/

/-- The current region differs at most, and of its record only the configurations. -/
def State.inInsts (s u : State) : Prop := s.here u ∧ ∃ is, u.reg = { s.reg with insts := is }

theorem State.here_cur {s t : State} (h : s.here t) : t.cur = s.cur := by
  rw [← h.1]

theorem State.here_trans {s t u : State} (h : s.here t) (h' : t.here u) : s.here u := by
  obtain ⟨ht, hto⟩ := h
  obtain ⟨hu, huo⟩ := h'
  have hcur : t.cur = s.cur := State.here_cur ⟨ht, hto⟩
  refine ⟨?_, fun r hr => (huo r (hcur ▸ hr)).trans (hto r hr)⟩
  have h1 : ({ u with regions := s.regions } : State) = { t with regions := s.regions } :=
    congrArg (fun x : State => { x with regions := s.regions }) hu
  exact h1.trans ht

theorem State.onRegion_of_cur {s : State} {r : Nat} (h : r = s.cur) (f : Region → Region) : s.onRegion r f = s.onReg f := h ▸ rfl

theorem Snap.note_of_not_pending {sn : Snap} (h : sn.status ≠ .pending) (e p : Nat) (t : Token) : sn.note e p t = sn := by
  simp [Snap.note, h]

/-- Where no snapshot is pending, the tokens that a firing consumes enter no log. -/
theorem State.noteReads_rests {s : State} (h : s.reg.snap.status ≠ .pending) (i : Inst) (ps : List Pick) {p : Pick} {port : Nat}
    (hp : p.alt.f.reads = [port]) : s.here (s.noteReads s.cur i ps p) ∧ (s.noteReads s.cur i ps p).reg = s.reg := by
  have hrest : ∀ t, (s.region s.cur).snap.note p.e port t = (s.region s.cur).snap := fun t => Snap.note_of_not_pending h _ _ t
  unfold State.noteReads
  split
  · rw [hp]
    dsimp only [List.foldl_cons, List.foldl_nil]
    split
    · exact ⟨s.here_refl, rfl⟩
    · rw [hrest, if_neg (lt_irrefl _)]
      exact ⟨s.here_onRegion _, by rw [State.onRegion_cur_eq, State.onReg_reg]; rfl⟩
  · exact ⟨s.here_refl, rfl⟩

/-- A firing of one element, which consumes one token: its effect meets the configuration after it. -/
theorem State.commit_one {s : State} (h : s.reg.snap.status ≠ .pending) (i : Inst) {p : Pick} {port : Nat} (hp : p.alt.f.reads = [port]) :
    ∃ u, s.commit s.cur i [p] = p.alt.eff u ∧ s.inInsts u := by
  obtain ⟨hhere, hreg⟩ := State.noteReads_rests h i [p] hp
  have hcur := State.here_cur hhere
  refine ⟨(s.noteReads s.cur i [p] p).setInst s.cur (i.fire s.stamp p), rfl, ?_⟩
  rw [State.setInst, State.onRegion_of_cur hcur.symm]
  exact ⟨State.here_trans hhere (State.here_onReg _ _), _, by rw [State.onReg_reg, hreg]⟩

section
variable {s : State} {p : (Nat → Bool → Instr) × Nat × Nat} {se e : Nat} {i : Inst} {l : LinkSt} {tok : Token} {rd rd' : Round}
  (hp : (p.1, p.2.1) ∈ agTable) (hport : (if p.2.1 == 5 then 2 else 0) = p.2.2) (hf : s.reg.frozen = false) (hm : s.reg.snap.owed = [])
  (hsnap : s.reg.snap.status ≠ .pending) (hi : s.reg.insts = [i]) (hag : i.agOf se p.2.1 = some e) (hw : (i.block.el e).agWrite = true)
  (htaken : (i.el e).taken = true) (hout : (i.el e).out0 = []) (hdirect : i.slotted e) (hl : i.inLink e p.2.2 = some l) (hhead : l.head = some tok)
  (hr : (s.reg.engine se).round = some rd) (hslot : rd.slot = i.slot) (hop : rd.reg.op = p.2.1) (htodo : p.2.1 = 5 → rd.todo ≠ [])
include hp hport hf hm hsnap hi hag hw htaken hout hdirect hl hhead hr hslot hop htodo

/-- The Field's step hands the engine the token at the element's data port. -/
theorem completes_ag_store : ∃ u, s.inInsts u ∧ Completes (p.1 se false) s (u.engineStore s.cur i.slot se tok).1 := by
  have hin : i.inputs [] e (if p.2.1 == 5 then 2 else 0) = some tok := by rw [hport, Inst.inputs_slotted hdirect hl, hhead]
  obtain ⟨st, halts⟩ := State.alts_stores (s := s) (r := s.cur) hag hw htaken hout hr hslot hop htodo hin
  have hfire := State.firing_slotted hdirect halts rfl rfl rfl
  obtain ⟨u, hu, hinsts⟩ := State.commit_one hsnap i (p := ⟨e, storeAlt s.cur i.slot se (if p.2.1 == 5 then 2 else 0) st tok⟩) rfl
  refine ⟨u, hinsts, ?_⟩
  have hfirst := State.fireFirst_commits (elem := (·.agOf se p.2.1)) hf hi hag hfire
  exact (completes_ag_field hp hm se).trans (congrArg Host.Outcome.next (hfirst.trans hu))

/-- The stores of that token enter CQ, and the round goes on: next is the round after a number of stores. -/
theorem completes_ag_stores {cap : Cap} {a perms : Nat} {ps : List Piece} {next : Nat → Round}
    (hps : s.engPieces s.cur cap a 256 perms kindWrite engSpaces .store = .ok ps)
    (hstore : ∀ (u s1 : State) (n : Nat), ((u.region s.cur).engine se).round = some rd →
      u.issueStore s.cur se i.slot cap a perms rd.reg.mfmt rd.reg.wait tok = .ok (s1, n) →
      (u.engineStore s.cur i.slot se tok).1 = s1.onEngine s.cur se (fun en => { en with round := some (next n) })) :
    let stores := laneStores (if rd.reg.wait then .waitEmpty else .setFull) ps (tokenBytes rd.reg.mfmt tok)
    ∃ t qs, Completes (p.1 se false) s t ∧ engineSends s t i.slot se qs stores ∧ (t.reg.engine se).round = some (next stores.length) := by
  obtain ⟨u, ⟨hhere, is, hreg⟩, hdone⟩ := completes_ag_store hp hport hf hm hsnap hi hag hw htaken hout hdirect hl hhead hr hslot hop htodo
  have hups := (State.engPieces_of_here hhere (by rw [hreg]) cap a 256 perms kindWrite engSpaces .store).trans hps
  have hur : ((u.region s.cur).engine se).round = some rd := by
    have hcur : u.region s.cur = u.reg := by rw [State.reg, State.here_cur hhere]
    rw [hcur, hreg]
    exact hr
  have hst := hstore u _ _ hur (State.issueStore_ok hups se i.slot rd.reg.mfmt rd.reg.wait tok)
  obtain ⟨qs, hsends, heng⟩ := State.enter_sends hhere (by rw [hreg]) i.slot se
    (laneReqs (if rd.reg.wait then .waitEmpty else .setFull) ps (tokenBytes rd.reg.mfmt tok))
    (fun _ en => { en with round := some (next (laneReqs (if rd.reg.wait then .waitEmpty else .setFull) ps (tokenBytes rd.reg.mfmt tok)).length) })
  rw [laneReqs_effect] at hsends
  refine ⟨_, qs, hdone, hst ▸ hsends, ?_⟩
  rw [hst, heng, ← laneReqs_effect, List.length_map]

end

theorem RoundReg.wait_of_surv {g : RoundReg} (h : g.op = 5) : g.wait = false := by simp [RoundReg.wait, h]

theorem engineStores : EngineStores := by
  intro p hp s se i e l tok rd ps op port w hf hm hsnap hi hag hw htaken hout hdirect hl hhead hr hslot hop stores
  obtain ⟨hpt, hport⟩ : (p.1, p.2.1) ∈ agTable ∧ (if p.2.1 == 5 then 2 else 0) = p.2.2 := by
    fin_cases hp <;> simp [agTable]
  refine ⟨fun h5 hlast hps => ?_, fun a cap rest h5 htodo hps => ?_⟩
  · exact completes_ag_stores (next := fun n => { rd with i := rd.i + 1, stores := rd.stores + n }) hpt hport hf hm hsnap hi hag hw htaken hout hdirect hl hhead
      hr hslot hop (fun h => absurd h h5) hps fun u s1 n hur h => State.engineStore_next hur (hop ▸ h5) hlast h
  · have hwait := RoundReg.wait_of_surv (hop.trans h5)
    exact completes_ag_stores (next := fun n => { rd with todo := rest, stores := rd.stores + n }) hpt hport hf hm hsnap hi hag hw htaken hout hdirect hl hhead
      hr hslot hop (fun _ => by simp [htodo]) hps fun u s1 n hur h => State.engineStore_todo hur (hop.trans h5) htodo (hwait ▸ h)

/-- Settles O27: a read is the engine's own step, a store the firing of its element alone, which hands the engine its token. -/
theorem addressGeneratorReads : Obligations.AddressGeneratorReads := ⟨engineReads, engineStores⟩

end Sys2Proof.Machine

/-! # Proofs: the Starter and the wave (O29) -/

namespace Sys2Proof.Machine

open Sys2Proof Sys2Proof.Claims

/-! ### What the Starter counts (R113) -/

/-- Slot j after a decision for slot k: its passed-over count, and the mark that its arm's expiry has been decided upon. -/
def Region.countSlot (g : Region) (k j : Nat) (x : Slot) : Slot :=
  { x with
    passed := if j != k && g.candidates.any (fun c => c.1 == j) then x.passed + 1 else 0
    arm := x.arm.map (fun a => if (g.running.map (·.slot)) == some j && a.done ≥ a.total then { a with decided := true } else a) }

/-- The region with the counts of a decision for slot k. -/
def Region.counted (g : Region) (k : Nat) : Region := { g with slots := g.slots.map (fun p => (p.1, g.countSlot k p.1 p.2)), starve := 0 }

/-- The region with the configuration of slot k loaded behind the old ones. -/
def Region.loaded (g : Region) (k : Nat) (b : Block) (a : Arm) : Region :=
  let h := ({ g with insts := g.insts.map g.close } : Region).sweep
  { h with insts := h.insts ++ [{ mkInst k b a.caps h.insts.isEmpty with load := g.insts.foldl (fun n i => max n i.load) 0 + 1 }] }

theorem Region.counted_slot (g : Region) (k j : Nat) :
    (g.counted k).slot j = if (AMap.find g.slots j).isSome then g.countSlot k j (g.slot j) else Slot.empty := by
  show ((AMap.find (g.slots.map (fun p => (p.1, g.countSlot k p.1 p.2))) j).getD Slot.empty) = _
  rw [AMap.find_mapKV, Region.slot, AMap.findD]
  cases AMap.find g.slots j <;> rfl

theorem Region.counted_block (g : Region) (k j : Nat) : ((g.counted k).slot j).block = (g.slot j).block := by
  rw [Region.counted_slot]
  split
  · rfl
  · next h => rw [Region.slot_of_find_none (Bool.not_eq_true _ ▸ h)]

theorem Region.counted_arm (g : Region) (k j : Nat) : ((g.counted k).slot j).arm = (g.slot j).arm.map (fun x =>
    if (g.running.map (·.slot)) = some j ∧ x.total ≤ x.done then { x with decided := true } else x) := by
  rw [Region.counted_slot]
  split
  · simp [Region.countSlot]
  · next h =>
    rw [Region.slot_of_find_none (Bool.not_eq_true _ ▸ h)]
    rfl

theorem Region.counted_passed (g : Region) (k : Nat) : ((g.counted k).slot k).passed = 0 := by
  rw [Region.counted_slot]
  split
  · simp [Region.countSlot]
  · rfl

/-! ### What a decision does (R111, R113, R114) -/

theorem Region.close_closed (g : Region) (i : Inst) : (g.close i).closed = true := by
  unfold Region.close
  split
  · assumption
  · rfl

/-- The configuration that is loaded is the one that runs: every other one is closed. -/
theorem Region.loaded_running (g : Region) (k : Nat) (b : Block) (a : Arm) : (g.loaded k b a).running.map (·.slot) = some k := by
  have hold : ∀ o ∈ (({ g with insts := g.insts.map g.close } : Region).sweep).insts, (!o.closed) = false := by
    intro o ho
    obtain ⟨i, -, rfl⟩ := List.mem_map.1 (List.mem_filter.1 ho).1
    rw [Region.close_closed]
    rfl
  have hnone : (({ g with insts := g.insts.map g.close } : Region).sweep).insts.find? (fun i => !i.closed) = none :=
    List.find?_eq_none.2 fun o ho => by rw [hold o ho]; exact Bool.false_ne_true
  rw [Region.running, Region.loaded, List.find?_append, hnone]
  rfl

@[simp] theorem Region.sweep_slot (g : Region) (j : Nat) : g.sweep.slot j = g.slot j := rfl
@[simp] theorem Region.sweep_pacer (g : Region) : g.sweep.pacer = g.pacer := rfl
@[simp] theorem Region.counted_pacer (g : Region) (k : Nat) : (g.counted k).pacer = g.pacer := rfl
@[simp] theorem Region.counted_running (g : Region) (k : Nat) : (g.counted k).running = g.running := rfl
@[simp] theorem Region.loaded_slot (g : Region) (k : Nat) (b : Block) (a : Arm) (j : Nat) : (g.loaded k b a).slot j = g.slot j := rfl
@[simp] theorem Region.loaded_pacer (g : Region) (k : Nat) (b : Block) (a : Arm) : (g.loaded k b a).pacer = g.pacer := rfl

/-- Without a moment nothing is decided. -/
theorem Region.decide_no_moment {g : Region} (hm : g.sweep.moment = false) : g.decide = g := by
  unfold Region.decide
  simp [hm]

section
variable {g : Region} {k : Nat} {b : Block} {a : Arm} (hf : g.frozen = false) (hm : g.sweep.moment = true) (hk : g.sweep.choose g.sweep.candidates = some k)
  (hb : (g.sweep.slot k).block = some b) (ha : (g.sweep.slot k).arm = some a)
include hf hm hk hb ha

/-- A decision counts, and loads the chosen configuration unless it runs already. -/
theorem Region.decide_chooses : g.decide = g.sweep.counted k ∧ (g.sweep.running.map (·.slot)) = some k ∨
    ∃ a', g.decide = (g.sweep.counted k).loaded k b a' := by
  have hgo : (g.sweep.frozen || !g.sweep.moment) = false := by
    rw [show g.sweep.frozen = false from hf, hm]
    rfl
  have hdec : g.decide = if ((g.sweep.counted k).running.map (·.slot)) == some k then g.sweep.counted k
      else match ((g.sweep.counted k).slot k).block, ((g.sweep.counted k).slot k).arm with
        | some b, some a => (g.sweep.counted k).loaded k b a
        | _, _ => g.sweep.counted k := by
    have hid : AMap.mapV g.sweep.slots id = g.sweep.slots := List.map_id _
    simp only [Region.decide, hgo, hk, hid, Bool.false_eq_true, if_false]
    rfl
  rw [hdec, Region.counted_block, hb, Region.counted_arm, ha]
  split
  · next h => exact .inl ⟨rfl, beq_iff_eq.1 h⟩
  · exact .inr ⟨_, rfl⟩

end

/-! ### Clauses 1 and 3: a decision, and a wave's step -/

theorem State.completes_starterDecision (s : State) : Completes .starterDecision s (s.onReg Region.decide) := rfl

theorem starterChooses {s : State} {k : Nat} {b : Block} {a : Arm} (hf : s.reg.frozen = false) (hm : s.reg.sweep.moment = true)
    (hk : s.reg.sweep.choose s.reg.sweep.candidates = some k) (hb : (s.reg.sweep.slot k).block = some b) (ha : (s.reg.sweep.slot k).arm = some a) :
    ∃ t, Completes .starterDecision s t ∧ s.here t ∧ (t.reg.running.map (·.slot)) = some k ∧ (t.reg.slot k).passed = 0 ∧
      (∀ j, (t.reg.slot j).block = (s.reg.slot j).block ∧ (t.reg.slot j).arm = (s.reg.slot j).arm.map (fun x =>
        if (s.reg.sweep.running.map (·.slot)) = some j ∧ x.total ≤ x.done then { x with decided := true } else x)) ∧
      t.reg.pacer = s.reg.pacer := by
  refine ⟨_, s.completes_starterDecision, s.here_onReg _, ?_⟩
  rw [State.onReg_reg]
  have hslot : ∀ j, ((s.reg.sweep.counted k).slot j).block = (s.reg.slot j).block ∧ ((s.reg.sweep.counted k).slot j).arm = (s.reg.slot j).arm.map (fun x =>
      if (s.reg.sweep.running.map (·.slot)) = some j ∧ x.total ≤ x.done then { x with decided := true } else x) := fun j => by
    rw [Region.counted_block, Region.counted_arm, Region.sweep_slot]
    exact ⟨rfl, rfl⟩
  obtain ⟨h, hrun⟩ | ⟨a', h⟩ := Region.decide_chooses hf hm hk hb ha
  · rw [h, Region.counted_running, Region.counted_pacer, Region.sweep_pacer]
    exact ⟨hrun, Region.counted_passed _ k, hslot, rfl⟩
  · rw [h, Region.loaded_running, Region.loaded_pacer, Region.counted_pacer, Region.sweep_pacer]
    simp only [Region.loaded_slot]
    exact ⟨trivial, Region.counted_passed _ k, hslot, trivial⟩

theorem Inst.setEl_el {i : Inst} {e : Nat} (h : e < i.elems.length) (x : ElemSt) : (i.setEl e x).el e = x := by
  simp [Inst.setEl, Inst.el, List.getD, h]

theorem Inst.setEl_el_other (i : Inst) {e j : Nat} (x : ElemSt) (h : j ≠ e) : (i.setEl e x).el j = i.el j := by
  simp [Inst.setEl, Inst.el, List.getD, Ne.symm h]

/-- Where no configuration is closed the one that runs is the first. -/
theorem Region.insts_of_running {g : Region} {i : Inst} (hr : g.running = some i) (ho : ∀ o ∈ g.insts, o.closed = false) :
    ∃ rest, g.insts = i :: rest := by
  cases hi : g.insts with
  | nil => simp [Region.running, hi] at hr
  | cons x rest =>
    have hx : x.closed = false := ho x (hi ▸ List.mem_cons_self)
    simp only [Region.running, hi, List.find?_cons, hx, Bool.not_false, Option.some.injEq] at hr
    exact ⟨rest, by rw [hr]⟩

/-- The configuration with element e holding its word. -/
def Inst.worded (i : Inst) (e : Nat) : Inst := i.setEl e { i.el e with taken := true }

/-- The region with the running configuration's element e holding its word. -/
def Region.worded (g : Region) (i : Inst) (e : Nat) : Region :=
  { g with insts := g.insts.map (fun x => if x.load == i.load then i.worded e else x) }

section
variable {g : Region} {e : Nat} {i : Inst} (hr : g.running = some i) (ho : ∀ o ∈ g.insts, o.closed = false)
include hr ho

theorem Region.worded_insts : ∃ rest, (g.worded i e).insts = i.worded e :: rest ∧ i.closed = false := by
  obtain ⟨rest, hi⟩ := Region.insts_of_running hr ho
  refine ⟨rest.map (fun x => if x.load == i.load then i.worded e else x), ?_, ho i (by rw [hi]; exact List.mem_cons_self)⟩
  simp only [Region.worded, hi, List.map_cons, beq_self_eq_true, if_true]

theorem Region.worded_running : (g.worded i e).running = some (i.worded e) ∧
    (g.worded i e).sweep.running = some (i.worded e) := by
  obtain ⟨rest, hi, hc⟩ := Region.worded_insts (e := e) hr ho
  have hc' : (i.worded e).closed = false := hc
  constructor
  · simp [Region.running, hi, hc']
  · simp [Region.running, Region.sweep, hi, hc']

/-- A wave gives an element its word where no old configuration is left and a neighbour holds its own. -/
theorem Region.wave_words (hf : g.frozen = false) (he : e < i.elems.length) (ht : (i.el e).taken = false)
    (hn : ∃ l ∈ i.links, l.dst = e ∧ (i.el l.src).taken = true) : g.wave e = g.worded i e ∨ g.wave e = (g.worded i e).sweep := by
  have holds : g.insts.filter (·.closed) = [] := List.filter_eq_nil_iff.2 fun o h => by rw [ho o h]; exact Bool.false_ne_true
  have hfeeds : (i.links.filter (fun l => l.dst == e)).any (fun l => (i.el l.src).taken) = true := by
    obtain ⟨l, hl, hd, hs⟩ := hn
    exact List.any_eq_true.2 ⟨l, List.mem_filter.2 ⟨hl, beq_iff_eq.2 hd⟩, hs⟩
  have hf' : ¬ g.frozen = true := by rw [hf]; exact Bool.false_ne_true
  rw [Region.wave, if_neg hf', hr]
  simp only [holds, hfeeds, he, ht, List.all_nil, Bool.not_false, Bool.or_true, Bool.true_or, Bool.and_self, decide_true, if_true]
  split
  · exact .inr rfl
  · exact .inl rfl

end

theorem waveWords {s : State} {e : Nat} {i : Inst} (hf : s.reg.frozen = false) (hr : s.reg.running = some i) (ho : ∀ o ∈ s.reg.insts, o.closed = false)
    (he : e < i.elems.length) (ht : (i.el e).taken = false) (hn : ∃ l ∈ i.links, l.dst = e ∧ (i.el l.src).taken = true) :
    ∃ t j, Completes (.reconfigurationWave e) s t ∧ s.here t ∧ t.reg.running = some j ∧ j.slot = i.slot ∧ (j.el e).taken = true ∧
      (∀ x, x ≠ e → j.el x = i.el x) ∧ t.reg.slots = s.reg.slots ∧ t.reg.pacer = s.reg.pacer := by
  obtain ⟨hw, hws⟩ := Region.worded_running (e := e) hr ho
  refine ⟨s.onReg (·.wave e), i.worded e, rfl, s.here_onReg _, ?_⟩
  rw [State.onReg_reg, show (i.worded e).el e = { i.el e with taken := true } from Inst.setEl_el he _]
  have hrest : ∀ x, x ≠ e → (i.worded e).el x = i.el x := fun x hx => Inst.setEl_el_other i _ hx
  obtain h | h := Region.wave_words hr ho hf he ht hn
  · rw [h]
    exact ⟨hw, rfl, rfl, hrest, rfl, rfl⟩
  · rw [h]
    exact ⟨hws, rfl, rfl, hrest, rfl, rfl⟩

/-! ### Clause 2: an arm's expiry that has been decided upon -/

theorem Region.sweep_of_open {g : Region} (ho : ∀ o ∈ g.insts, o.closed = false) : g.sweep = g := by
  have hkeep : g.insts.filter (fun i => !(i.closed && (g.liveElems i).isEmpty)) = g.insts :=
    List.filter_eq_self.2 fun o h => by rw [ho o h]; rfl
  rw [Region.sweep, hkeep]

/-- A Field that is not idle has no moment of decision at an expiry that has been decided upon. -/
theorem Region.decide_decided {g : Region} {i : Inst} {a : Arm} (hr : g.running = some i) (ho : ∀ o ∈ g.insts, o.closed = false)
    (ha : (g.slot i.slot).arm = some a) (hd : a.total ≤ a.done) (hdec : a.decided = true)
    (hb : i.busy = true) : g.decide = g := by
  refine Region.decide_no_moment ?_
  rw [Region.sweep_of_open ho]
  have hidle : g.insts.all (fun i => !i.busy) = false := by
    refine List.all_eq_false.2 ⟨i, List.mem_of_find?_eq_some hr, ?_⟩
    simp [hb]
  simp only [Region.moment, hr, ha, hd, hdec, hidle, ge_iff_le, if_true, Bool.not_true, Bool.or_self]

/-- The step writes the same record back. -/
theorem State.completes_decided {s : State} {i : Inst} {a : Arm} (hr : s.reg.running = some i)
    (ho : ∀ o ∈ s.reg.insts, o.closed = false) (ha : (s.reg.slot i.slot).arm = some a) (hd : a.total ≤ a.done) (hdec : a.decided = true)
    (hb : i.busy = true) : Completes .starterDecision s (s.setReg s.reg) := by
  refine s.completes_starterDecision.trans (congrArg Host.Outcome.next ?_)
  rw [State.onReg, Region.decide_decided hr ho ha hd hdec hb]

/-- A map with rising keys stays the same where the record of a key is written back. -/
theorem AMap.put_find_of_rising {α : Type} {m : AMap α} (h : List.Pairwise (fun p q => p.1 < q.1) m) {k : Nat} {v : α} (hk : AMap.find m k = some v) :
    AMap.put m k v = m := by
  induction m with
  | nil => cases hk
  | cons p m ih =>
    obtain ⟨j, w⟩ := p
    obtain ⟨hlt, hm⟩ := List.pairwise_cons.1 h
    by_cases hj : k = j
    · rw [AMap.find, if_pos hj] at hk
      rw [AMap.put, if_neg (by omega), if_pos hj, hj, Option.some.inj hk]
    · rw [AMap.find, if_neg hj] at hk
      have hjk : j < k := hlt (k, v) (AMap.mem_of_find hk)
      rw [AMap.put, if_neg (Nat.lt_asymm hjk), if_neg hj, ih hm hk]

/-- A record written back to regions in order is no change. -/
theorem State.setReg_self {s : State} (h : List.Pairwise (fun p q => p.1 < q.1) s.regions) (hk : (AMap.find s.regions s.cur).isSome = true) :
    s.setReg s.reg = s := by
  obtain ⟨g, hg⟩ := Option.isSome_iff_exists.1 hk
  have hreg : s.reg = g := by rw [State.reg, State.region, AMap.findD, hg, Option.getD_some]
  rw [State.setReg, State.setRegion, AMap.put_find_of_rising h (hreg ▸ hg)]

/-- A region with a running configuration has a record. -/
theorem State.find_of_running {s : State} {i : Inst} (hr : s.reg.running = some i) : (AMap.find s.regions s.cur).isSome = true := by
  rw [Option.isSome_iff_ne_none]
  intro hn
  have hreg : s.reg = Region.reset := by rw [State.reg, State.region, AMap.findD, hn, Option.getD_none]
  rw [hreg] at hr
  cases hr

/-- What the clause lacks: with the regions in order nothing changes. -/
theorem State.decided_rests {s : State} {i : Inst} {a : Arm} (h : List.Pairwise (fun p q => p.1 < q.1) s.regions) (hr : s.reg.running = some i)
    (ho : ∀ o ∈ s.reg.insts, o.closed = false) (ha : (s.reg.slot i.slot).arm = some a) (hd : a.total ≤ a.done) (hdec : a.decided = true)
    (hb : i.busy = true) : Completes .starterDecision s s :=
  (State.completes_decided hr ho ha hd hdec hb).trans (congrArg Host.Outcome.next (State.setReg_self h (State.find_of_running hr)))

/-! ### A state whose regions do not stand in order -/

/-- A link with a token in its slots. -/
def tokenLink : LinkSt :=
  { src := 0, out := 0, dst := 0, port := 0, slots := 1, fmt := 0, from_ := 0, pc := true, q := [mkTok [0] [true] true], buf := [], part := none, pos := 0,
    scl := [], mark := none }

/-- A running configuration that holds that token. -/
def tokenInst : Inst := { slot := 0, block := { h0 := 0, h1 := 0, elems := [] }, elems := [], links := [tokenLink], caps := [], closed := false, tiles := 0,
                          due := [], load := 0 }

/-- An arm of one tile, which is done, and at whose expiry the Starter has decided. -/
def decidedArm : Arm := { total := 1, done := 1, ends := [], p0 := 0, p1 := 0, caps := [], tree := false, decided := true }

/-- Region 0 with both; its record stands behind that of region 1. -/
def regionsOutOfOrder : State :=
  { State.reset with
    regions := [(1, Region.reset), (0, { Region.reset with insts := [tokenInst], slots := [(0, { Slot.empty with arm := some decidedArm })] })] }

/-- Refutes O29: its second clause has the whole state stay where an expiry has been decided upon and the Field is not idle. The step writes region 0's
record back as it is, into a map whose keys do not rise here: the map has three entries then, and not two. The first and the third clause hold
(`starterChooses`, `waveWords`), and the second where the keys rise (`State.decided_rests`). -/
theorem not_starterAndWave : ¬ Obligations.StarterAndWave := by
  rintro ⟨-, hdecided, -⟩
  have hstep : Completes .starterDecision regionsOutOfOrder regionsOutOfOrder :=
    hdecided regionsOutOfOrder tokenInst decidedArm rfl rfl (by decide) rfl (le_refl 1) rfl rfl
  have hlen : (regionsOutOfOrder.onReg Region.decide).regions.length = 3 := rfl
  rw [Host.Outcome.next.inj hstep] at hlen
  exact absurd hlen (by decide)

end Sys2Proof.Machine
/-! # Proofs: TRAP, a fault under MASK, and ERET (O14, O15) -/

namespace Sys2Proof.Machine

open Sys2Proof Sys2Proof.Claims

/-! ### TRAP (R123, R125, R249) -/

theorem trapTaken : TrapTaken := fun s code h => s.fail0_entered 0x0A (.trap code) h

theorem State.wrote_logRegion (s : State) (r : Nat) (c : Byte) (epc tval : Word) : s.Wrote (s.logRegion r c epc tval) :=
  (s.wrote_log _ _ _ _).trans (State.wrote_log _ _ _ _ _)

@[simp] theorem State.logRegion_logSeq (s : State) (r : Nat) (c : Byte) (epc tval : Word) :
    (s.logRegion r c epc tval).mgc.logSeq = s.mgc.logSeq + 2 := by
  rw [State.logRegion, State.log_logSeq, State.log_logSeq]

theorem State.trap_masked {s : State} (hmode : s.reg.pacer.mode = true) (hmask : s.reg.pacer.mask = true) (c : Byte) (v : Word) :
    s.trap c v = (s.logRegion s.cur 0xA4 s.pc (c.zeroExtend 64)).onReg (fun g => { g with wait := .none, run := .firmware 0xA4 }) := by
  simp only [State.trap, State.sup, hmode, hmask, Bool.and_self, if_true]

theorem maskedFaultStops : MaskedFaultStops := by
  intro s code hmode hmask
  obtain ⟨w, hw⟩ := (s.wrote_logRegion s.cur 0xA4 s.pc ((0x0A : Byte).zeroExtend 64)).onlyWaits.reg
  refine ⟨_, congrArg Host.Outcome.next (State.trap_masked hmode hmask 0x0A (wordOf (.trap code))), ?_, ?_, ?_⟩
  · rw [State.onReg_reg, hw]
  · rw [State.onReg_reg]
  · rw [State.onReg_mgc, State.logRegion_logSeq]

/-- Settles O14: where MASK does not hide it TRAP's fault is a trap entry; under MASK it is two log records and the region's stop. -/
theorem trapsAndFaults : Obligations.TrapsAndFaults := ⟨trapTaken, maskedFaultStops⟩

/-! ### ERET (R123, R250) -/

theorem State.eret_of_tag {s : State} (h : s.reg.pacer.epcc.tag = true) :
    s.eret = s.onReg (fun g => { g with
      skipBrk := s.reg.pacer.cause == 0xA8,
      pacer := { s.reg.pacer with mode := s.reg.pacer.pmode, mask := false, pcc := s.reg.pacer.epcc.withCursor s.reg.pacer.epc } }) := if_pos h

/-- Settles O15: supervisor mode passes the check of a privileged instruction, and a tagged EPCC that of ERET. -/
theorem returnsFromTrap : Obligations.ReturnsFromTrap := by
  intro s hmode htag
  have hexec : exec .eret s = .next s.eret := State.privileged_sup hmode .eret (fun s => .next s.eret)
  refine ⟨_, hexec.trans (congrArg Host.Outcome.next (State.eret_of_tag htag)), s.here_onReg _, ?_⟩
  rw [State.onReg_reg]

end Sys2Proof.Machine
/-! # Proofs: split markers (O33) -/

namespace Sys2Proof.Machine

open Sys2Proof Sys2Proof.Claims

/-! ### What an element records of a marker that it meets (R135) -/

theorem meet_owed (sn : Snap) (i : Inst) (e p : Nat) : (meet sn i e p).1.owed = sn.owed.filter (· != (e, p)) := by
  unfold meet
  dsimp only
  split <;> rfl

theorem meet_recorded (sn : Snap) (i : Inst) (e p : Nat) :
    AMap.find (meet sn i e p).1.recorded e = some ((AMap.find sn.recorded e).getD (i.el e)) := by
  have hmet : (meet sn i e p).1.recorded = (sn.met e p (i.el e)).recorded := by
    unfold meet
    dsimp only
    split <;> rfl
  rw [hmet, Snap.met]
  cases h : AMap.find sn.recorded e with
  | none => simp
  | some x => simp [h]

/-! ### The buffer (R132, R266) -/

theorem State.onlyWaits_snapPut (s : State) (r off n : Nat) : s.OnlyWaits (s.snapPut r off n) := by
  unfold State.snapPut
  dsimp only
  split
  · exact .refl s
  · refine State.onlyWaits_foldl (fun t p => ?_) _ s
    unfold State.drawBytes
    dsimp only
    split
    · exact .of_regions rfl rfl
    · refine State.OnlyWaits.trans ?_ (State.wrote_written _ _).onlyWaits
      refine State.OnlyWaits.trans ?_ (State.onlyWaits_applyWrite _ _ _ _)
      exact .of_regions rfl rfl

/-! ### SPLIT_MARKER at an input (R131, R135) -/

theorem State.splitMarker_frozen {s : State} {r : Nat} (h : (s.region r).frozen = true) (e p : Nat) : s.splitMarker r e p = s := by
  simp [State.splitMarker, h]

/-- The configuration without the marker before a port of an element. -/
def Inst.takeMark (i : Inst) (e p : Nat) : Inst :=
  { i with links := i.links.map (fun l => if l.dst == e && l.port == p then { l with mark := none } else l) }

/-- The snapshot, which is done where it is complete. -/
def Snap.closed (sn : Snap) : Snap := if sn.over then { sn with status := .done } else sn

@[simp] theorem Snap.closed_owed (sn : Snap) : sn.closed.owed = sn.owed := by
  unfold Snap.closed
  split <;> rfl

@[simp] theorem Snap.closed_recorded (sn : Snap) : sn.closed.recorded = sn.recorded := by
  unfold Snap.closed
  split <;> rfl

/-- The region after a marker has been met at a port of an element of configuration i. -/
def Region.meetMark (g : Region) (i : Inst) (e p : Nat) : Region :=
  let m := meet g.snap (i.takeMark e p) e p
  { g with insts := g.insts.map (fun j => if j.load == m.2.load then m.2 else j), snap := m.1.closed }

theorem Region.meetMark_owed (g : Region) (i : Inst) (e p : Nat) : (g.meetMark i e p).snap.owed = g.snap.owed.filter (· != (e, p)) :=
  (Snap.closed_owed _).trans (meet_owed _ _ _ _)

theorem Region.meetMark_recorded (g : Region) (i : Inst) (e p : Nat) :
    AMap.find (g.meetMark i e p).snap.recorded e = some ((AMap.find g.snap.recorded e).getD (i.el e)) :=
  (congrArg (AMap.find · e) (Snap.closed_recorded _)).trans (meet_recorded g.snap (i.takeMark e p) e p)

theorem State.onReg_meetMark (s : State) (i : Inst) (e p : Nat) : let m := meet s.reg.snap (i.takeMark e p) e p
    s.onReg (·.meetMark i e p) = (s.setInst s.cur m.2).onRegion s.cur (fun g => { g with snap := m.1.closed }) := by
  dsimp only
  rw [State.setInst, State.onRegion_onRegion]
  rfl

section
variable {s : State} {e p : Nat} {i : Inst} {l : LinkSt} (hfree : s.reg.frozen = false) (hst : s.reg.snap.status = .pending)
  (howed : (e, p) ∈ s.reg.snap.owed) (hp : p ≠ 8) (hi : s.reg.insts.find? (fun i => i.slot == s.reg.snap.slot) = some i)
  (hl : i.inLink e p = some l) (hmark : l.mark = some 0)
include hfree hst howed hp hi hl hmark

/-- A marker that stands before an input is met there; then the buffer takes the element's state at its first, and its head at the last. -/
theorem State.splitMarker_met :
    let t := s.onReg (·.meetMark i e p)
    let u := if (AMap.find s.reg.snap.recorded e).isNone then t.snapPut s.cur (snapPart e) 1024 else t
    s.splitMarker s.cur e p = if (meet s.reg.snap (i.takeMark e p) e p).1.over then u.snapPut s.cur 0 4096 else u := by
  have hreg : s.region s.cur = s.reg := rfl
  dsimp only
  rw [State.onReg_meetMark]
  simp only [State.splitMarker, hreg, hfree, hst, List.contains_iff_mem.2 howed, beq_false_of_ne hp, hi, hl, hmark, bne_self_eq_false, beq_self_eq_true,
    Bool.or_self, Bool.not_true, Bool.false_eq_true, Bool.false_and, if_false]
  rfl

/-- The buffer's writes leave of the region's record all but its wait. -/
theorem State.onlyWaits_splitMarker_met : (s.onReg (·.meetMark i e p)).OnlyWaits (s.splitMarker s.cur e p) := by
  have hput : ∀ (c : Prop) [Decidable c] (t : State) (off n : Nat), t.OnlyWaits (if c then t.snapPut s.cur off n else t) := by
    intro c _ t off n
    split
    · exact t.onlyWaits_snapPut _ _ _
    · exact .refl t
  rw [State.splitMarker_met hfree hst howed hp hi hl hmark]
  exact (hput _ _ _ _).trans (hput _ _ _ _)

end

/-- Settles O33: in a frozen Field nothing happens; elsewhere the region meets the marker, and the buffer's writes leave its record but for its wait. -/
theorem splitMarkers : Obligations.SplitMarkers := by
  refine ⟨fun s e p h => congrArg Host.Outcome.next (State.splitMarker_frozen h e p), fun s e p i l hfree hst howed hp hi hl hmark => ?_⟩
  obtain ⟨w, hw⟩ := (State.onlyWaits_splitMarker_met hfree hst howed hp hi hl hmark).reg
  rw [State.onReg_reg] at hw
  refine ⟨_, rfl, fun o => ?_, ?_, ?_⟩
  · rw [hw, Region.meetMark_owed, List.mem_filter, bne_iff_ne]
  · rw [hw, Region.meetMark_recorded]
  · rw [hw]
    rfl

end Sys2Proof.Machine
/-! # Proofs: the checks of memory instructions (O9) -/

namespace Sys2Proof.Machine

open Sys2Proof Sys2Proof.Claims

/-! ### Faults of an access (R122, R123, R234) -/

/-- Instruction i faults with the cause of an access at a that fails a check: class 0 shows the instruction's word, any other class what it shows
of the address. -/
def AccessFaults (i : Instr) (s : State) (a : Word) (f : Byte) : Prop :=
  ∃ t v, Completes i s t ∧ s.entered t f v ∧
    v = if f.toNat < 0x10 then wordOf i else s.tvalOf (if f = 0xB0 then .host else .peer (a.toNat / 2 ^ 48 % 256)) a f

section
variable {s : State} (hs : s.unmasked) {i : Instr} {a : Word} {f : Byte}
include hs

theorem accessFaults_of_failAt (h : exec i s = s.failAt i a f) : AccessFaults i s a f := by
  rw [State.failAt] at h
  split at h
  · next hf => exact ⟨_, wordOf i, h, s.trap_entered f _ hs, (if_pos hf).symm⟩
  · next hf => exact ⟨_, _, h, s.trap_entered f _ hs, by simp [hf]⟩

/-- An instruction that faults with the address as TVAL. -/
theorem entered_of_fail (h : exec i s = s.fail f a) : ∃ t, Completes i s t ∧ s.entered t f a := ⟨_, h, s.trap_entered f a hs⟩

theorem faults_of_fail0 (h : exec i s = s.fail0 f i) : Faults i s f := ⟨_, h, s.trap_entered f _ hs⟩

end

theorem State.access_check_error {s : State} {c : Cap} {a n perms kind : Nat} {f : Byte} (h : c.check a n perms kind = .error f) (spaces : List Nat)
    (use : Use) : s.access c a n perms kind spaces use = .error f := by
  simp only [State.access, h]

/-! ### Where a load and a store fail (R237, R241) -/

section
variable {s : State} {i : Instr} {c : Cap} {a : Word} {n : Nat} {spaces : List Nat} {f : Byte} {ps : List Piece}

theorem State.load_access_error (h : s.access c a.toNat n permLoad kindRead spaces .read = .error f) (act : Piece → Act) (k : Cont) :
    s.load i c a n spaces act k = s.failAt i a f := by
  simp only [State.load, h]

theorem State.load_view_error (h : s.access c a.toNat n permLoad kindRead spaces .read = .ok (7, ps)) (hv : s.viewRequests (inSpace a) n a = .error f)
    (act : Piece → Act) (k : Cont) : s.load i c a n spaces act k = s.fail f a := by
  simp only [State.load, h, hv, beq_self_eq_true, if_true]

theorem State.store_access_error {bs : List Byte} (hn : bs.length = n) (h : s.access c a.toNat n permStore kindWrite spaces .store = .error f)
    (fe : FeAct) : s.store i c a bs spaces fe = s.failAt i a f := by
  simp only [State.store, hn, h]

theorem State.store_view {bs : List Byte} (hn : bs.length = n) (h : s.access c a.toNat n permStore kindWrite spaces .store = .ok (7, ps))
    (fe : FeAct) : s.store i c a bs spaces fe = s.fail 0x19 a := by
  simp only [State.store, hn, h, beq_self_eq_true, if_true]

end

/-! ### The checks that come before the access (R238 to R240) -/

section
variable {s : State} {d : XReg} {cb cd : CReg} {xi : XReg} {off : BitVec 8} {full : BitVec 1} {sz : BitVec 2} {f : Byte}

theorem exec_ldq_odd (h : d.getLsbD 0 = true) : exec (.ldq d cb xi off) s = s.fail0 0x0E (.ldq d cb xi off) := if_pos h

theorem exec_ldq_even (h : d.getLsbD 0 = false) :
    exec (.ldq d cb xi off) s = s.load (.ldq d cb xi off) (s.rc cb) (s.memAddr cb xi off 16) 16 loadSpaces (fun p => .read p.size) (.toXX d) :=
  if_neg (Bool.eq_false_iff.1 h)

theorem exec_stq_odd (h : d.getLsbD 0 = true) : exec (.stq d cb xi off) s = s.fail0 0x0E (.stq d cb xi off) := if_pos h

theorem exec_stq_even (h : d.getLsbD 0 = false) :
    exec (.stq d cb xi off) s = s.store (.stq d cb xi off) (s.rc cb) (s.memAddr cb xi off 16)
      (leBytes 8 (s.rx d).toNat ++ leBytes 8 (s.rx (d + 1)).toNat) storeSpaces .keep :=
  if_neg (Bool.eq_false_iff.1 h)

theorem State.ldfe_misaligned (i : Instr) (take : Bool) (h : (s.memAddr cb xi off (2 ^ sz.toNat)).toNat % 2 ^ sz.toNat ≠ 0) :
    s.ldfe i d cb xi off sz take = s.fail0 0x0E i := if_pos (bne_iff_ne.2 h)

theorem State.ldfe_access_error (i : Instr) (take : Bool) (h : (s.memAddr cb xi off (2 ^ sz.toNat)).toNat % 2 ^ sz.toNat = 0)
    (hacc : s.access (s.rc cb) (s.memAddr cb xi off (2 ^ sz.toNat)).toNat (2 ^ sz.toNat) (if take then permLoad + permStore else permLoad)
      (if take then kindAtomic else kindRead) [1, 2] (if take then .store else .read) = .error f) :
    s.ldfe i d cb xi off sz take = s.failAt i (s.memAddr cb xi off (2 ^ sz.toNat)) f := by
  simp only [State.ldfe, sizeOfCode, h, hacc, bne_self_eq_false, Bool.false_eq_true, if_false]

theorem exec_stfe_misaligned (h : (s.memAddr cb xi off (2 ^ sz.toNat)).toNat % 2 ^ sz.toNat ≠ 0) :
    exec (.stfe d cb xi off full sz) s = s.fail0 0x0E (.stfe d cb xi off full sz) := if_pos (bne_iff_ne.2 h)

theorem exec_stfe_access_error (h : (s.memAddr cb xi off (2 ^ sz.toNat)).toNat % 2 ^ sz.toNat = 0)
    (hacc : s.access (s.rc cb) (s.memAddr cb xi off (2 ^ sz.toNat)).toNat (2 ^ sz.toNat) permStore kindWrite [1, 2, 7] .store = .error f) :
    exec (.stfe d cb xi off full sz) s = s.failAt (.stfe d cb xi off full sz) (s.memAddr cb xi off (2 ^ sz.toNat)) f := by
  show execStfe d cb xi off full sz s = _
  simp only [execStfe, sizeOfCode, h, hacc, bne_self_eq_false, Bool.false_eq_true, if_false]

theorem exec_stfe_view {ps : List Piece} (h : (s.memAddr cb xi off (2 ^ sz.toNat)).toNat % 2 ^ sz.toNat = 0)
    (hacc : s.access (s.rc cb) (s.memAddr cb xi off (2 ^ sz.toNat)).toNat (2 ^ sz.toNat) permStore kindWrite [1, 2, 7] .store = .ok (7, ps)) :
    exec (.stfe d cb xi off full sz) s = s.fail 0x19 (s.memAddr cb xi off (2 ^ sz.toNat)) := by
  show execStfe d cb xi off full sz s = _
  simp only [execStfe, sizeOfCode, h, hacc, bne_self_eq_false, Bool.false_eq_true, if_false, beq_self_eq_true, if_true]

theorem exec_cld_check_error (h : (s.rc cb).check (s.memAddr cb xi off 16).toNat 16 permLoad kindRead = .error f) :
    exec (.cld cd cb xi off) s = s.failAt (.cld cd cb xi off) (s.memAddr cb xi off 16) f := by
  show execCld cd cb xi off s = _
  simp only [execCld, h]

theorem exec_cld_misaligned {x : Nat × Nat} (h : (s.rc cb).check (s.memAddr cb xi off 16).toNat 16 permLoad kindRead = .ok x)
    (ha : (s.memAddr cb xi off 16).toNat % 16 ≠ 0) : exec (.cld cd cb xi off) s = s.fail 0x1E (s.memAddr cb xi off 16) := by
  show execCld cd cb xi off s = _
  simp only [execCld, h, misaligned16, bne_iff_ne.2 ha, if_true]

/-- Where its address is aligned, CLD is a load: a capability that fails CLD's own check fails the load's. -/
theorem exec_cld_aligned (ha : (s.memAddr cb xi off 16).toNat % 16 = 0) :
    exec (.cld cd cb xi off) s = s.load (.cld cd cb xi off) (s.rc cb) (s.memAddr cb xi off 16) 16 [1, 2, 3, 4, 5, 7] (capAct (s.rc cb)) (.toC cd) := by
  cases h : (s.rc cb).check (s.memAddr cb xi off 16).toNat 16 permLoad kindRead with
  | error f => rw [exec_cld_check_error h, State.load_access_error (State.access_check_error h _ _)]
  | ok x =>
    show execCld cd cb xi off s = _
    simp only [execCld, h, misaligned16, ha, bne_self_eq_false, Bool.false_eq_true, if_false]
    rfl

section
variable {want : Nat} (hwant : want = permStore + if (s.rc cd).tag then permTgstore else 0)
include hwant

theorem exec_cst_check_error (h : (s.rc cb).check (s.memAddr cb xi off 16).toNat 16 want kindWrite = .error f) :
    exec (.cst cd cb xi off) s = s.failAt (.cst cd cb xi off) (s.memAddr cb xi off 16) f := by
  subst hwant
  show execCst cd cb xi off s = _
  simp only [execCst, h]

theorem exec_cst_view {x : Nat} (h : (s.rc cb).check (s.memAddr cb xi off 16).toNat 16 want kindWrite = .ok (7, x)) :
    exec (.cst cd cb xi off) s = s.fail 0x19 (s.memAddr cb xi off 16) := by
  subst hwant
  show execCst cd cb xi off s = _
  simp only [execCst, h, beq_self_eq_true, if_true]

variable {sp x : Nat} (h : (s.rc cb).check (s.memAddr cb xi off 16).toNat 16 want kindWrite = .ok (sp, x)) (hsp : sp ≠ 7)
include h hsp

theorem exec_cst_misaligned (ha : (s.memAddr cb xi off 16).toNat % 16 ≠ 0) : exec (.cst cd cb xi off) s = s.fail 0x1E (s.memAddr cb xi off 16) := by
  subst hwant
  show execCst cd cb xi off s = _
  simp only [execCst, h, beq_false_of_ne hsp, misaligned16, bne_iff_ne.2 ha, Bool.false_eq_true, if_false, if_true]

theorem exec_cst_access_error (ha : (s.memAddr cb xi off 16).toNat % 16 = 0)
    (hacc : s.access (s.rc cb) (s.memAddr cb xi off 16).toNat 16 permStore kindWrite [1, 2, 3, 4, 5] .store = .error f) :
    exec (.cst cd cb xi off) s = s.failAt (.cst cd cb xi off) (s.memAddr cb xi off 16) f := by
  subst hwant
  show execCst cd cb xi off s = _
  simp only [execCst, h, hacc, beq_false_of_ne hsp, misaligned16, ha, bne_self_eq_false, Bool.false_eq_true, if_false]

end

end

/-- Settles O9: each form's equation for the check that fails first, and what a fault leaves. -/
theorem memoryFaults : Obligations.MemoryFaults := by
  intro s d cb cd xi off u full sz hs
  have hpair : (leBytes 8 (s.rx d).toNat ++ leBytes 8 (s.rx (d + 1)).toNat).length = 16 := by
    rw [List.length_append, leBytes_length, leBytes_length]
  have hone := leBytes_length (2 ^ sz.toNat) (s.rx d).toNat
  refine ⟨fun f h => accessFaults_of_failAt hs (State.load_access_error h _ _),
    fun f h => accessFaults_of_failAt hs (State.store_access_error hone h _),
    fun f hd h => accessFaults_of_failAt hs ((exec_ldq_even hd).trans (State.load_access_error h _ _)),
    fun f hd h => accessFaults_of_failAt hs ((exec_stq_even hd).trans (State.store_access_error hpair h _)),
    fun hd => ⟨faults_of_fail0 hs (exec_ldq_odd hd), faults_of_fail0 hs (exec_stq_odd hd)⟩,
    fun ha => ⟨faults_of_fail0 hs (State.ldfe_misaligned _ false ha), faults_of_fail0 hs (State.ldfe_misaligned _ true ha),
      faults_of_fail0 hs (exec_stfe_misaligned ha)⟩,
    fun ha => ⟨fun f h => accessFaults_of_failAt hs (State.ldfe_access_error _ false ha h),
      fun f h => accessFaults_of_failAt hs (State.ldfe_access_error _ true ha h),
      fun f h => accessFaults_of_failAt hs (exec_stfe_access_error ha h), fun ps h => entered_of_fail hs (exec_stfe_view ha h)⟩,
    ⟨fun ps f h hv => entered_of_fail hs (State.load_view_error h hv _ _), fun ps h => entered_of_fail hs (State.store_view hone h _)⟩,
    ⟨fun ps hd h => entered_of_fail hs ((exec_stq_even hd).trans (State.store_view hpair h _)),
      fun ps f hv => ⟨fun hd h => entered_of_fail hs ((exec_ldq_even hd).trans (State.load_view_error h hv _ _)),
        fun ha h => entered_of_fail hs ((exec_cld_aligned ha).trans (State.load_view_error h hv _ _))⟩,
      fun f h => accessFaults_of_failAt hs (exec_cld_check_error h), fun f h => accessFaults_of_failAt hs (exec_cst_check_error rfl h),
      fun ha => ⟨fun f h => accessFaults_of_failAt hs ((exec_cld_aligned ha).trans (State.load_access_error h _ _)),
        fun sp x f h hsp hacc => accessFaults_of_failAt hs (exec_cst_access_error rfl h hsp ha hacc)⟩⟩,
    fun ha => ⟨fun x h => entered_of_fail hs (exec_cld_misaligned h ha), fun sp x h hsp => entered_of_fail hs (exec_cst_misaligned rfl h hsp ha)⟩,
    fun x h => entered_of_fail hs (exec_cst_view rfl h)⟩

end Sys2Proof.Machine
/-! # Proofs: what comes to a region from outside its program (O45) -/

namespace Sys2Proof.Machine

open Sys2Proof Sys2Proof.Claims

/-! ### What a fetch leaves (R97, R203, R207) -/

/-- Nothing but cached translations and the current region's instruction cache differs between s and t. -/
structure State.Cached (s t : State) : Prop where
  rest : ({ t with tlb := s.tlb, regions := s.regions } : State) = s
  reg : ({ t.reg with icache := s.reg.icache } : Region) = s.reg

theorem State.Cached.trans {s t u : State} (h1 : s.Cached t) (h2 : t.Cached u) : s.Cached u := by
  constructor
  · have h := congrArg (fun x : State => ({ x with tlb := s.tlb, regions := s.regions } : State)) h2.rest
    exact h.trans h1.rest
  · have h := congrArg (fun x : Region => ({ x with icache := s.reg.icache } : Region)) h2.reg
    exact h.trans h1.reg

section
variable {s t : State} (h : s.Cached t)
include h

theorem State.Cached.cur : t.cur = s.cur := by have e := congrArg State.cur h.rest; exact e
theorem State.Cached.now : t.now = s.now := by have e := congrArg State.now h.rest; exact e
theorem State.Cached.mem : t.mem = s.mem := by have e := congrArg State.mem h.rest; exact e
theorem State.Cached.pacer : t.reg.pacer = s.reg.pacer := by have e := congrArg Region.pacer h.reg; exact e
theorem State.Cached.wait : t.reg.wait = s.reg.wait := by have e := congrArg Region.wait h.reg; exact e
theorem State.Cached.snap : t.reg.snap = s.reg.snap := by have e := congrArg Region.snap h.reg; exact e
theorem State.Cached.rx (r : XReg) : t.rx r = s.rx r := by rw [State.rx, h.pacer, State.rx]
theorem State.Cached.nextPC : t.nextPC = s.nextPC := by rw [State.nextPC, State.pc, h.pacer, State.nextPC, State.pc]
theorem State.Cached.cyc : t.cyc = s.cyc := by
  have hreset : t.reg.resetAt = s.reg.resetAt := by have e := congrArg Region.resetAt h.reg; exact e
  have hcyc : ∀ u : State, u.cyc = u.now - u.reg.resetAt := fun _ => rfl
  rw [hcyc, hcyc, h.now, hreset]

end

theorem State.cached_walked (s : State) (sp x n : Nat) : s.Cached (s.walked sp x n) := by
  obtain ⟨e, he⟩ := s.walked_frame sp x n
  rw [he]
  exact ⟨rfl, rfl⟩

theorem State.cached_fillLine (s : State) (k : Nat) : s.Cached (s.fillLine k) := by
  unfold State.fillLine
  split
  · exact ⟨rfl, by rw [State.onReg_reg]⟩
  · exact ⟨rfl, rfl⟩

theorem State.cached_fetchWord {s t : State} {c : Cap} {a : Word} {w : Nat} (h : s.fetchWord c a = .ok (t, w)) : s.Cached t := by
  unfold State.fetchWord at h
  split at h
  · cases h
  split at h
  · cases h
  split at h
  · cases h
  split at h
  · cases h
  split at h
  · cases h
    exact ⟨rfl, rfl⟩
  split at h
  · cases h
  · cases h
    exact (s.cached_walked _ _ _).trans (State.cached_fillLine _ _)

theorem State.cached_fetch {s t : State} {i : Instr} (h : s.fetch = .ok (t, i)) : s.Cached t := by
  unfold State.fetch at h
  split at h
  · cases h
  · next s1 w h1 =>
    have hfirst := State.cached_fetchWord h1
    split at h
    · cases h
    · cases h
      exact hfirst
    · split at h
      · cases h
      · next s2 v h2 =>
        cases h
        exact hfirst.trans (State.cached_fetchWord h2)

/-! ### Waits whose limit has passed (R252, R267) -/

/-- An instruction that ends its wait by writing X(d): what it leaves of the region. -/
theorem State.ret_ends (s : State) (d : XReg) (v : Word) : ∃ t, s.ret d v = .next t ∧ t.reg.wait = s.reg.wait ∧ t.reg.snap = s.reg.snap ∧
    (∀ r, t.rx r = if r = d ∧ d ≠ 0 then v else s.rx r) ∧ t.reg.pacer.pcc = s.reg.pacer.pcc.withCursor s.nextPC ∧ t.mem = s.mem := by
  obtain ⟨t, ht, ⟨⟨⟨hrest, -⟩, hreg⟩, -, hpcc⟩, hrx⟩ := s.ret_wroteX d v
  exact ⟨t, ht, (congrArg Region.wait hreg :), (congrArg Region.snap hreg :), hrx, hpcc, (congrArg State.mem hrest :)⟩

theorem execWfe_expired {s : State} {start : Nat} {d a : XReg} (hw : s.reg.wait = .wfe start) (hev : s.reg.pacer.ev = 0) (ha : s.rx a ≠ 0)
    (hlim : (s.rx a).toNat ≤ s.cyc - start) :
    execWfe d a s = (s.onReg (fun g => { g with wait := .none, pacer := { g.pacer with ev := 0 } })).ret d 4 := by
  have hne : (s.rx a).toNat ≠ 0 := fun h => ha (BitVec.eq_of_toNat_eq h)
  simp [execWfe, hw, hev, hne, hlim]

theorem execSnapWait_expired {s : State} {start : Nat} {d a : XReg} {slot : BitVec 5} (hw : s.reg.wait = .snap start) (hslot : slot.toNat < 8)
    (hst : s.reg.snap.status = .pending) (hlim : (s.rx a).toNat ≤ s.cyc - start) :
    execSnapWait d a slot s = (s.onReg (fun g => { g with wait := .none, snap := { g.snap with status := .pending } })).ret d SnapStatus.pending.word := by
  rw [execSnapWait, State.within_le _ _ (Nat.le_of_lt_succ hslot)]
  simp [hw, hst, hlim]

section
variable {s s1 : State} {start : Nat} {d a : XReg} (ha : s.rx a ≠ 0) (hlim : (s.rx a).toNat ≤ s.cyc - start)
include ha hlim

theorem State.wfe_expires (hw : s.reg.wait = .wfe start) (hf : s.fetch = .ok (s1, .wfe d a)) (hev : s.reg.pacer.ev = 0) :
    ∃ t, Completes .wfeTimeout s t ∧ t.reg.wait = .none ∧ (∀ r, t.rx r = if r = d ∧ d ≠ 0 then 4 else s.rx r) ∧
      t.reg.pacer.pcc = s.reg.pacer.pcc.withCursor s.nextPC ∧ t.mem = s.mem := by
  have hc := State.cached_fetch hf
  have hexec : exec .wfeTimeout s = execWfe d a s1 := by
    show execWfeTimeout s = _
    simp only [execWfeTimeout, hw, hf, hev, bne_iff_ne.2 ha, hlim, beq_self_eq_true, decide_true, Bool.and_self, if_true]
  rw [← hc.rx] at ha hlim
  rw [execWfe_expired (hc.wait.trans hw) (by rw [hc.pacer, hev]) ha (hc.cyc ▸ hlim)] at hexec
  obtain ⟨t, ht, hwait, -, hrx, hpcc, hmem⟩ := State.ret_ends (s1.onReg (fun g => { g with wait := .none, pacer := { g.pacer with ev := 0 } })) d 4
  refine ⟨t, hexec.trans ht, by rw [hwait, State.onReg_reg], fun r => ?_, ?_, ?_⟩
  · rw [hrx, ← hc.rx]
    simp [State.rx, Pacer.rx]
  · rw [hpcc, ← hc.pacer, ← hc.nextPC]
    simp [State.nextPC, State.pc]
  · rw [hmem, State.onReg_mem, hc.mem]

theorem State.snapWait_expires {slot : BitVec 5} (hw : s.reg.wait = .snap start) (hf : s.fetch = .ok (s1, .snapWait d a slot)) (hslot : slot.toNat < 8)
    (hst : s.reg.snap.status = .pending) :
    ∃ t, Completes .snapWaitTimeout s t ∧ t.reg.wait = .none ∧ t.reg.snap = s.reg.snap ∧
      (∀ r, t.rx r = if r = d ∧ d ≠ 0 then SnapStatus.pending.word else s.rx r) ∧ t.reg.pacer.pcc = s.reg.pacer.pcc.withCursor s.nextPC := by
  have hc := State.cached_fetch hf
  have hexec : exec .snapWaitTimeout s = execSnapWait d a slot s1 := by
    show execSnapWaitTimeout s = _
    simp only [execSnapWaitTimeout, hw, hf, hst, bne_iff_ne.2 ha, hlim, beq_self_eq_true, decide_true, Bool.and_self, if_true]
  rw [execSnapWait_expired (hc.wait.trans hw) hslot (by rw [hc.snap, hst]) (by rw [hc.rx, hc.cyc]; exact hlim)] at hexec
  obtain ⟨t, ht, hwait, hsnap, hrx, hpcc, -⟩ :=
    State.ret_ends (s1.onReg (fun g => { g with wait := .none, snap := { g.snap with status := .pending } })) d SnapStatus.pending.word
  refine ⟨t, hexec.trans ht, by rw [hwait, State.onReg_reg], ?_, fun r => ?_, ?_⟩
  · rw [hsnap, State.onReg_reg, hc.snap, ← hst]
  · rw [hrx, ← hc.rx]
    simp [State.rx]
  · rw [hpcc, ← hc.pacer, ← hc.nextPC]
    simp [State.nextPC, State.pc]

end

theorem State.wfeTimeout_rests {s : State} (h : ∀ start, s.reg.wait ≠ .wfe start) : Completes .wfeTimeout s s := by
  show execWfeTimeout s = _
  unfold execWfeTimeout
  split
  · next hw _ => exact absurd hw (h _)
  · rfl

theorem State.snapWaitTimeout_rests {s : State} (h : ∀ start, s.reg.wait ≠ .snap start) : Completes .snapWaitTimeout s s := by
  show execSnapWaitTimeout s = _
  unfold execSnapWaitTimeout
  split
  · next hw _ => exact absurd hw (h _)
  · rfl

/-! ### Soft errors (R122, R127) -/

theorem State.fieldSoftError_found {s : State} {e : Nat} {i : Inst} (h : s.reg.insts.find? (fun i => e < i.elems.length) = some i)
    (site : SoftErrorSite) :
    exec (.fieldSoftError site e) s = .next (s.elemFault s.cur i.slot e (match site with | .token => 0x5C | .state => 0x5D)) := by
  show execFieldSoftError site e s = _
  cases site <;> simp only [execFieldSoftError, h]

theorem State.fieldSoftError_rests {s : State} {e : Nat} (h : s.reg.insts.find? (fun i => e < i.elems.length) = none) (site : SoftErrorSite) :
    Completes (.fieldSoftError site e) s s := by
  show execFieldSoftError site e s = _
  simp only [execFieldSoftError, h]

theorem State.onlyWaits_leaveBaton (s : State) (b : Baton) (r : Nat) : s.OnlyWaits (s.leaveBaton b r) := by
  unfold State.leaveBaton
  dsimp only
  split
  · exact .refl s
  · split
    · next t h => exact (State.onlyWaits_setObj h).trans (.of_regions rfl rfl)
    · exact .of_regions rfl rfl

theorem State.onlyWaits_endWait (s : State) (r : Nat) : s.OnlyWaits (s.onRegion r (fun g => { g with wait := .none })) :=
  s.onlyWaits_pacerWait (.pacer r) .none

/-- What giving up an instruction leaves of the regions. -/
theorem State.onlyWaits_abandon (s : State) (r : Nat) : s.OnlyWaits (s.abandon r) := by
  have hbatons : s.OnlyWaits (s.batons.foldl (fun t b => t.leaveBaton b r) s) := State.onlyWaits_foldl (fun t b => t.onlyWaits_leaveBaton b r) _ s
  unfold State.abandon
  dsimp only
  refine State.OnlyWaits.trans ?_ (State.onlyWaits_endWait _ r)
  exact hbatons.trans (.of_regions rfl rfl)

theorem State.OnlyWaits.unmasked {s t : State} (h : s.OnlyWaits t) (hs : s.unmasked) : t.unmasked := by
  obtain ⟨w, hw⟩ := h.reg
  rw [State.unmasked, hw]
  exact hs

theorem State.pacerSoftError_traps {s : State} (hrun : s.reg.run = .on) (hs : s.unmasked) (hw : s.reg.wait = .none) (reg : Nat) :
    ∃ t, Completes (.pacerRegisterSoftError reg) s t ∧ (s.abandon s.cur).entered t 0xAC (BitVec.ofNat 64 reg) := by
  have hmay : s.mayAbandon s.cur = true := by
    have hw' : (s.region s.cur).wait = .none := hw
    simp only [State.mayAbandon, hw']
  have hexec : exec (.pacerRegisterSoftError reg) s = (s.abandon s.cur).fail 0xAC (BitVec.ofNat 64 reg) := by
    show execPacerRegisterSoftError reg s = _
    simp only [execPacerRegisterSoftError, hrun, hmay, beq_self_eq_true, if_true, State.fail]
  exact ⟨_, hexec, State.trap_entered _ _ _ ((s.onlyWaits_abandon s.cur).unmasked hs)⟩

theorem State.pacerSoftError_rests {s : State} (hrun : s.reg.run ≠ .on) (reg : Nat) : Completes (.pacerRegisterSoftError reg) s s := by
  show execPacerRegisterSoftError reg s = _
  simp [execPacerRegisterSoftError, hrun]

/-! ### Requests of the MGC, and fetches that fail (R124, R125, R207) -/

theorem State.unmasked_iff (s : State) : s.unmasked ↔ (s.sup && s.reg.pacer.mask) = false := by
  rw [State.unmasked, State.sup, Bool.and_eq_false_iff]

theorem State.mgcRequest_traps {s : State} (hrun : s.reg.run = .on) (hw : s.reg.wait = .none) (hs : s.unmasked) (code : Word) :
    ∃ t, Completes (.mgcRequest code) s t ∧ s.entered t 0xAB code := by
  refine ⟨_, ?_, s.trapEntry_entered 0xAB code⟩
  show execMgcRequest code s = _
  simp [execMgcRequest, hrun, hw, s.unmasked_iff.1 hs]

theorem State.mgcRequest_rests {s : State} (h : ¬(s.reg.run = .on ∧ s.reg.wait = .none ∧ s.unmasked)) (code : Word) :
    Completes (.mgcRequest code) s s := by
  have hgate : (s.reg.run == .on && s.reg.wait == .none && !(s.sup && s.reg.pacer.mask)) = false := by
    rw [State.unmasked_iff, ← and_assoc] at h
    simpa using h
  show execMgcRequest code s = _
  rw [execMgcRequest, hgate]
  rfl

theorem State.fetchFault_traps {s : State} {c : Byte} {v : Word} (h : s.fetch = .error (c, v)) (hs : s.unmasked) :
    ∃ t, Completes (.fetchAndDecodeFault c v) s t ∧ s.entered t c v := by
  refine entered_of_fail hs ?_
  show execFetchAndDecodeFault c v s = _
  simp only [execFetchAndDecodeFault, h, beq_self_eq_true, Bool.and_self, if_true]

theorem State.fetchFault_rests {s : State} {x : State × Instr} (h : s.fetch = .ok x) (c : Byte) (v : Word) :
    Completes (.fetchAndDecodeFault c v) s s := by
  show execFetchAndDecodeFault c v s = _
  simp only [execFetchAndDecodeFault, h]

theorem State.fetch_misaligned {s : State} (h : s.pc.toNat % 4 ≠ 0) : s.fetch = .error (0x09, s.pc) := by
  have hw : s.fetchWord s.reg.pacer.pcc s.pc = .error (0x09, s.pc) := if_pos (bne_iff_ne.2 h)
  simp only [State.fetch, hw]

/-! ### Delivery of a pending fault (R126, R127) -/

/-- FLTPEND after the delivery of a fault, with w for the bits that hold no value then (log 13). -/
def fltDelivered (multi : Bool) (old w : Word) : Word := if multi then old &&& ~~~(1 : Word) else w &&& 0xFFFF00000000FF00

theorem fltDelivered_valid (multi : Bool) (old w : Word) : (fltDelivered multi old w).getLsbD 0 = false := by
  cases multi <;> simp [fltDelivered]

/-- The state that a delivery enters the trap from: the region's fault is no longer pending. -/
def State.unpended (s : State) (multi : Bool) : State :=
  s.drawWord.2.onReg (fun g => { g with pend := none, pacer := { g.pacer with fltpend := fltDelivered multi s.reg.pacer.fltpend s.drawWord.1 } })

theorem State.unpended_reg (s : State) (multi : Bool) : (s.unpended multi).reg = { s.reg with
    pend := none, pacer := { s.reg.pacer with fltpend := fltDelivered multi s.reg.pacer.fltpend s.drawWord.1 } } := State.onReg_reg _ _

theorem State.deliver_eq {s : State} {f : Pend} (hp : s.reg.pend = some f) :
    s.deliver = (s.unpended f.multi).trapEntry (if f.multi then 0x5F else f.cause) f.tval := by
  simp only [State.deliver, hp]
  rfl

theorem State.pendingFault_delivered {s : State} {f : Pend} (hp : s.reg.pend = some f) (hrun : s.reg.run = .on) (hs : s.unmasked)
    (hw : s.reg.wait = .none) : exec .pendingFaultDelivery s = .next s.deliver := by
  have hdue : s.faultDue = true := by simp [State.faultDue, hp, hrun, hw, s.unmasked_iff.1 hs]
  show execPendingFaultDelivery s = _
  simp only [execPendingFaultDelivery, hdue, hw, beq_self_eq_true, if_true]

theorem State.pendingFault_rests {s : State} (h : s.reg.pend = none) : Completes .pendingFaultDelivery s s := by
  have hdue : s.faultDue = false := by simp [State.faultDue, h]
  show execPendingFaultDelivery s = _
  simp only [execPendingFaultDelivery, hdue, Bool.false_eq_true, if_false]

/-- A delivery is trap entry with the fault's cause and TVAL, from a state in which no fault is pending. -/
theorem State.deliver_spec {s : State} {f : Pend} (hp : s.reg.pend = some f) :
    s.deliver.reg.pend = none ∧ s.deliver.mem = s.mem ∧ s.deliver.reg.pacer = { s.reg.pacer with
      fltpend := s.deliver.reg.pacer.fltpend, epc := s.pc, cause := (if f.multi then 0x5F else f.cause).zeroExtend 64, tval := f.tval,
      epcc := s.reg.pacer.pcc, pmode := s.reg.pacer.mode, mode := true, mask := true, pcc := Config.fwCode.withCursor s.reg.pacer.tvec } ∧
    s.deliver.reg.pacer.fltpend.getLsbD 0 = false := by
  obtain ⟨⟨hrest, -⟩, hpacer, hreg, -⟩ := (s.unpended f.multi).trapEntry_entered (if f.multi then 0x5F else f.cause) f.tval
  rw [← State.deliver_eq hp] at hrest hpacer hreg
  rw [State.unpended_reg] at hpacer hreg
  refine ⟨(congrArg Region.pend hreg :), (congrArg State.mem hrest :), ?_, ?_⟩
  · rw [hpacer]
    rfl
  · rw [hpacer]
    exact fltDelivered_valid _ _ _

/-- Settles O45: each event where it happens, and where it does not; a delivery is a trap entry from the state without the fault. -/
theorem regionEvents : Obligations.RegionEvents := by
  intro s
  refine ⟨fun start s1 d a hw hf hev ha hlim => State.wfe_expires ha hlim hw hf hev, State.wfeTimeout_rests,
    fun start s1 d a slot hw hf hslot hst ha hlim => State.snapWait_expires ha hlim hw hf hslot hst, State.snapWaitTimeout_rests,
    fun site e => ⟨fun i hi => ⟨_, State.fieldSoftError_found hi site, s.fieldFaulted_elemFault i.slot e _⟩,
      fun hnone => State.fieldSoftError_rests hnone site⟩,
    fun reg => ⟨fun hrun hs hw => State.pacerSoftError_traps hrun hs hw reg, fun hrun => State.pacerSoftError_rests hrun reg⟩,
    fun code => ⟨fun hrun hw hs => State.mgcRequest_traps hrun hw hs code, fun h => State.mgcRequest_rests h code⟩,
    fun c v => ⟨fun h hs => State.fetchFault_traps h hs, fun x h => State.fetchFault_rests h c v⟩,
    State.fetch_misaligned,
    fun f hp hrun hs hw => ⟨_, State.pendingFault_delivered hp hrun hs hw, State.deliver_spec hp⟩, State.pendingFault_rests⟩

end Sys2Proof.Machine

/-! # Proofs: what capability instructions make of their source (O13) -/

namespace Sys2Proof.Machine

open Sys2Proof Sys2Proof.Claims

/-! ### Capabilities that reach no further than another (R137, R138) -/

/-- With a tag, v comes from a tagged c, in its space, and its bounds lie within those of c. -/
def Cap.BoundedBy (v c : Cap) : Prop := v.tag = true → c.tag = true ∧ v.space = c.space ∧ c.base ≤ v.base ∧ v.top ≤ c.top

/-- v has no permission that c lacks. -/
def Cap.PermsWithin (v c : Cap) : Prop := ∀ i, v.perms.getLsbD i = true → c.perms.getLsbD i = true

/-- v reaches no further than c. -/
structure Cap.Within (v c : Cap) : Prop where
  bounds : v.BoundedBy c
  perms : v.PermsWithin c
  space : v.space = c.space

/-- In the Window the distance of the cursor from the base, in units of the exponent, is what BOFF holds. -/
theorem Cap.inWindow_distance {c : Cap} {a : Nat} (h : c.inWindow a = true) (k : Int) (hk : c.base = k * (2 ^ c.exp.toNat : Nat)) :
    0 ≤ ((a / 2 ^ c.exp.toNat : Nat) : Int) - k ∧ ((a / 2 ^ c.exp.toNat : Nat) : Int) - k < 2 ^ 24 := by
  have hpos : (0 : Int) < (2 ^ c.exp.toNat : Nat) := Int.natCast_pos.2 (Nat.two_pow_pos _)
  simp only [Cap.inWindow, Bool.and_eq_true, decide_eq_true_eq, hk] at h
  obtain ⟨hlo, hhi⟩ := h
  have hsplit : k * (2 ^ c.exp.toNat : Nat) + (2 ^ (c.exp.toNat + 24) : Nat) = (k + 2 ^ 24) * (2 ^ c.exp.toNat : Nat) := by
    rw [Nat.pow_add]
    push_cast
    ring
  rw [hsplit] at hhi
  have h1 := Int.le_ediv_of_mul_le hpos hlo
  have h2 := Int.ediv_lt_of_lt_mul hpos hhi
  rw [Int.natCast_div]
  omega

/-- A cursor that moves within the Window leaves the bounds. -/
theorem Cap.withCursor_base {c : Cap} {a : Word} (h : c.inWindow a.toNat = true) : (c.withCursor a).base = c.base := by
  have hpos : ((2 ^ c.exp.toNat : Nat) : Int) ≠ 0 := Int.natCast_ne_zero.2 (Nat.two_pow_pos _).ne'
  obtain ⟨hlo, hhi⟩ := Cap.inWindow_distance h _ rfl
  have hdiv : c.base / (2 ^ c.exp.toNat : Nat) = ((c.cursor.toNat / 2 ^ c.exp.toNat : Nat) - (c.boff.toNat : Int)) := Int.mul_ediv_cancel _ hpos
  rw [← hdiv] at hlo hhi
  have hboff : (((c.withCursor a).boff.toNat : Nat) : Int) = (a.toNat / 2 ^ c.exp.toNat : Nat) - c.base / (2 ^ c.exp.toNat : Nat) := by
    rw [Cap.withCursor, BitVec.toNat_ofInt]
    omega
  show ((a.toNat / 2 ^ c.exp.toNat : Nat) - ((c.withCursor a).boff.toNat : Int)) * (2 ^ c.exp.toNat : Nat) = _
  rw [hboff, sub_sub_cancel, hdiv]
  rfl

theorem Cap.withCursor_within (c : Cap) (a : Word) : (c.withCursor a).Within c := by
  refine ⟨fun h => ?_, fun _ => id, rfl⟩
  obtain ⟨htag, hin⟩ := Bool.and_eq_true_iff.1 h
  have hbase := Cap.withCursor_base hin
  exact ⟨htag, rfl, hbase.ge, (congrArg (· + (c.len.toNat * (2 ^ c.exp.toNat : Nat) : Int)) hbase).le⟩

/-! ### CSETB's bounds (R244) -/

/-- The exponent that CSETB takes is one that the format holds, with a length that LEN holds. -/
theorem leastExp_spec {l : Nat} (fuel : Nat) : ∀ e, l < 2 ^ (e + fuel + 24) → l < 2 ^ (leastExp l fuel e + 24) ∧ leastExp l fuel e ≤ e + fuel := by
  induction fuel with
  | zero => exact fun e h => ⟨h, le_rfl⟩
  | succ fuel ih =>
    intro e h
    rw [leastExp]
    split
    · next hlt => exact ⟨hlt, by omega⟩
    · obtain ⟨h1, h2⟩ := ih (e + 1) (by rwa [show e + 1 + fuel = e + (fuel + 1) by omega])
      exact ⟨h1, by omega⟩

/-- What CSETB gives: from the cursor on, l bytes that lie within the bounds of its source. -/
theorem Cap.setBounds_spec {c v : Cap} {l : Nat} (hl : l < 2 ^ 64) (h : c.setBounds l = .ok v) :
    c.tag = true ∧ c.base ≤ c.cursor.toNat ∧ ((c.cursor.toNat + l : Nat) : Int) ≤ c.top ∧ v.space = c.space ∧ v.perms = c.perms ∧
      v.base = c.cursor.toNat ∧ v.top = ((c.cursor.toNat + l : Nat) : Int) := by
  obtain ⟨hlen, he⟩ := leastExp_spec 41 0 (hl.trans (by decide : 2 ^ 64 < 2 ^ (0 + 41 + 24)))
  simp only [Cap.setBounds] at h
  generalize leastExp l 41 0 = e at h hlen he
  split at h
  · cases h
  next htag =>
  split at h
  · cases h
  next hin =>
  split at h
  · cases h
  next hal =>
  cases h
  simp only [Bool.or_eq_true, decide_eq_true_eq, bne_iff_ne, not_or, not_not, not_lt] at hin hal
  obtain ⟨hb, hbl⟩ := hal
  have hexp : (BitVec.ofNat 6 e).toNat = e := Nat.mod_eq_of_lt (by omega)
  have hquot : l / 2 ^ e < 2 ^ 24 := Nat.div_lt_of_lt_mul (by rwa [← Nat.pow_add])
  have hlenv : (BitVec.ofNat 24 (l / 2 ^ e)).toNat = l / 2 ^ e := Nat.mod_eq_of_lt hquot
  have hdvd : 2 ^ e ∣ l := (Nat.dvd_add_right (Nat.dvd_of_mod_eq_zero hb)).1 (Nat.dvd_of_mod_eq_zero hbl)
  have hbase : ((c.cursor.toNat / 2 ^ e : Nat) - ((0 : BitVec 24).toNat : Int)) * (2 ^ e : Nat) = c.cursor.toNat := by
    rw [show ((0 : BitVec 24).toNat : Int) = 0 from rfl, sub_zero]
    exact_mod_cast Nat.div_mul_cancel (Nat.dvd_of_mod_eq_zero hb)
  refine ⟨by simpa using htag, hin.1, hin.2, rfl, rfl, ?_, ?_⟩
  · simp only [Cap.base, hexp]
    exact hbase
  · simp only [Cap.top, Cap.base, hexp, hlenv]
    rw [hbase]
    exact_mod_cast congrArg (c.cursor.toNat + ·) (Nat.div_mul_cancel hdvd)

theorem Cap.setBounds_within {c v : Cap} {l : Nat} (hl : l < 2 ^ 64) (h : c.setBounds l = .ok v) : v.Within c := by
  obtain ⟨htag, hlo, hhi, hspace, hperms, hbase, htop⟩ := Cap.setBounds_spec hl h
  exact ⟨fun _ => ⟨htag, hspace, hbase ▸ hlo, htop ▸ hhi⟩, fun _ => hperms ▸ id, hspace⟩

/-! ### CANDP and CCLR (R243, R245) -/

theorem Cap.andPerms_within (c : Cap) (m : BitVec 7) : ({ c with perms := c.perms &&& m } : Cap).Within c :=
  ⟨fun h => ⟨h, rfl, le_rfl, le_rfl⟩, fun i h => by
    rw [BitVec.getLsbD_and, Bool.and_eq_true] at h
    exact h.1, rfl⟩

theorem Cap.untagged_within (c : Cap) : ({ c with tag := false } : Cap).Within c := ⟨nofun, fun _ => id, rfl⟩

/-! ### The obligation -/

@[simp] theorem State.rc_zero (s : State) : s.rc 0 = Cap.null := rfl

theorem State.wroteC_same {s t : State} {cd : CReg} {v : Cap} {pc : Word} (h : s.wroteC t cd v pc) : t.rc cd = if cd = 0 then Cap.null else v := by
  obtain ⟨_, _, _, hc⟩ := h
  rw [hc cd]
  split_ifs with h1 h2 h2
  · exact absurd h2 h1.2
  · rfl
  · exact h2 ▸ s.rc_zero
  · exact absurd ⟨rfl, h2⟩ h1

/-- C(CD) reaches no further than c: what the obligation says of an instruction's result. -/
def State.Narrows (s t : State) (cd : CReg) (c : Cap) : Prop :=
  (t.rc cd).BoundedBy c ∧ (t.rc cd).PermsWithin c ∧ (cd ≠ 0 → (t.rc cd).space = c.space) ∧ ∀ e, e ≠ cd → t.rc e = s.rc e

/-- C0 stays the null capability, which has neither tag nor permission; another register holds the result. -/
theorem State.narrows_of_wroteC {s t : State} {cd : CReg} {c v : Cap} {pc : Word} (h : s.wroteC t cd v pc) (hv : v.Within c) : s.Narrows t cd c := by
  have hcd := State.wroteC_same h
  obtain ⟨_, _, _, hc⟩ := h
  obtain ⟨htag, hperms, hspace⟩ := hv
  have hother : ∀ e, e ≠ cd → t.rc e = s.rc e := fun e he => (hc e).trans (if_neg fun h => he h.1)
  by_cases h0 : cd = 0
  · rw [if_pos h0] at hcd
    rw [State.Narrows, hcd]
    exact ⟨nofun, fun i h => absurd h (by simp [Cap.null]), fun h => absurd h0 h, hother⟩
  · rw [if_neg h0] at hcd
    rw [State.Narrows, hcd]
    exact ⟨htag, hperms, fun _ => hspace, hother⟩

/-- An instruction that ends by writing a capability within c to C(CD). -/
theorem narrows_of_retC {s : State} {i : Instr} {cd : CReg} {c v : Cap} (h : exec i s = s.retC cd v) (hv : v.Within c) :
    ∃ t, Completes i s t ∧ s.Narrows t cd c := by
  obtain ⟨t, ht, hw⟩ := s.retC_wroteC cd v
  exact ⟨t, h.trans ht, State.narrows_of_wroteC hw hv⟩

theorem exec_csetb_ok {s : State} {cd ca : CReg} {b : XReg} {v : Cap} (h : (s.rc ca).setBounds (s.rx b).toNat = .ok v) :
    exec (.csetb cd ca b) s = s.retC cd v := by
  show execCsetb cd ca b s = _
  rw [execCsetb, h]

theorem exec_csetb_error {s : State} {cd ca : CReg} {b : XReg} {f : Byte} (h : (s.rc ca).setBounds (s.rx b).toNat = .error f) :
    exec (.csetb cd ca b) s = s.fail f (s.rc ca).cursor := by
  show execCsetb cd ca b s = _
  rw [execCsetb, h]

/-- Settles O13: each instruction ends with a capability within its source, or with its fault. -/
theorem capabilitiesOnlyShrink : Obligations.CapabilitiesOnlyShrink := by
  intro s cd ca b
  refine ⟨narrows_of_retC rfl ((s.rc ca).withCursor_within _),
    fun v hv => narrows_of_retC (exec_csetb_ok hv) (Cap.setBounds_within (s.rx b).isLt hv),
    fun f hf hs => entered_of_fail hs (exec_csetb_error hf),
    fun ht => narrows_of_retC (if_pos ht) ((s.rc ca).andPerms_within _),
    fun ht hs => entered_of_fail hs (if_neg (Bool.eq_false_iff.1 ht)), ?_⟩
  obtain ⟨t, ht, hw⟩ := s.retC_wroteC cd { s.rc ca with tag := false }
  refine ⟨t, ht, State.narrows_of_wroteC hw (s.rc ca).untagged_within, ?_⟩
  rw [State.wroteC_same hw]
  split <;> rfl

end Sys2Proof.Machine

/-! # Proofs: one request of a Pacer in an empty ordering machine -/

namespace Sys2Proof.Machine

open Sys2Proof Sys2Proof.Claims

/-! ### From the instruction to RQ (R165, R235) -/

/-- The request that a Pacer's new request becomes in RQ. -/
def State.reqOf (v : State) (r : NewReq) : Req :=
  { stamp := v.stamp, born := v.now, issuer := .pacer v.cur, stage := .rq v.cur, port := r.port, key := r.key, va := r.va, cmpr := r.cmpr,
    posted := false, act := r.act }

theorem State.await_single {v : State} (h : v.reqs = []) (r : NewReq) (k : Cont) :
    (v.enterPacer [r]).1.await k (v.enterPacer [r]).2 = v.inFlight (v.reqOf r) k := by
  simp only [State.enterPacer, State.enter, h]
  rfl

/-- The note of a watched address leaves everything but the regions, and the Pacer's registers. -/
theorem State.noted_frame (s : State) (a : Word) (n : Nat) :
    ∃ rs, s.noteAccess a n = { s with regions := rs } ∧ ({ s with regions := rs } : State).reg.pacer = s.reg.pacer := by
  rcases s.noteAccess_frame a n with h | h
  · exact ⟨s.regions, h, rfl⟩
  · refine ⟨_, h, ?_⟩
    show (s.onReg (fun g => { g with dataBrk := some a })).reg.pacer = _
    rw [State.onReg_reg]

/-- An instruction on one piece has its request in RQ. -/
theorem State.issueWait_single {s : State} (h : s.reqs = []) (a : Word) (sp n : Nat) (p : Piece) (act : Piece → Act) (k : Cont) :
    ∃ e rs, let v : State := { s with tlb := e, regions := rs }
      v.reg.pacer = s.reg.pacer ∧ s.issueWait a sp n [p] act k = .next (v.inFlight (v.pieceReq p (act p)) k) := by
  obtain ⟨e, he⟩ := s.walked_frame sp (inSpace a) n
  obtain ⟨rs, hrs, hpacer⟩ := ({ s with tlb := e } : State).noted_frame a n
  refine ⟨e, rs, hpacer, ?_⟩
  simp only [State.issueWait, he, hrs, List.map_cons, List.map_nil]
  rw [State.await_single (v := { s with tlb := e, regions := rs }) h]
  rfl

/-! ### From RQ to the port, and back (R167) -/

/-- Two PASSes take the one request to its port. -/
theorem State.runs_to_port {v t : State} {q : Req} {k : Cont} {is : List Instr} (hst : q.stage = .rq v.cur)
    (h : Runs (v.inFlight { q with stage := .pq } k) is t) :
    Runs (v.inFlight q k) (.pass .rq 0 q.port :: .pass .dq (dieOf v.cur) q.port :: is) t :=
  ⟨_, State.pass_inFlight hst, _, State.pass_inFlight (l := .dq) (q := { q with stage := .dq (dieOf v.cur) }) rfl, h⟩

/-- APPLY of the one request, where no queue can end. -/
theorem State.apply_single {v t : State} {q : Req} {k : Cont} (hst : q.stage = .pq) (hi : q.issuer = .pacer v.cur) (hp : q.port ≠ .aperture)
    (hl : v.portFault (some (dieOf v.cur)) q.port = none) (ha : ((v.inFlight q k).dropReq q).applyAct q = some t)
    (hd : q.act.mutates = false ∨ t.queues = []) : Completes (.apply q.port) (v.inFlight q k) t := by
  have hreqs : (v.inFlight q k).portReqs q.port = [q] := by
    have h1 : (v.inFlight q k).reqs = [q] := rfl
    simp [State.portReqs, h1, hst]
  have hlink : (v.inFlight q k).linkFault q = none := by
    simp only [State.linkFault, hi]
    exact hl
  have hdead : (if q.mayClaim then t.deadQueues q.key else t) = t := by
    rcases hd with hd | hd
    · rw [Req.mayClaim, hd, Bool.and_false]
      rfl
    · rw [State.deadQueues_of_none fun x hx => absurd (hd ▸ hx) List.not_mem_nil, ite_self]
  refine State.completes_apply hp hreqs ?_
  simp only [State.applyReq, hlink, ha, Option.map_some, hdead]

/-- The last response of a wait reaches its Pacer, and its instruction completes. -/
theorem State.pacerResp_single {s : State} {r : Nat} {x : Resp} {c : Cont} (hw : (s.region r).wait = .resp c [x.stamp] []) (hx : x.cause = none)
    (hc : ∀ d, c ≠ .toC d) : s.pacerResp r x = s.as r (fun t => t.complete c [x.bytes]) := by
  have hlate : State.pacerResp.late s r x = s := by simp only [State.pacerResp.late, hx]
  cases c with
  | toC d => exact absurd rfl (hc d)
  | _ => simp [State.pacerResp, hw, hx, hlate]

/-- RETURN of the one response. -/
theorem State.ret_single {u t : State} {x : Resp} {c : Cont} (hr : u.resps = [x]) (hd : u.dropped = []) (hi : x.issuer = .pacer u.cur)
    (hx : x.cause = none) (hw : u.reg.wait = .resp c [x.stamp] []) (hc : ∀ d, c ≠ .toC d)
    (ht : ({ u with resps := [] } : State).complete c [x.bytes] = t) (hcur : t.cur = u.cur) : Completes (.ret 0) u t := by
  have hgone : u.resps.filter (fun y => y.stamp != x.stamp || y.issuer != x.issuer || y.port != x.port) = [] := by simp [hr]
  have hstep : u.deliverResp x = t := by
    rw [State.deliverResp_pacer hd hi, hgone, State.pacerResp_single (s := { u with resps := [] }) hw hx hc]
    refine (State.as_cur ({ u with resps := [] } : State) (fun t => t.complete c [x.bytes]) ?_).trans ht
    rw [ht]
    exact hcur
  refine congrArg Host.Outcome.next ?_
  rw [hr]
  exact hstep

/-! ### The end of the instruction -/

/-- Nothing is on its way in u, in which the turn and the Pacer's registers are those of s. -/
structure State.Back (s u : State) : Prop where
  cur : u.cur = s.cur
  pacer : u.reg.pacer = s.reg.pacer
  reqs : u.reqs = []
  resps : u.resps = []

/-- The wait is over, X(d) holds v, and execution continues at NextPC. -/
def State.endX (u : State) (d : XReg) (v : Word) : State := ((u.onReg (fun g => { g with wait := .none })).wx d v).advance

@[simp] theorem State.endX_cur (u : State) (d : XReg) (v : Word) : (u.endX d v).cur = u.cur := rfl
@[simp] theorem State.endX_mem (u : State) (d : XReg) (v : Word) : (u.endX d v).mem = u.mem := rfl

theorem State.endX_reg (u : State) (d : XReg) (v : Word) : (u.endX d v).reg =
    { u.reg with wait := .none, pacer := { u.reg.pacer.wx d v with pcc := u.reg.pacer.pcc.withCursor (u.pc + 4) } } := by
  simp [State.endX, State.pc]

theorem State.Back.came {s u : State} (h : s.Back u) (d : XReg) (v : Word) : came s (u.endX d v) d v := by
  have hpc : u.pc + 4 = s.nextPC := by rw [State.pc, h.pacer]; rfl
  have hreg := u.endX_reg d v
  rw [hpc, h.pacer] at hreg
  refine ⟨fun r => ?_, by rw [hreg], by rw [hreg], h.reqs, h.resps⟩
  have hr : (u.endX d v).rx r = (s.reg.pacer.wx d v).rx r := by
    rw [State.rx, hreg]
    rfl
  rw [hr]
  exact Pacer.rx_wx s.reg.pacer d r v

/-- A result for X0 is discarded. -/
theorem State.endDone_eq (u : State) : (u.onReg (fun g => { g with wait := .none })).advance = u.endX 0 0 := by
  simp [State.endX, State.onPacer, State.onReg, Pacer.wx, State.pc]

end Sys2Proof.Machine

/-! # Proofs: AMO through the ordering machine (O35) -/

namespace Sys2Proof.Machine

open Sys2Proof Sys2Proof.Claims

/-! ### The operation (R274) -/

theorem amoNew_word (op : AmoOp) (w : Nat) (v cmp : Word) : amoNew op w v cmp 8 = (amoResult op (BitVec.ofNat 64 w) v cmp).toNat := by
  have hlt : ∀ x : Word, x.toNat % 256 ^ 8 = x.toNat := fun x => Nat.mod_eq_of_lt x.isLt
  simp only [amoNew]
  rw [hlt]
  cases op <;> simp [amoResult, BitVec.slt_iff_toInt_lt]

/-- Bytes of a word that an X register takes. -/
theorem loaded_leBytes_word (v : Nat) : loaded (leBytes 8 v) 8 false = BitVec.ofNat 64 v := by
  have htake : (leBytes 8 v).take 8 = leBytes 8 v := List.take_of_length_le (leBytes_length 8 v).le
  simp only [loaded, htake, leNat_leBytes, Bool.false_eq_true, if_false]
  exact BitVec.eq_of_toNat_eq (Nat.mod_mod v (2 ^ 64))

/-! ### Its request at the port (R148) -/

section
variable {v t : State} {q : Req} {op : AmoOp} {x cmp : Word} {c : Cont}

/-- The answer to an AMO on a word of its Pacer. -/
def State.amoAnswer (v : State) (q : Req) : Resp :=
  { stamp := q.stamp, issuer := .pacer v.cur, va := q.va, port := q.port, bytes := leBytes 8 (v.rdWord q.key), flag := true, cause := none }

/-- The atomic of the one request: its word is written, and the old one is on its way. -/
theorem State.applyAct_amo (hrs : v.resps = []) (hi : q.issuer = .pacer v.cur) (ha : q.act = .amo op 8 x cmp)
    (hr : v.refuses q.key (plain (leBytes 8 (amoNew op (v.rdWord q.key) x cmp 8))) q.cmpr 2 = none) :
    ((v.inFlight q c).dropReq q).applyAct q =
      some { v.answered q c (leBytes 8 (amoNew op (v.rdWord q.key) x cmp 8)) with resps := [v.amoAnswer q] } := by
  generalize hb : leBytes 8 (amoNew op (v.rdWord q.key) x cmp 8) = new at hr ⊢
  have hresps : (((v.inFlight q c).dropReq q).applyWrite q.key (plain new) q.cmpr).resps = [] := (State.applyWrite_resps _ _ _ _).trans hrs
  have hat : ((v.inFlight q c).dropReq q).atomicAt q.key 8 q.cmpr (fun w => amoNew op w x cmp 8) =
      .ok (((v.inFlight q c).dropReq q).applyWrite q.key (plain new) q.cmpr, v.rdWord q.key) := by
    have hrd : leNat (((v.inFlight q c).dropReq q).rd q.key 8) = v.rdWord q.key := rfl
    have href : ((v.inFlight q c).dropReq q).refuses q.key (plain new) q.cmpr 2 = none := hr
    simp only [State.atomicAt, hrd, hb, href]
  simp only [State.applyAct, ha, hat, State.respond, State.answered, hresps, hi, List.nil_append, State.amoAnswer]

/-- What the write leaves to the end of the instruction. -/
theorem State.back_answered (v : State) (q : Req) (c : Cont) (bs : List Byte) : v.Back { v.answered q c bs with resps := [] } := by
  have hw := ((v.inFlight q c).dropReq q).wrote_applyWrite q.key (plain bs) q.cmpr
  have hreqs : ((v.inFlight q c).dropReq q).reqs = [] := by
    have h1 : (v.inFlight q c).reqs = [q] := rfl
    simp [State.dropReq, h1]
  refine ⟨hw.cur, ?_, hw.reqs.trans hreqs, rfl⟩
  show (v.answered q c bs).reg.pacer = _
  rw [State.answered_reg]

theorem State.answered_mem (v : State) (q : Req) (c : Cont) (bs : List Byte) : (v.answered q c bs).mem = Memory.setBytes v.mem q.key bs := by
  have h := (((v.inFlight q c).dropReq q).applyWrite_mem q.key (plain bs) q.cmpr).1
  rw [State.merged_plain] at h
  exact (v.answered_frame q c bs).1.trans h

theorem State.answered_dropped (v : State) (q : Req) (c : Cont) (bs : List Byte) : (v.answered q c bs).dropped = v.dropped := by
  have h := congrArg State.dropped (((v.inFlight q c).dropReq q).wrote_applyWrite q.key (plain bs) q.cmpr).rest
  exact h

/-- The whole way of an AMO's request, and the end of its instruction in t. -/
theorem State.runs_amo (hqs : v.queues = []) (hrs : v.resps = []) (hdr : v.dropped = []) (hi : q.issuer = .pacer v.cur) (hst : q.stage = .rq v.cur)
    (hp : q.port ≠ .aperture) (ha : q.act = .amo op 8 x cmp) (hl : v.portFault (some (dieOf v.cur)) q.port = none)
    (hr : v.refuses q.key (plain (leBytes 8 (amoNew op (v.rdWord q.key) x cmp 8))) q.cmpr 2 = none) (hc : ∀ d, c ≠ .toC d) :
    ∃ u, v.Back u ∧ u.mem = Memory.setBytes v.mem q.key (leBytes 8 (amoNew op (v.rdWord q.key) x cmp 8)) ∧
      ∀ t, u.complete c [leBytes 8 (v.rdWord q.key)] = t → t.cur = u.cur →
        Runs (v.inFlight q c) [.pass .rq 0 q.port, .pass .dq (dieOf v.cur) q.port, .apply q.port, .ret 0] t := by
  have hact := State.applyAct_amo (q := { q with stage := .pq }) (c := c) hrs hi ha hr
  generalize leBytes 8 (amoNew op (v.rdWord q.key) x cmp 8) = new at hr hact ⊢
  let b := v.answered { q with stage := .pq } c new
  have hback := v.back_answered { q with stage := .pq } c new
  have hqueues : b.queues = [] := (State.applyWrite_queues _ _ _ _).trans hqs
  refine ⟨{ b with resps := [] }, hback, v.answered_mem _ _ _, fun t ht hcur => ?_⟩
  refine State.runs_to_port hst ⟨_, State.apply_single (q := { q with stage := .pq }) rfl hi hp hl hact (.inr hqueues), t, ?_, rfl⟩
  refine State.ret_single (c := c) rfl ((v.answered_dropped _ _ _).trans hdr) (congrArg Issuer.pacer hback.cur.symm) rfl ?_ hc ht hcur
  exact congrArg Region.wait (v.answered_reg { q with stage := .pq } c new)

end

/-! ### The instruction -/

theorem State.wordOp_of_checks {s : State} {ca : CReg} {n perms kind : Nat} {spaces : List Nat} {use : Use} {sc : BitVec 3} {ok : BitVec 2}
    {kinds : List Nat} {sp : Nat} {ps : List Piece} (hq : qualOk sc ok kinds = true) (ha : (s.rc ca).cursor.toNat % n = 0)
    (hacc : s.access (s.rc ca) (s.rc ca).cursor.toNat n perms kind spaces use = .ok (sp, ps)) (hrel : s.qualReleased sc ok = true) (i : Instr)
    (k : Word → Nat → List Piece → Out) : s.wordOp i ca n perms kind spaces use sc ok kinds k = k (s.rc ca).cursor sp ps := by
  simp only [State.wordOp, hq, ha, hacc, hrel, Bool.not_true, bne_self_eq_false, Bool.false_eq_true, if_false, if_true]

/-- An empty ordering machine holds up no release (R166, R170). -/
theorem State.qualReleased_of_quiet {s : State} (hreqs : s.reqs = []) (hresps : s.resps = []) (sc : BitVec 3) (ok : BitVec 2) :
    s.qualReleased sc ok = true := by
  simp [State.qualReleased, State.released, State.reached, hreqs, hresps]

/-- Each of the table's instructions is `State.amo` with its operation. -/
theorem exec_amo {q : (XReg → CReg → XReg → BitVec 3 → BitVec 2 → Instr) × AmoOp} (hq : q ∈ amoTable) (s : State) (d : XReg) (ca : CReg) (b : XReg)
    (sc : BitVec 3) (ok : BitVec 2) : exec (q.1 d ca b sc ok) s = s.amo (q.1 d ca b sc ok) q.2 d ca b sc ok := by
  simp only [amoTable, List.mem_cons, List.not_mem_nil, or_false] at hq
  rcases hq with rfl | rfl | rfl | rfl | rfl | rfl | rfl | rfl <;> rfl

/-- An AMO ends with the old word. -/
theorem State.complete_amo (u : State) (d : XReg) (w : Nat) : u.complete (.held (.toX d 8 false)) [leBytes 8 w] = u.endX d (BitVec.ofNat 64 w) := by
  rw [← loaded_leBytes_word]
  simp only [State.complete, List.flatten_cons, List.flatten_nil, List.append_nil]
  rfl

/-- Settles O35: the request is followed from RQ to its port and back; the port writes the operation's result and answers with the old word. -/
theorem atomicsComplete : Obligations.AtomicsComplete := by
  intro q hq s d ca b sc ok sp p hquiet hreach _ a w r hqual halign hacc href
  obtain ⟨hreqs, hresps, hdrop, hqs, _, _, _, hwf⟩ := hquiet
  obtain ⟨hport, hfault, _, _⟩ := hreach
  have hnew : amoNew q.2 (s.rdWord p.key) (s.rx b) (s.rx d) 8 = r.toNat := amoNew_word _ _ _ _
  obtain ⟨e, rs, hpacer, hissue⟩ := State.issueWait_single hreqs a sp 8 p (fun _ => .amo q.2 8 (s.rx b) (s.rx d)) (.held (.toX d 8 false))
  have hexec := (exec_amo hq s d ca b sc ok).trans
    ((State.wordOp_of_checks hqual halign hacc (State.qualReleased_of_quiet hreqs hresps sc ok) _ _).trans hissue)
  obtain ⟨u, ⟨hcur, hpac, hureqs, huresps⟩, hmem, hruns⟩ := State.runs_amo (v := { s with tlb := e, regions := rs })
    (q := State.pieceReq { s with tlb := e, regions := rs } p (.amo q.2 8 (s.rx b) (s.rx d))) (c := .held (.toX d 8 false)) hqs hresps hdrop rfl rfl
    hport rfl hfault ((congrArg (fun n => s.refuses p.key (plain (leBytes 8 n)) p.cmpr 2) hnew).trans href) nofun
  have hmem' : u.mem = Memory.setBytes s.mem p.key (leBytes 8 r.toNat) := hmem.trans (congrArg (fun n => Memory.setBytes s.mem p.key (leBytes 8 n)) hnew)
  have hback : s.Back u := ⟨hcur, hpac.trans hpacer, hureqs, huresps⟩
  refine ⟨u.endX d w, ⟨_, hexec, hruns _ (u.complete_amo d _) rfl⟩, hback.came d w, ?_, fun k hk => ?_⟩
  · rw [State.rdWord, State.rd_setBytes (s := u.endX d w) hwf (leBytes_length 8 r.toNat) hmem', leNat_leBytes]
    exact Nat.mod_eq_of_lt r.isLt
  · rw [State.endX_mem, hmem', Memory.get_setBytes _ _ _ _ hwf, leBytes_length, if_neg hk]

end Sys2Proof.Machine

/-! # Proofs: requests to the ports of a declaration (O38) -/

namespace Sys2Proof.Machine

open Sys2Proof Sys2Proof.Claims

/-! ### Ports by number -/

@[simp] theorem portNum_portOfNum (n : Nat) : portNum (portOfNum n) = n := by
  unfold portOfNum
  split
  · show 4 * (n / 4) + n % 4 = n
    omega
  · show 1024 + (n - 1024) = n
    omega

theorem portOfNum_ne_aperture (n : Nat) : portOfNum n ≠ .aperture := by
  unfold portOfNum
  split <;> nofun

/-- A port of memory is reached unless a die link is cut (R122). -/
theorem State.portFault_portOfNum {s : State} {d : Option Nat} {n : Nat} (h : s.cut d (portOfNum n) = false) : s.portFault d (portOfNum n) = none := by
  simp only [State.portFault, h, Bool.false_eq_true, if_false]
  by_cases hn : n < 1024 <;> simp [portOfNum, hn]

/-! ### A request that waits in a declaration's queue (R174, R175) -/

/-- The declaration with a message at the end of its queue at port n. -/
def Decl.queued (e : Decl) (n : Nat) (m : Maint) : Decl := { e with mq := AMap.put e.mq n (AMap.findD e.mq n [] ++ [m]) }

theorem Decl.queued_mq {e : Decl} {n : Nat} (h : AMap.findD e.mq n [] = []) (m : Maint) : AMap.findD (e.queued n m).mq n [] = [m] := by
  simp [Decl.queued, h]

theorem State.serve_syncReply {s : State} {p g st : Nat} {iss : Issuer} {port : Port} {d : Decl} {rest : List Maint}
    (hd : AMap.find s.decls g = some d) (hm : AMap.findD d.mq p [] = .syncReply st iss port :: rest) :
    s.serve p g = { s with
      decls := AMap.put s.decls g { d with mq := AMap.put d.mq p rest },
      resps := s.resps ++ [{ stamp := st, issuer := iss, va := 0, port := port, flag := true, bytes := [], cause := if d.lost then some 0x8F else none }] } := by
  simp only [State.serve, hd, hm]

/-- The response that a port sends for the one request when it serves it: without a fault. -/
def State.ServesTo (s t : State) (q : Req) (bs : List Byte) : Prop :=
  ∃ ds r, t = { s with decls := ds, resps := s.resps ++ [r] } ∧ r.stamp = q.stamp ∧ r.issuer = q.issuer ∧ r.bytes = bs ∧ r.cause = none

/-- A read that is accepted is served with the port's partials of its indices. -/
theorem State.serve_queued_reply {s : State} {id : Nat} {e : Decl} {q : Req} {idxs : List Nat}
    (hl : e.lost = false) (hm : AMap.findD e.mq (portNum q.port) [] = []) (hs : ∀ i ∈ idxs, (e.part (portNum q.port) i).spoilt = false) :
    let w : State := { s with decls := AMap.put s.decls id (e.queued (portNum q.port) (.reply q.stamp q.issuer q.va q.port idxs)) }
    w.ServesTo (w.serve (portNum q.port) id) q (idxs.flatMap (fun i => (e.part (portNum q.port) i).bytes)) := by
  intro w
  obtain ⟨d, r, hserve, _, _, hst, hiss, hbytes, hcause⟩ := State.serve_reply (s := w) (AMap.find_put_same s.decls id _) (Decl.queued_mq hm _)
  have hsound : ¬((e.queued (portNum q.port) (.reply q.stamp q.issuer q.va q.port idxs)).lost = true ∨
      ∃ i ∈ idxs, ((e.queued (portNum q.port) (.reply q.stamp q.issuer q.va q.port idxs)).part (portNum q.port) i).spoilt = true) := by
    rintro (h | ⟨i, hi, h⟩)
    · exact Bool.false_ne_true (hl.symm.trans h)
    · exact Bool.false_ne_true ((hs i hi).symm.trans h)
  exact ⟨_, r, hserve, hst, hiss, hbytes, hcause.trans (if_neg hsound)⟩

theorem State.serve_queued_sync {s : State} {id : Nat} {e : Decl} {q : Req} (hl : e.lost = false)
    (hm : AMap.findD e.mq (portNum q.port) [] = []) :
    let w : State := { s with decls := AMap.put s.decls id (e.queued (portNum q.port) (.syncReply q.stamp q.issuer q.port)) }
    w.ServesTo (w.serve (portNum q.port) id) q [] := by
  intro w
  have hserve := State.serve_syncReply (s := w) (AMap.find_put_same s.decls id _) (Decl.queued_mq hm _)
  refine ⟨_, _, hserve, rfl, rfl, rfl, ?_⟩
  show (if e.lost then some 0x8F else none) = none
  rw [hl]
  rfl

/-- The whole way of the one request, by way of a declaration's queue, and the end of its instruction in t. -/
theorem State.runs_served {v : State} {q : Req} {c : Cont} {n id : Nat} {m : Maint} {bs : List Byte} {e : Decl} (hrs : v.resps = [])
    (hdr : v.dropped = []) (hi : q.issuer = .pacer v.cur) (hst : q.stage = .rq v.cur) (hp : q.port = portOfNum n) (hmut : q.act.mutates = false)
    (hcut : v.cut (some (dieOf v.cur)) (portOfNum n) = false)
    (hact : ∀ u : State, u.decls = v.decls → u.applyAct { q with stage := .pq } = some { u with decls := AMap.put u.decls id (e.queued n m) })
    (hserve : ∀ u : State, u.decls = v.decls → ({ u with decls := AMap.put u.decls id (e.queued n m) } : State).ServesTo
      (({ u with decls := AMap.put u.decls id (e.queued n m) } : State).serve n id) q bs)
    (hc : ∀ d, c ≠ .toC d) :
    ∃ u, v.Back u ∧ u.mem = v.mem ∧ ∀ t, u.complete c [bs] = t → t.cur = u.cur →
      Runs (v.inFlight q c) [.pass .rq 0 (portOfNum n), .pass .dq (dieOf v.cur) (portOfNum n), .apply (portOfNum n), .serve (portOfNum n) id, .ret 0] t := by
  let q' : Req := { q with stage := .pq }
  let b := (v.inFlight q' c).dropReq q'
  let w : State := { b with decls := AMap.put b.decls id (e.queued n m) }
  obtain ⟨ds, r, hw, hstamp, hissuer, hbytes, hcause⟩ := hserve b rfl
  have hresps : w.resps = [] := hrs
  have hreqs : b.reqs = [] := by
    have h1 : (v.inFlight q' c).reqs = [q'] := rfl
    simp [b, State.dropReq, h1]
  have hreg : w.reg = { v.reg with wait := .resp c [q.stamp] [] } :=
    State.onReg_reg { v with reqs := [q'], stamp := v.stamp + 1 } (fun g => { g with wait := .resp c [q.stamp] [] })
  have hpacer : w.reg.pacer = v.reg.pacer := by rw [hreg]
  refine ⟨{ w with decls := ds, resps := [] }, ⟨rfl, hpacer, hreqs, rfl⟩, rfl, fun t ht hcur => ?_⟩
  rw [← hp]
  have hfault : v.portFault (some (dieOf v.cur)) q.port = none := hp ▸ State.portFault_portOfNum hcut
  refine State.runs_to_port hst ⟨w, State.apply_single (q := q') rfl hi (hp ▸ portOfNum_ne_aperture n) hfault (hact b rfl) (.inl hmut), ?_⟩
  refine ⟨w.serve n id, ?_, t, ?_, rfl⟩
  · show Host.Outcome.next (w.serve (portNum q.port) id) = _
    rw [hp, portNum_portOfNum]
  · rw [hw]
    rw [hresps]
    refine State.ret_single (c := c) (x := r) rfl hdr (hissuer.trans hi) hcause ?_ hc (hbytes ▸ ht) hcur
    rw [hstamp]
    exact congrArg Region.wait hreg

/-- APPLY of a read of a view: the declaration's queue takes it. -/
theorem State.applyAct_derived {u : State} {q : Req} {id : Nat} {idxs : List Nat} {e : Decl} (ha : q.act = .derived id idxs)
    (hd : AMap.find u.decls id = some e) (hl : e.lost = false) :
    u.applyAct q = some { u with decls := AMap.put u.decls id (e.queued (portNum q.port) (.reply q.stamp q.issuer q.va q.port idxs)) } := by
  simp only [State.applyAct, Decl.queued, ha, hd, hl, Bool.false_eq_true, if_false]

theorem State.applyAct_dsync {u : State} {q : Req} {id : Nat} {e : Decl} (ha : q.act = .dsync [id]) (hd : AMap.find u.decls id = some e)
    (hl : e.lost = false) :
    u.applyAct q = some { u with decls := AMap.put u.decls id (e.queued (portNum q.port) (.syncReply q.stamp q.issuer q.port)) } := by
  simp only [State.applyAct, Decl.queued, ha, hd, hl, Bool.false_eq_true, if_false]

section
variable {v : State} {q : Req} {c : Cont} {n id : Nat} {e : Decl}
variable (hrs : v.resps = []) (hdr : v.dropped = []) (hi : q.issuer = .pacer v.cur) (hst : q.stage = .rq v.cur) (hp : q.port = portOfNum n)
  (hcut : v.cut (some (dieOf v.cur)) (portOfNum n) = false) (hd : AMap.find v.decls id = some e) (hl : e.lost = false)
  (hm : AMap.findD e.mq n [] = []) (hc : ∀ d, c ≠ .toC d)
include hrs hdr hi hst hp hcut hd hl hm hc

theorem State.runs_derived {idxs : List Nat} (ha : q.act = .derived id idxs) (hs : ∀ i ∈ idxs, (e.part n i).spoilt = false) :
    ∃ u, v.Back u ∧ u.mem = v.mem ∧ ∀ t, u.complete c [idxs.flatMap (fun i => (e.part n i).bytes)] = t → t.cur = u.cur →
      Runs (v.inFlight q c) [.pass .rq 0 (portOfNum n), .pass .dq (dieOf v.cur) (portOfNum n), .apply (portOfNum n), .serve (portOfNum n) id, .ret 0] t := by
  have hn : portNum q.port = n := hp ▸ portNum_portOfNum n
  refine State.runs_served (m := .reply q.stamp q.issuer q.va q.port idxs) (e := e) hrs hdr hi hst hp (by rw [ha]; rfl) hcut (fun u hu => ?_)
    (fun u _ => ?_) hc
  · rw [← hn]
    exact State.applyAct_derived (q := { q with stage := .pq }) ha (hu ▸ hd) hl
  · subst hn
    exact State.serve_queued_reply hl hm hs

theorem State.runs_dsync (ha : q.act = .dsync [id]) :
    ∃ u, v.Back u ∧ u.mem = v.mem ∧ ∀ t, u.complete c [[]] = t → t.cur = u.cur →
      Runs (v.inFlight q c) [.pass .rq 0 (portOfNum n), .pass .dq (dieOf v.cur) (portOfNum n), .apply (portOfNum n), .serve (portOfNum n) id, .ret 0] t := by
  have hn : portNum q.port = n := hp ▸ portNum_portOfNum n
  refine State.runs_served (m := .syncReply q.stamp q.issuer q.port) (e := e) hrs hdr hi hst hp (by rw [ha]; rfl) hcut (fun u hu => ?_)
    (fun u _ => ?_) hc
  · rw [← hn]
    exact State.applyAct_dsync (q := { q with stage := .pq }) ha (hu ▸ hd) hl
  · subst hn
    exact State.serve_queued_sync hl hm

end

end Sys2Proof.Machine

/-! # Proofs: reads of views, and DRGN.SYNC (O38) -/

namespace Sys2Proof.Machine

open Sys2Proof Sys2Proof.Claims

/-! ### The requests (R162, R165) -/

/-- The instruction's requests enter RQ and its Pacer waits for their answers. -/
theorem State.await_asks (s : State) (rs : List NewReq) (k : Cont) : asksView s ((s.enterPacer rs).1.await k (s.enterPacer rs).2) rs k := by
  obtain ⟨qs, hstate, hids, hmap⟩ := s.enterPacer_spec rs
  have hpa := congrArg (List.map (fun x => (x.2.2.2.1, x.2.2.2.2))) hmap
  rw [List.map_map, List.map_map] at hpa
  rw [hstate, hids]
  have hreg : (({ s with reqs := s.reqs ++ qs, stamp := s.stamp + rs.length } : State).await k (qs.map (·.stamp))).reg =
      { s.reg with wait := .resp k (qs.map (·.stamp)) [] } := State.onReg_reg _ _
  exact ⟨qs, rfl, hpa, by rw [hreg], by rw [hreg], rfl⟩

/-- The note of a watched address makes no difference to the requests. -/
theorem asksView_of_noted {s t : State} {g : AMap Region} {rs : List NewReq} {k : Cont}
    (hpacer : ({ s with regions := g } : State).reg.pacer = s.reg.pacer) (h : asksView { s with regions := g } t rs k) : asksView s t rs k := by
  obtain ⟨qs, h1, h2, h3, h4, h5⟩ := h
  exact ⟨qs, h1, h2, h3, h4.trans hpacer, h5⟩

section
variable {s : State} {i : Instr} {c : Cap} {a : Word} {n : Nat} {spaces : List Nat} {ps : List Piece}
variable (hacc : s.access c a.toNat n permLoad kindRead spaces .read = .ok (7, ps)) (act : Piece → Act) (k : Cont)
include hacc

theorem State.load_view_ok {w : Decl} {o : Nat} {rs : List NewReq} (hv : s.viewRequests (inSpace a) n a = .ok (w, o, rs)) :
    s.load i c a n spaces act k =
      .next (((s.noteAccess a n).enterPacer rs).1.await (.view w o n k) ((s.noteAccess a n).enterPacer rs).2) := by
  simp only [State.load, hacc, hv, beq_self_eq_true, if_true]

/-- A load of a view asks its ports. -/
theorem State.load_asks {w : Decl} {o : Nat} {rs : List NewReq} (hv : s.viewRequests (inSpace a) n a = .ok (w, o, rs)) :
    ∃ t, s.load i c a n spaces act k = .next t ∧ asksView s t rs (.view w o n k) := by
  obtain ⟨g, hg, hpacer⟩ := s.noted_frame a n
  refine ⟨_, State.load_view_ok hacc act k hv, ?_⟩
  rw [hg]
  exact asksView_of_noted hpacer (State.await_asks _ _ _)

end

/-- The one request of a read that one port answers. -/
def viewReq (e : Decl) (va : Word) (x n id m : Nat) : NewReq :=
  { key := e.elemKey 0 0, va := va, port := portOfNum m, cmpr := false, act := .derived id (e.viewIdxs (x - e.view) n) }

theorem State.viewRequests_of_holds {s : State} {x n id : Nat} {e : Decl} {m : Nat} {vs : List Byte} (h : viewHolds s x n id e m vs) (va : Word) :
    s.viewRequests x n va = .ok (e.shape, x - e.view, [viewReq e va x n id m]) := by
  obtain ⟨_, _, _, hat, _, hsize, hlost, hports, hcut, _⟩ := h
  have hfar : ¬(x - e.view + n > e.viewSize) := by omega
  simp only [State.viewRequests, hat, hfar, hlost, hports, State.cutOff, hcut, List.map_cons, List.map_nil, List.any_cons, List.any_nil, Bool.or_self,
    Bool.false_eq_true, if_false]
  rfl

/-! ### The end of an instruction with a pair of words or a capability -/

/-- The wait is over, X(d) and X(d + 1) hold x and y, and execution continues at NextPC. -/
def State.endXX (u : State) (d : XReg) (x y : Word) : State := (((u.onReg (fun g => { g with wait := .none })).wx d x).wx (d + 1) y).advance

/-- The wait is over, C(d) holds x, and execution continues at NextPC. -/
def State.endC (u : State) (d : CReg) (x : Cap) : State := ((u.onReg (fun g => { g with wait := .none })).wc d x).advance

@[simp] theorem State.endXX_cur (u : State) (d : XReg) (x y : Word) : (u.endXX d x y).cur = u.cur := by simp [State.endXX]
@[simp] theorem State.endXX_mem (u : State) (d : XReg) (x y : Word) : (u.endXX d x y).mem = u.mem := by simp [State.endXX]
@[simp] theorem State.endC_cur (u : State) (d : CReg) (x : Cap) : (u.endC d x).cur = u.cur := by simp [State.endC]
@[simp] theorem State.endC_mem (u : State) (d : CReg) (x : Cap) : (u.endC d x).mem = u.mem := by simp [State.endC]

/-- The second register of a pair, of which the first is even, is another one and not X0 (R238). -/
theorem pair_ne {d : XReg} (h : d.getLsbD 0 = false) : d + 1 ≠ d ∧ d + 1 ≠ 0 := by
  revert d
  decide

theorem State.Back.pair {s u : State} (h : s.Back u) {d : XReg} (hd : d.getLsbD 0 = false) (x y : Word) :
    (u.endXX d x y).reg.pacer.pcc = s.reg.pacer.pcc.withCursor s.nextPC ∧
      ∀ r, (u.endXX d x y).rx r = if r = d ∧ d ≠ 0 then x else if r = d + 1 then y else s.rx r := by
  have hpc : u.pc + 4 = s.nextPC := by rw [State.pc, h.pacer]; rfl
  have hreg : (u.endXX d x y).reg.pacer = { (s.reg.pacer.wx d x).wx (d + 1) y with pcc := s.reg.pacer.pcc.withCursor s.nextPC } := by
    rw [← h.pacer, ← hpc]
    simp [State.endXX, State.pc]
  refine ⟨by rw [hreg], fun r => ?_⟩
  have hr : (u.endXX d x y).rx r = ((s.reg.pacer.wx d x).wx (d + 1) y).rx r := by
    rw [State.rx, hreg]
    rfl
  obtain ⟨hne, h0⟩ := pair_ne hd
  rw [hr, Pacer.rx_wx, Pacer.rx_wx]
  by_cases h1 : r = d + 1
  · rw [if_pos ⟨h1, h0⟩, if_neg (fun h2 => hne (h1.symm.trans h2.1)), if_pos h1]
  · rw [if_neg (fun h2 => h1 h2.1), if_neg h1]
    rfl

theorem State.Back.cap {s u : State} (h : s.Back u) (d : CReg) (x : Cap) :
    (u.endC d x).reg.pacer.pcc = s.reg.pacer.pcc.withCursor s.nextPC ∧ ∀ r, (u.endC d x).rc r = if r = d ∧ d ≠ 0 then x else s.rc r := by
  have hpc : u.pc + 4 = s.nextPC := by rw [State.pc, h.pacer]; rfl
  have hreg : (u.endC d x).reg.pacer = { s.reg.pacer.wc d x with pcc := s.reg.pacer.pcc.withCursor s.nextPC } := by
    rw [← h.pacer, ← hpc]
    simp [State.endC, State.pc]
  refine ⟨by rw [hreg], fun r => ?_⟩
  have hr : (u.endC d x).rc r = (s.reg.pacer.wc d x).rc r := by
    rw [State.rc, hreg]
    rfl
  rw [hr]
  exact Pacer.rc_wc s.reg.pacer d r x

/-! ### A read of a view that one port holds (R162, R174) -/

/-- The instruction's load, its request's way, and its end with the bytes of the view. -/
theorem State.runs_load_view {s : State} {i : Instr} {c : Cap} {a : Word} {n : Nat} {spaces : List Nat} {ps : List Piece} {act : Piece → Act} {k : Cont}
    {id : Nat} {e : Decl} {m : Nat} {vs : List Byte} (hexec : exec i s = s.load i c a n spaces act k)
    (hacc : s.access c a.toNat n permLoad kindRead spaces .read = .ok (7, ps)) (h : viewHolds s (inSpace a) n id e m vs) :
    ∃ u got, s.Back u ∧ u.mem = s.mem ∧ e.shape.viewResult (inSpace a - e.view) n got = .ok vs ∧
      ∀ t, u.complete (.view e.shape (inSpace a - e.view) n k) got = t → t.cur = u.cur → t.mem = u.mem → readsView s i m id t := by
  have hreqs := State.viewRequests_of_holds h a
  obtain ⟨hrq, hrs, hdr, _, hd, _, hlost, _, hcut, hmq, hsound, hvs⟩ := h
  obtain ⟨g, hg, hpacer⟩ := s.noted_frame a n
  have hstep := hexec.trans (State.load_view_ok (i := i) hacc act k hreqs)
  rw [hg, State.await_single (v := { s with regions := g }) hrq] at hstep
  obtain ⟨u, ⟨hcur, hpac, hureqs, huresps⟩, humem, hruns⟩ := State.runs_derived (v := { s with regions := g })
    (q := State.reqOf { s with regions := g } (viewReq e a (inSpace a) n id m)) (c := .view e.shape (inSpace a - e.view) n k)
    hrs hdr rfl rfl rfl hcut hd hlost hmq nofun rfl hsound
  exact ⟨u, _, ⟨hcur, hpac.trans hpacer, hureqs, huresps⟩, humem, hvs, fun t ht hc hm => ⟨⟨_, hstep, hruns t ht hc⟩, hm.trans humem⟩⟩

section
variable {w : Decl} {off n : Nat} {got : List (List Byte)} {vs : List Byte} (h : w.viewResult off n got = .ok vs) (u : State)
include h

theorem State.complete_view_toX (d : XReg) (size : Nat) (signed : Bool) :
    u.complete (.view w off n (.toX d size signed)) got = u.endX d (loaded vs size signed) := by
  simp only [State.complete, h]
  rfl

theorem State.complete_view_held (d : XReg) (size : Nat) (signed : Bool) :
    u.complete (.view w off n (.held (.toX d size signed))) got = u.endX d (loaded vs size signed) := by
  simp only [State.complete, h]
  rfl

theorem State.complete_view_toXX (d : XReg) :
    u.complete (.view w off n (.toXX d)) got = u.endXX d (loaded vs 8 false) (loaded (vs.drop 8) 8 false) := by
  simp only [State.complete, h]
  rfl

theorem State.complete_view_toC (d : CReg) : u.complete (.view w off n (.toC d)) got = u.endC d (Cap.ofBytes (vs.take 16) false) := by
  simp only [State.complete, h]
  rfl

end

theorem exec_ld (s : State) (d : XReg) (cb : CReg) (xi : XReg) (off : BitVec 8) (u : BitVec 1) (sz : BitVec 2) :
    exec (.ld d cb xi off u sz) s = s.load (.ld d cb xi off u sz) (s.rc cb) (s.memAddr cb xi off (2 ^ sz.toNat)) (2 ^ sz.toNat) loadSpaces
      (fun p => .read p.size) (.toX d (2 ^ sz.toNat) (u == 0)) := rfl

/-- LD, LDQ and CLD of a view. -/
theorem viewLoads : ViewLoads := by
  intro s d cb cd xi off u sz ps c n a b
  refine ⟨fun hacc => ⟨fun w o rs hv => State.load_asks hacc _ _ hv, fun id e m vs h => ?_⟩,
    fun hd hacc => ⟨fun w o rs hv => ?_, fun id e m vs h => ?_⟩, fun hal hacc => ⟨fun w o rs hv => ?_, fun id e m vs h => ?_⟩⟩
  · obtain ⟨x, got, hback, _, hres, hend⟩ := State.runs_load_view (exec_ld s d cb xi off u sz) hacc h
    exact ⟨_, hend _ (State.complete_view_toX hres x d n (u == 0)) (x.endX_cur _ _) (x.endX_mem _ _), hback.came d _⟩
  · obtain ⟨t, ht, hasks⟩ := State.load_asks (i := .ldq d cb xi off) hacc _ _ hv
    exact ⟨t, (exec_ldq_even hd).trans ht, hasks⟩
  · obtain ⟨x, got, hback, _, hres, hend⟩ := State.runs_load_view (exec_ldq_even hd) hacc h
    exact ⟨_, hend _ (State.complete_view_toXX hres x d) (x.endXX_cur _ _ _) (x.endXX_mem _ _ _), hback.pair hd _ _⟩
  · obtain ⟨t, ht, hasks⟩ := State.load_asks (i := .cld cd cb xi off) hacc _ _ hv
    exact ⟨t, (exec_cld_aligned hal).trans ht, hasks⟩
  · obtain ⟨x, got, hback, _, hres, hend⟩ := State.runs_load_view (exec_cld_aligned hal) hacc h
    exact ⟨_, hend _ (State.complete_view_toC hres x cd) (x.endC_cur _ _) (x.endC_mem _ _), hback.cap cd _⟩

/-! ### DRGN.READ (R283) -/

theorem exec_drgnRead {s : State} {ca : CReg} (h : (s.rc ca).cursor.toNat % 4 = 0) (d : XReg) :
    exec (.drgnRead d ca) s = s.load (.drgnRead d ca) (s.rc ca) (s.rc ca).cursor 4 [7] (fun p => .read p.size) (.held (.toX d 4 false)) :=
  if_neg (by simp [h])

/-! ### DRGN.SYNC (R175, R283) -/

/-- The requests of DRGN.SYNC: one to every port of each declaration over the base. -/
def syncReqs (va : Word) (ds : List (Nat × Decl)) : List NewReq :=
  ds.flatMap (fun p => p.2.parts.map (fun q => { key := p.2.elemKey 0 0, va := va, port := portOfNum q.1, cmpr := false, act := .dsync [p.1] }))

theorem exec_drgnSync {s : State} {ca : CReg} (hc : (s.rc ca).checkRaw (s.rc ca).base.toNat 0 permLoad kindRead = none)
    (hne : s.overBase (s.rc ca) ≠ []) (hl : ∀ p ∈ s.overBase (s.rc ca), p.2.lost = false) (hrel : s.released 3 = true) :
    exec (.drgnSync ca) s = .next ((s.enterPacer (syncReqs (s.rc ca).cursor (s.overBase (s.rc ca)))).1.await (.deferred (.held .done))
      (s.enterPacer (syncReqs (s.rc ca).cursor (s.overBase (s.rc ca)))).2) := by
  show execDrgnSync ca s = _
  have hempty : (s.overBase (s.rc ca)).isEmpty = false := Bool.eq_false_iff.2 fun h => hne (List.isEmpty_iff.1 h)
  have hlost : (s.overBase (s.rc ca)).any (fun p => p.2.lost) = false := List.any_eq_false.2 fun p hp => by simp [hl p hp]
  simp only [execDrgnSync, hc, hempty, hlost, hrel, Bool.not_true, Bool.false_eq_true, if_false]
  rfl

theorem State.complete_sync (u : State) : u.complete (.deferred (.held .done)) [[]] = u.endX 0 0 := by
  rw [← State.endDone_eq]
  rfl

/-- DRGN.SYNC of one declaration with one port, and its request's way. -/
theorem State.runs_drgnSync {s : State} {ca : CReg} {id n : Nat} {e : Decl} {x : List Partial} (hrq : s.reqs = []) (hrs : s.resps = []) (hdr : s.dropped = [])
    (hc : (s.rc ca).checkRaw (s.rc ca).base.toNat 0 permLoad kindRead = none) (hover : s.overBase (s.rc ca) = [(id, e)])
    (hd : AMap.find s.decls id = some e) (hl : e.lost = false) (hparts : e.parts = [(n, x)]) (hm : AMap.findD e.mq n [] = [])
    (hcut : s.cut (some (dieOf s.cur)) (portOfNum n) = false) (hrel : s.released 3 = true) :
    ∃ t, Runs s [.drgnSync ca, .pass .rq 0 (portOfNum n), .pass .dq (dieOf s.cur) (portOfNum n), .apply (portOfNum n), .serve (portOfNum n) id,
      .ret 0] t ∧ came s t 0 0 ∧ t.mem = s.mem := by
  have hstep := exec_drgnSync hc (by simp [hover]) (by simp [hover, hl]) hrel
  have hone : syncReqs (s.rc ca).cursor (s.overBase (s.rc ca)) =
      [{ key := e.elemKey 0 0, va := (s.rc ca).cursor, port := portOfNum n, cmpr := false, act := .dsync [id] }] := by
    simp [syncReqs, hover, hparts]
  rw [hone, State.await_single hrq] at hstep
  obtain ⟨u, hback, hmem, hruns⟩ := State.runs_dsync (v := s) (q := s.reqOf
    { key := e.elemKey 0 0, va := (s.rc ca).cursor, port := portOfNum n, cmpr := false, act := .dsync [id] })
    (c := .deferred (.held .done)) hrs hdr rfl rfl rfl hcut hd hl hm nofun rfl
  exact ⟨_, ⟨_, hstep, hruns _ u.complete_sync rfl⟩, hback.came 0 0, hmem⟩

end Sys2Proof.Machine

/-! # Proofs: DRGN.DECL (O38) -/

namespace Sys2Proof.Machine

open Sys2Proof Sys2Proof.Claims

/-! ### The number of a new declaration -/

/-- A number above that of every record. -/
def AMap.above {α : Type} (m : AMap α) : Nat := m.foldl (fun k p => max k (p.1 + 1)) 0

theorem AMap.lt_foldl_above {α : Type} (m : AMap α) : ∀ k, k ≤ m.foldl (fun k p => max k (p.1 + 1)) k ∧
    ∀ p ∈ m, p.1 < m.foldl (fun k p => max k (p.1 + 1)) k := by
  induction m with
  | nil => exact fun k => ⟨le_rfl, nofun⟩
  | cons p m ih =>
    intro k
    obtain ⟨h1, h2⟩ := ih (max k (p.1 + 1))
    rw [List.foldl_cons]
    refine ⟨by omega, fun r hr => ?_⟩
    rcases List.mem_cons.1 hr with rfl | hr
    · omega
    · exact h2 r hr

theorem AMap.find_above {α : Type} (m : AMap α) : AMap.find m (AMap.above m) = none :=
  Option.eq_none_iff_forall_ne_some.2 fun _ hv => lt_irrefl _ ((AMap.lt_foldl_above m 0).2 _ (AMap.mem_of_find hv))

/-! ### The checks and the effect (R154, R155, R283) -/

/-- The declaration of a record before its ports scan it. -/
def State.declBefore (s s1 : State) (cd cb : CReg) (r : List Byte) : Decl :=
  let dv := s.rc cd
  let view := dv.base.toNat % 2 ^ 56
  declOf r (s1.vd.getD 0) ((s.rc cb).cursor.toNat % 2 ^ 56) false view (view + (dv.top - dv.base).toNat) []

/-- A declaration as the ports of its base scan it. -/
def State.scanned (s : State) (d0 : Decl) (sp : Nat) (ps : List Piece) : Decl := s.scan { d0 with sram := sp != 3, segs := baseSegs d0.base ps }

/-- A piece of the base holds an element whose data is uncorrectable. -/
def State.badPiece (s : State) (d : Decl) (p : Piece) : Bool := (d.elemsIn p.key p.size).any (fun e => s.badAt e.2.2)

/-- DRGN.DECL after its checks: a deferred fault of the first bad piece, or the declaration. -/
def State.declare (s : State) (d : Decl) (ps : List Piece) : Out :=
  match ps.find? (s.badPiece d) with
  | some p => s.deferred (class3 p.key 0) (BitVec.ofNat 64 (p.va.toNat / 16 * 16))
  | none => .next (({ s with decls := AMap.put s.decls (AMap.above s.decls) d } : State).advance)

/-- The checks of DRGN.DECL have passed: of the record, the base and the view's capability, of the view beside those of other declarations, and of what the
ports of the base can hold (R283). -/
structure DeclChecks (s : State) (cd ca cb : CReg) (s1 : State) (r : List Byte) (sp : Nat) (ps : List Piece) (d0 d : Decl) : Prop where
  aligned : (s.rc ca).cursor.toNat % 16 = 0
  fetched : s.fetchData (s.rc ca) (s.rc ca).cursor.toNat 128 permLoad recordSpaces = .ok (s1, r)
  expr : recExprBad r = false
  record : declOk r d0 = true
  space : memSpaces.contains (s.rc cb).spaceAt = true
  base : (s.rc cb).cursor.toNat % 16 = 0
  access : s1.access (s.rc cb) (s.rc cb).cursor.toNat d0.baseLen permLoad kindRead memSpaces .read = .ok (sp, ps)
  tagged : (s.rc cd).tag = true
  view : (s.rc cd).spaceAt = 7
  perms : (s.rc cd).perms.toNat = permLoad
  size : (d0.viewSize : Int) ≤ (s.rc cd).top - (s.rc cd).base
  apart : ∀ p ∈ s1.decls, p.2.view + p.2.viewSize ≤ d0.view ∨ d0.view + d0.viewSize ≤ p.2.view
  held : d.parts.all (fun p => (s1.flushFor ps).portHolds p.1 (d.stateBytes (p.2.filter (·.used)).length)) = true

theorem exec_drgnDecl {s s1 : State} {cd ca cb : CReg} {r : List Byte} {sp : Nat} {ps : List Piece} {d0 d : Decl} (hd0 : s.declBefore s1 cd cb r = d0)
    (hd : (s1.flushFor ps).scanned d0 sp ps = d) (h : DeclChecks s cd ca cb s1 r sp ps d0 d) :
    exec (.drgnDecl cd ca cb) s = (s1.flushFor ps).declare d ps := by
  obtain ⟨haligned, hfetched, hexpr, hrecord, hspace, hbase, haccess, htagged, hview, hperms, hsize, hapart, hheld⟩ := h
  have hover : s1.decls.any (fun p => decide (p.2.view < d0.view + d0.viewSize) && decide (d0.view < p.2.view + p.2.viewSize)) = false := by
    refine List.any_eq_false.2 fun p hp => ?_
    rw [Bool.and_eq_true, decide_eq_true_eq, decide_eq_true_eq]
    have := hapart p hp
    omega
  show execDrgnDecl cd ca cb s = _
  simp only [State.declBefore] at hd0
  simp only [State.scanned, baseSegs] at hd
  simp only [execDrgnDecl, haligned, hfetched, hd0, hexpr, hrecord, hspace, hbase, haccess, htagged, hview, hperms, not_lt.2 hsize, hover, hd, hheld,
    bne_self_eq_false, Bool.not_true, Bool.or_self, decide_false, Bool.false_eq_true, if_false]
  rfl

/-- Uncorrectable base data: a deferred fault, and no declaration. -/
theorem State.declare_bad {s : State} {d : Decl} {ps : List Piece} {p : Piece} (h : ps.find? (s.badPiece d) = some p) :
    ∃ t f, s.declare d ps = .next t ∧ t.reg.pend = some f ∧ (s.reg.pend = none → f.cause = class3 p.key 0) ∧ t.decls = s.decls ∧ t.mem = s.mem ∧
      t.reg.pacer.pcc = s.reg.pacer.pcc.withCursor s.nextPC := by
  obtain ⟨t, f, ht, _, hpend, hcause, hpcc⟩ := s.deferred_spec (class3 p.key 0) (BitVec.ofNat 64 (p.va.toNat / 16 * 16))
  refine ⟨t, f, ?_, hpend, hcause, ?_, ?_, hpcc⟩
  · rw [State.declare, h]
    exact ht
  all_goals
    cases ht
    rfl

theorem State.declare_good {s : State} {d : Decl} {ps : List Piece} (h : ∀ p ∈ ps, ∀ e ∈ d.elemsIn p.key p.size, s.badAt e.2.2 = false) :
    ∃ t id, s.declare d ps = .next t ∧ AMap.find t.decls id = some d ∧ AMap.find s.decls id = none ∧ t.mem = s.mem ∧
      ∀ j, j ≠ id → AMap.find t.decls j = AMap.find s.decls j := by
  have hnone : ps.find? (s.badPiece d) = none := List.find?_eq_none.2 fun p hp => by
    rw [State.badPiece, List.any_eq_true]
    rintro ⟨e, he, hbad⟩
    exact Bool.false_ne_true ((h p hp e he).symm.trans hbad)
  have heq : s.declare d ps = .next (({ s with decls := AMap.put s.decls (AMap.above s.decls) d } : State).advance) := by rw [State.declare, hnone]
  exact ⟨_, AMap.above s.decls, heq, AMap.find_put_same _ _ _, AMap.find_above _, rfl, fun j hj => AMap.find_put_other _ _ hj⟩

end Sys2Proof.Machine

/-! # Proofs: DRGN.DROP (O38) -/

namespace Sys2Proof.Machine

open Sys2Proof Sys2Proof.Claims

/-! ### What serving a declaration leaves -/

/-- t is s after ports have served declaration id: nothing but that declaration and responses that are on their way besides those of s differs. -/
structure State.Served (id : Nat) (s t : State) : Prop where
  rest : ({ t with decls := s.decls, resps := s.resps } : State) = s
  resps : ∀ r ∈ s.resps, r ∈ t.resps
  other : ∀ j, j ≠ id → AMap.find t.decls j = AMap.find s.decls j

theorem State.Served.refl (id : Nat) (s : State) : s.Served id s := ⟨rfl, fun _ h => h, fun _ _ => rfl⟩

theorem State.Served.trans {id : Nat} {s t u : State} (h1 : s.Served id t) (h2 : t.Served id u) : s.Served id u := by
  refine ⟨?_, fun r hr => h2.resps r (h1.resps r hr), fun j hj => (h2.other j hj).trans (h1.other j hj)⟩
  have h := congrArg (fun x : State => ({ x with decls := s.decls, resps := s.resps } : State)) h2.rest
  exact h.trans h1.rest

/-- An accepted read has been answered. -/
def State.answersFor (s : State) (st : Nat) (iss : Issuer) : Prop := ∃ r ∈ s.resps, r.stamp = st ∧ r.issuer = iss

theorem State.Served.answersFor {id : Nat} {s t : State} (h : s.Served id t) {st : Nat} {iss : Issuer} (ha : s.answersFor st iss) : t.answersFor st iss := by
  obtain ⟨r, hr, hst⟩ := ha
  exact ⟨r, h.resps r hr, hst⟩

/-! ### The queue of a port while it is served -/

/-- How often a port must serve a message, with the rescan that an entry may call for (R158). -/
def Maint.work : Maint → Nat
  | .entry .. => 2
  | _ => 1

def queueWork (ms : List Maint) : Nat := (ms.map Maint.work).sum

theorem queueWork_le (ms : List Maint) : queueWork ms ≤ 2 * ms.length := by
  induction ms with
  | nil => exact le_rfl
  | cons m ms ih =>
    have hm : m.work ≤ 2 := by cases m <;> simp [Maint.work]
    simp only [queueWork, List.map_cons, List.sum_cons, List.length_cons] at ih ⊢
    omega

theorem queueWork_putRescan (i : Nat) (ms : List Maint) : queueWork (putRescan i ms) = queueWork ms + 1 := by
  induction ms with
  | nil => rfl
  | cons m ms ih =>
    cases m <;> simp only [putRescan, queueWork, List.map_cons, List.sum_cons, Maint.work] at ih ⊢ <;> omega

theorem mem_putRescan {m : Maint} {ms : List Maint} (i : Nat) (h : m ∈ ms) : m ∈ putRescan i ms := by
  induction ms with
  | nil => cases h
  | cons x ms ih =>
    cases x with
    | reply => exact List.mem_cons_of_mem _ h
    | syncReply => exact List.mem_cons_of_mem _ h
    | entry | rescan =>
      rcases List.mem_cons.1 h with rfl | h
      · exact List.mem_cons_self
      · exact List.mem_cons_of_mem _ (ih h)

@[simp] theorem Decl.setPart_mq (d : Decl) (p i : Nat) (q : Partial) : (d.setPart p i q).mq = d.mq := rfl

@[simp] theorem Decl.bumpBin_mq (d : Decl) (p : Nat) (sgn : Int) (c : Nat) : (d.bumpBin p sgn c).mq = d.mq := by
  unfold Decl.bumpBin
  split <;> rfl

/-- An entry adds a rescan to its port's queue, or nothing. -/
theorem Decl.serveEntry_mq (d : Decl) (p i old new : Nat) : (d.serveEntry p i old new).mq = d.mq ∨
    (d.serveEntry p i old new).mq = AMap.put d.mq p (putRescan i (AMap.findD d.mq p [])) := by
  have hgo : (Decl.serveEntry.go d p i old new).mq = d.mq ∨
      (Decl.serveEntry.go d p i old new).mq = AMap.put d.mq p (putRescan i (AMap.findD d.mq p [])) := by
    simp only [Decl.serveEntry.go]
    split
    · exact .inr rfl
    · exact .inl rfl
  unfold Decl.serveEntry
  split
  · exact .inl ((Decl.bumpBin_mq _ _ _ _).trans (Decl.bumpBin_mq _ _ _ _))
  · exact hgo
  · exact hgo
  · exact hgo
  · exact .inl rfl

/-- e is a declaration whose port p has served the first of its messages, of which ms are left: those still wait, perhaps with a rescan that the first one called
for, and other ports' queues are as in d. -/
structure Decl.Shorter (d e : Decl) (p : Nat) (m : Maint) (ms : List Maint) : Prop where
  work : queueWork (AMap.findD e.mq p []) + 1 ≤ queueWork (m :: ms)
  kept : ∀ x ∈ ms, x ∈ AMap.findD e.mq p []
  other : ∀ n, n ≠ p → AMap.find e.mq n = AMap.find d.mq n

theorem Decl.shorter_of_put {d e : Decl} {p : Nat} {m : Maint} {ms : List Maint} (h : e.mq = AMap.put d.mq p ms) : d.Shorter e p m ms := by
  have hwork : 1 ≤ m.work := by cases m <;> simp [Maint.work]
  have hms : AMap.findD e.mq p [] = ms := by rw [h, AMap.findD_put_same]
  refine ⟨?_, fun x hx => hms ▸ hx, fun n hn => by rw [h, AMap.find_put_other _ _ hn]⟩
  rw [hms, queueWork, queueWork, List.map_cons, List.sum_cons]
  omega

theorem Decl.shorter_of_rescan {d e : Decl} {p i j old new : Nat} {ms : List Maint} (h : e.mq = AMap.put d.mq p (putRescan i ms)) :
    d.Shorter e p (.entry j old new) ms := by
  have hms : AMap.findD e.mq p [] = putRescan i ms := by rw [h, AMap.findD_put_same]
  refine ⟨?_, fun x hx => hms ▸ mem_putRescan i hx, fun n hn => by rw [h, AMap.find_put_other _ _ hn]⟩
  rw [hms, queueWork_putRescan, queueWork, queueWork, List.map_cons, List.sum_cons, Maint.work]
  omega

/-- An entry's effect, or the loss of the declaration (R161). -/
theorem Decl.shorter_entry (d : Decl) (p i old new : Nat) (ms : List Maint) (lost : Bool) :
    d.Shorter (if lost then { d with mq := AMap.put d.mq p ms, lost := true } else ({ d with mq := AMap.put d.mq p ms } : Decl).serveEntry p i old new)
      p (.entry i old new) ms := by
  cases lost with
  | true => exact Decl.shorter_of_put rfl
  | false =>
    rcases ({ d with mq := AMap.put d.mq p ms } : Decl).serveEntry_mq p i old new with h | h
    · exact Decl.shorter_of_put h
    · exact Decl.shorter_of_rescan (i := i) (h.trans (by rw [AMap.findD_put_same, AMap.put_put]))

/-! ### SERVE, message by message -/

theorem State.served_put (s : State) (id : Nat) (d : Decl) (rs : List Resp) : s.Served id { s with decls := AMap.put s.decls id d, resps := s.resps ++ rs } :=
  ⟨rfl, fun _ => List.mem_append_left _, fun _ hj => AMap.find_put_other _ _ hj⟩

theorem State.serve_entry {s : State} {p id i old new : Nat} {d : Decl} {ms : List Maint} (hd : AMap.find s.decls id = some d)
    (hm : AMap.findD d.mq p [] = .entry i old new :: ms) : ∃ lost : Bool, s.serve p id = { s with
      decls := AMap.put s.decls id (if lost then { d with mq := AMap.put d.mq p ms, lost := true }
        else ({ d with mq := AMap.put d.mq p ms } : Decl).serveEntry p i old new) } := by
  simp only [State.serve, hd, hm]
  exact ⟨_, rfl⟩

/-- One message served: its declaration's queue is shorter, and a read that was accepted is answered. -/
theorem State.serve_spec {s : State} {p id : Nat} {d : Decl} {m : Maint} {ms : List Maint} (hd : AMap.find s.decls id = some d)
    (hm : AMap.findD d.mq p [] = m :: ms) : s.Served id (s.serve p id) ∧ (∃ e, AMap.find (s.serve p id).decls id = some e ∧ d.Shorter e p m ms) ∧
      ∀ st iss va port idxs, m = .reply st iss va port idxs → (s.serve p id).answersFor st iss := by
  cases m with
  | entry i old new =>
    obtain ⟨lost, h⟩ := State.serve_entry hd hm
    rw [h]
    exact ⟨⟨rfl, fun _ h => h, fun _ hj => AMap.find_put_other _ _ hj⟩, ⟨_, AMap.find_put_same _ _ _, d.shorter_entry p i old new ms lost⟩, nofun⟩
  | rescan i =>
    rw [State.serve_rescan hd hm]
    exact ⟨⟨rfl, fun _ h => h, fun _ hj => AMap.find_put_other _ _ hj⟩, ⟨_, AMap.find_put_same _ _ _, Decl.shorter_of_put (State.rescan_mq _ _ _ _)⟩,
      nofun⟩
  | reply st iss va port idxs =>
    obtain ⟨e, r, h, he, _, hst, hiss, _, _⟩ := State.serve_reply hd hm
    rw [h]
    refine ⟨s.served_put id e [r], ⟨e, AMap.find_put_same _ _ _, Decl.shorter_of_put he⟩, fun _ _ _ _ _ heq => ?_⟩
    cases heq
    exact ⟨r, List.mem_append_right _ List.mem_cons_self, hst, hiss⟩
  | syncReply st iss port =>
    rw [State.serve_syncReply hd hm]
    exact ⟨s.served_put id _ _, ⟨_, AMap.find_put_same _ _ _, Decl.shorter_of_put rfl⟩, nofun⟩

theorem State.serve_of_empty {s : State} {p id : Nat} {d : Decl} (hd : AMap.find s.decls id = some d) (hm : AMap.findD d.mq p [] = []) :
    s.serve p id = s := by
  simp only [State.serve, hd, hm]

/-- A port has served messages of declaration d, which is there as e: other ports' queues are as they were. -/
structure State.ServedAt (p id : Nat) (d : Decl) (s t : State) (e : Decl) : Prop where
  served : s.Served id t
  found : AMap.find t.decls id = some e
  other : ∀ n, n ≠ p → AMap.find e.mq n = AMap.find d.mq n

/-- A port that serves a declaration n times: with n large enough, every read that it has accepted is answered. -/
theorem State.serveAll_spec (p id n : Nat) : ∀ {s : State} {d : Decl}, AMap.find s.decls id = some d →
    ∃ e, s.ServedAt p id d (s.serveAll p id n) e ∧ (queueWork (AMap.findD d.mq p []) ≤ n →
      ∀ st iss va port idxs, .reply st iss va port idxs ∈ AMap.findD d.mq p [] → (s.serveAll p id n).answersFor st iss) := by
  induction n with
  | zero =>
    intro s d hd
    refine ⟨d, ⟨.refl id s, hd, fun _ _ => rfl⟩, fun hwork st iss va port idxs hmem => ?_⟩
    obtain ⟨ms, ns, hms⟩ := List.append_of_mem hmem
    simp [hms, queueWork, Maint.work] at hwork
  | succ n ih =>
    intro s d hd
    cases hm : AMap.findD d.mq p [] with
    | nil =>
      obtain ⟨e, he, _⟩ := ih hd
      rw [State.serveAll, State.serve_of_empty hd hm]
      exact ⟨e, he, fun _ _ _ _ _ _ hmem => absurd hmem List.not_mem_nil⟩
    | cons m ms =>
      obtain ⟨hserved, ⟨d1, hd1, hwork, hkept, hother⟩, hanswer⟩ := State.serve_spec hd hm
      obtain ⟨e, ⟨hs, he, ho⟩, hreply⟩ := ih hd1
      refine ⟨e, ⟨hserved.trans hs, he, fun k hk => (ho k hk).trans (hother k hk)⟩, fun hle st iss va port idxs hmem => ?_⟩
      rcases List.mem_cons.1 hmem with hhead | htail
      · exact hs.answersFor (hanswer st iss va port idxs hhead.symm)
      · exact hreply (by omega) st iss va port idxs (hkept _ htail)

/-! ### The end of a declaration (R160, R161, R174, R175) -/

/-- The ports of a list serve a declaration, each as often as its queue can need. -/
def State.servePorts (s : State) (id : Nat) (l : AMap (List Maint)) : State := l.foldl (fun t m => t.serveAll m.1 id (2 * m.2.length)) s

/-- Every port serves its messages, and the reads that a port has accepted are answered. -/
theorem State.servePorts_spec (id : Nat) (l : AMap (List Maint)) : ∀ {s : State} {d : Decl}, AMap.find s.decls id = some d →
    s.Served id (s.servePorts id l) ∧ ∀ n ms, AMap.find l n = some ms → AMap.find d.mq n = some ms →
      ∀ st iss va port idxs, .reply st iss va port idxs ∈ ms → (s.servePorts id l).answersFor st iss := by
  induction l with
  | nil => exact fun _ => ⟨.refl id _, nofun⟩
  | cons m l ih =>
    intro s d hd
    obtain ⟨k, ms⟩ := m
    obtain ⟨e, ⟨hserved, he, hother⟩, hreply⟩ := State.serveAll_spec k id (2 * ms.length) hd
    obtain ⟨hrest, hlater⟩ := ih he
    refine ⟨hserved.trans hrest, fun n ns hl hq st iss va port idxs hmem => ?_⟩
    rw [AMap.find] at hl
    split at hl
    · next hn =>
      cases hl
      have hms : AMap.findD d.mq k [] = ms := by rw [AMap.findD, ← hn, hq]; rfl
      exact hrest.answersFor (hreply (hms ▸ queueWork_le ms) st iss va port idxs (hms ▸ hmem))
    · next hn => exact hlater n ns hl ((hother n hn).trans hq) st iss va port idxs hmem

theorem State.dropDecl_of_some {s : State} {id : Nat} {d : Decl} (hd : AMap.find s.decls id = some d) :
    s.dropDecl id = { s.servePorts id d.mq with decls := AMap.del (s.servePorts id d.mq).decls id } := by
  simp only [State.dropDecl, hd]
  rfl

/-- A declaration ends: nothing else differs but the answers of the reads that its ports had accepted. -/
theorem State.dropDecl_spec (s : State) (id : Nat) : s.Served id (s.dropDecl id) ∧ AMap.find (s.dropDecl id).decls id = none ∧
    ∀ e n ms, AMap.find s.decls id = some e → AMap.find e.mq n = some ms → ∀ st iss va port idxs, .reply st iss va port idxs ∈ ms →
      (s.dropDecl id).answersFor st iss := by
  cases hd : AMap.find s.decls id with
  | none =>
    have hsame : s.dropDecl id = s := by simp only [State.dropDecl, hd]
    rw [hsame]
    exact ⟨.refl id s, hd, nofun⟩
  | some d =>
    obtain ⟨⟨hrest, hresps, hother⟩, hreply⟩ := State.servePorts_spec id d.mq hd
    rw [State.dropDecl_of_some hd]
    refine ⟨⟨hrest, hresps, fun j hj => (AMap.find_del_other _ hj).trans (hother j hj)⟩, AMap.find_del_same _ _, fun e n ms he hq => ?_⟩
    cases he
    exact hreply n ms hq hq

/-! ### The instruction -/

section
variable {s : State} {ca : CReg}

theorem exec_drgnDrop {id : Nat} {d : Decl} (h : s.decls.find? (fun p => p.2.view == (s.rc ca).cursor.toNat % 2 ^ 56) = some (id, d))
    (hown : s.sup = true ∨ d.vd = s.vd.getD 0) : exec (.drgnDrop ca) s = .next (s.dropDecl id).advance := by
  show execDrgnDrop ca s = _
  have hmay : (!s.sup && d.vd != s.vd.getD 0) = false := by
    rcases hown with h | h <;> simp [h]
  simp only [execDrgnDrop, h, hmay, Bool.false_eq_true, if_false]

theorem exec_drgnDrop_none (h : s.decls.find? (fun p => p.2.view == (s.rc ca).cursor.toNat % 2 ^ 56) = none) :
    exec (.drgnDrop ca) s = s.fail 0x8C (s.rc ca).cursor := by
  show execDrgnDrop ca s = _
  simp only [execDrgnDrop, h]

end

theorem State.Served.reg {id : Nat} {s t : State} (h : s.Served id t) : t.reg = s.reg := by
  have e := congrArg State.reg h.rest
  exact e

theorem State.Served.mem {id : Nat} {s t : State} (h : s.Served id t) : t.mem = s.mem := by
  have e := congrArg State.mem h.rest
  exact e

theorem State.completes_drgnDrop {s : State} {ca : CReg} {id : Nat} {d : Decl}
    (h : s.decls.find? (fun p => p.2.view == (s.rc ca).cursor.toNat % 2 ^ 56) = some (id, d)) (hown : s.sup = true ∨ d.vd = s.vd.getD 0) :
    ∃ t, Completes (.drgnDrop ca) s t ∧ AMap.find t.decls id = none ∧ (∀ j, j ≠ id → AMap.find t.decls j = AMap.find s.decls j) ∧ t.mem = s.mem ∧
      t.reg.pacer = { s.reg.pacer with pcc := s.reg.pacer.pcc.withCursor s.nextPC } ∧ (∀ r ∈ s.resps, r ∈ t.resps) ∧
      ∀ e n ms, AMap.find s.decls id = some e → AMap.find e.mq n = some ms → ∀ st iss va port idxs, Maint.reply st iss va port idxs ∈ ms →
        ∃ r ∈ t.resps, r.stamp = st ∧ r.issuer = iss := by
  obtain ⟨hserved, hgone, hreply⟩ := s.dropDecl_spec id
  refine ⟨_, exec_drgnDrop h hown, hgone, hserved.other, hserved.mem, ?_, hserved.resps, hreply⟩
  simp [State.pc, State.nextPC, hserved.reg]

/-! ### The obligation -/

/-- Settles O38: a read of a view and DRGN.SYNC are followed from RQ to their port and back; DRGN.DECL by what its checks and the base's data allow,
DRGN.DROP by what its ports serve before the declaration ends. -/
theorem derivedRegions : Obligations.DerivedRegions := by
  refine ⟨viewLoads, ?_, ?_, ?_, ?_, ?_, ?_⟩
  · intro s cd ca cb s1 r sp ps rec_ base dv view d0 haligned hfetched hexpr hrecord hspace hbase haccess htagged hview hperms hsize hapart s2 d hheld
    have hexec := exec_drgnDecl (s := s) (cd := cd) (ca := ca) (cb := cb) (d0 := d0) (d := d) rfl rfl
      ⟨haligned, hfetched, hexpr, hrecord, hspace, hbase, haccess, htagged, hview, hperms, hsize, hapart, hheld⟩
    constructor
    · intro p hp
      obtain ⟨t, f, ht, hrest⟩ := State.declare_bad (s := s2) (d := d) hp
      exact ⟨t, f, hexec.trans ht, hrest⟩
    · intro hsound
      obtain ⟨t, id, ht, hrest⟩ := State.declare_good (s := s2) (d := d) hsound
      exact ⟨t, id, hexec.trans ht, hrest⟩
  · intro s d ca ps w off rs c hal hacc hv
    obtain ⟨t, ht, qs, hrest⟩ := State.load_asks (i := .drgnRead d ca) hacc (fun p => .read p.size) (.held (.toX d 4 false)) hv
    exact ⟨t, qs, (exec_drgnRead hal d).trans ht, hrest⟩
  · intro s d ca ps id e n vs c off p hrq hrs hdr hal hacc hat hd hsize hl hports hcut hm hsound hvs
    obtain ⟨u, got, hback, _, hres, hend⟩ := State.runs_load_view (exec_drgnRead hal d) hacc
      ⟨hrq, hrs, hdr, hat, hd, hsize, hl, hports, hcut, hm, hsound, hvs⟩
    obtain ⟨hruns, hmem⟩ := hend _ (State.complete_view_held hres u d 4 false) (u.endX_cur _ _) (u.endX_mem _ _)
    exact ⟨_, hruns, hback.came d _, hmem⟩
  · intro s ca c ds hc hne hl hrel
    obtain ⟨qs, hreqs, hmap, hrest⟩ := s.await_asks (syncReqs c.cursor ds) (.deferred (.held .done))
    refine ⟨_, qs, exec_drgnSync hc hne hl hrel, hreqs, hmap.trans ?_, hrest⟩
    simp [syncReqs, List.map_flatMap, Function.comp_def]
  · intro s ca id e n x c p hrq hrs hdr hc hover hd hl hparts hm hcut hrel
    exact State.runs_drgnSync hrq hrs hdr hc hover hd hl hparts hm hcut hrel
  · intro s ca a
    exact ⟨fun id d h hown => State.completes_drgnDrop h hown, fun h hs => entered_of_fail hs (exec_drgnDrop_none h)⟩

end Sys2Proof.Machine
